-- ==== Sys2Proof/Word.lean ====
section
/-!
DEFINITION. The words of the module: bytes and the little-endian words of R10.
-/
namespace Sys2Proof

/-- One byte. -/
abbrev Byte := BitVec 8
/-- A 16-bit word. -/
abbrev W16 := BitVec 16
/-- A 32-bit word. -/
abbrev W32 := BitVec 32
/-- A 64-bit word: the width of a register (R10, R675). -/
abbrev W64 := BitVec 64

end Sys2Proof
end

