-- ==== Sys2Proof/Config.lean ====
section
/-!
DEFINITION. What the spec leaves open: constants without a body, so that no proof can rest on a value of
theirs. Each is named in a row of the assumption log.
-/
namespace Sys2Proof.Config

/-- A fresh free value: the n-th value that some rule leaves undefined. It is applied to the counter
`State.freeCtr`, which the step that takes it advances. -/
opaque freeWord : Nat → W64

/-- Which of the two FP32 values around the exact result EXP2 delivers (R91: error below 1 ulp, the
same on every array). UNVERIFIED: the spec gives only the bound. -/
opaque exp2Up : W32 → Bool
/-- The same choice for RSQRT (R91). -/
opaque rsqrtUp : W32 → Bool
/-- The same choice for RECIP (R91). -/
opaque recipUp : W32 → Bool
/-- The same choice for the exponential of the stack reducer (R80). -/
opaque expUp : W32 → Bool
/-- The same choice for an RMS job with sum, scale and eps (Table 6.14). -/
opaque rmsUp : W32 → W32 → W32 → Bool
/-- The same choice for the exponential of the sampler and the stencil engine (R436). -/
opaque smpExpUp : W32 → Bool
/-- The same choice for the natural logarithm of the sampler (R436). -/
opaque smpLnUp : W32 → Bool

/-- The DRAM cycle, modulo 3,125, at which a planned refresh slot of a bank (by the bank's number in the module) begins
in the itinerary's time: R174 and R175 fix the interval of 3.90625 µs, R256 that slots are planned, no rule where in the
interval they lie. -/
opaque refreshPhase : Nat → Nat

/-- The power that a stack's refresh, or its self-refresh, takes, in W: R34 has it always granted, no rule gives it. -/
opaque refreshWatts : Nat → Bool → Nat

/-- The SHA-256 of Lyargan's firmware-signing public key, built into the boot ROM (chapter 17). The spec gives no
value. -/
opaque romKeyHash : List Byte
/-- The key_check value that the security engine computes from this module's identity seed (R638, R639). -/
opaque keyCheck : List Byte
/-- The HSS signature of a leaf index over a message (R643): the same index and message always give the same bytes. -/
opaque hssSign : Nat → List Byte → List Byte

/-- The physical function's PCI Vendor ID, which DOE discovery reports (R651) and no table gives. -/
opaque vendorId : W16

end Sys2Proof.Config
end

