-- ==== Sys2Proof/Types.lean ====
section
/-!
DEFINITION. The parts of an itinerary image as data: tiles, trowel launches, items, waystation tables (chapters 3,
6 and 8).
-/
namespace Sys2Proof.Machine

/-- A tile: ID, declared duration, recipe words by cell, and 8 bindings (§3.6). -/
structure Tile where
  id : Nat
  /-- its item of the itinerary -/
  item : Nat
  duration : Nat
  words : List (Nat × BitVec 512)
  binds : List (BitVec 256)
  deriving DecidableEq, Repr

/-- A trowel launch of an itinerary section (R215, Table 8.2). -/
structure TrwLaunch where
  stack : Nat
  trowel : Nat
  entry : Nat
  span : Nat
  wfmt : Nat
  ofmt : Nat
  qfmt : Nat
  tag : Nat
  params : List W16
  deriving DecidableEq, Repr

/-- What the plan of an attention item puts into its commands' parameters (R405, R406): for each, the number of the
parameter that takes it. The other parameters are the item's own. DESIGN CHOICE: the spec says that the values come from
the plan and not which parameter takes which. -/
structure AttnPlan where
  /-- the value pass, which takes wfmt from the blocks' V format; else the score pass, which takes it from their K format -/
  values : Bool
  layer : Nat
  /-- the bank row and the beat at which the head's data of the first and of the second block begin -/
  row0 : Option Nat
  row1 : Option Nat
  beat0 : Option Nat
  beat1 : Option Nat
  /-- valid tokens of the first and of the second block, and of the command: the value loop's count (R406) -/
  count0 : Option Nat
  count1 : Option Nat
  total : Option Nat
  deriving DecidableEq, Repr

/-- What an item of a member section does (Table 8.2). -/
inductive ItemWork where
  /-- a tile of an array, die * 96 + n -/
  | tile (arr : Nat) (t : Tile)
  | trowel (l : TrwLaunch)
  /-- an attention item, whose launches the hub's plan list gives (R405): entry, span, ofmt and qfmt are the item's,
  wfmt and the parameters that `a` names the plan's -/
  | attn (l : TrwLaunch) (a : AttnPlan)
  /-- a reducer job of a stack -/
  | job (stack : Nat) (w : W64)
  /-- a SCHED slot: its entry of the slot table (Table 9.10) -/
  | sched (e : BitVec 384)
  /-- a SCHED transfer expected from another member: the member, its tag (way and id) and its bytes -/
  | recv (sender : Nat) (tag : Nat) (bytes : Nat)
  /-- a SCHED slot that carries the attention result (O, M, L) of a slot for a head and layer to the slot's merge member;
  a member that holds no block of the slot sends nothing (R401) -/
  | osend (e : BitVec 384) (slot : Nat)
  /-- the same transfer as its receiver expects it -/
  | orecv (sender : Nat) (tag : Nat) (bytes : Nat) (slot : Nat)
  /-- the merge of a slot's results at its merge member (R401): the head dimension, the DPA of each member's result by
  member index (O, M and L in FP32), and the DPA of O* / L* -/
  | merge (slot : Nat) (d : Nat) (parts : List Nat) (out : Nat)
  /-- a DMA descriptor and the queue, 0 to 15, that performs it -/
  | dma (queue : Nat) (d : BitVec 512)
  /-- a serving-engine action: code and arguments (Table 11.8) -/
  | hub (code : Nat) (args : List Nat)
  deriving DecidableEq, Repr

/-- A phase of the power profile (Table 14.4): planned start, declared figures in W, clusters named. -/
structure Phase where
  start : Nat
  compute : Nat
  stks : Nat
  hub : Nat
  clusters : Nat
  deriving DecidableEq, Repr

/-- An item with its planned start in 1/64 bells, its planned end and its dependencies (R300): an item's number, or
2^32 plus a waystation's index. -/
structure Item where
  id : Nat
  variant : Nat
  start : Nat
  stop : Nat
  deps : List Nat
  work : ItemWork
  deriving DecidableEq, Repr

/-- A waystation table entry (Table 8.6): kind 1 ARRIVAL, 2 BARRIER, 3 PREEMPTIBLE, 4 CHECKPOINT. -/
structure WayEnt where
  kind : Nat
  owner : Nat
  release : Nat
  slack : Nat
  /-- the expected list -/
  list : List Nat
  deriving DecidableEq, Repr

/-- A micro-program word of a trowel section: variant, stack, trowel, index. -/
structure ProgWord where
  variant : Nat
  stack : Nat
  trowel : Nat
  index : Nat
  word : W64
  deriving DecidableEq, Repr

/-- An itinerary image as its parts give it to this member (R298, R299). -/
structure ItinImage where
  magic : Nat
  version : Nat
  /-- header flags word: [0] exact, [1] serving -/
  flags : Nat
  ordering : Nat
  groups : Nat
  dmax : Nat
  members : Nat
  variants : Nat
  seed : Nat
  mbells : Nat
  length : Nat
  mapHash : Nat
  /-- no reserved field of the image is nonzero -/
  clean : Bool
  /-- waystation tables by variant -/
  ways : List (List WayEnt)
  /-- shape records by variant: 17 bucket capacities and the prefill capacity (R403) -/
  shapes : List (List Nat)
  /-- the manifest slot's entry of the fabric slot table (Table 9.10), zero for none (Table 8.1, R310) -/
  slot : BitVec 384
  phases : List Phase
  programs : List ProgWord
  items : List Item
  deriving DecidableEq, Repr

end Sys2Proof.Machine
end

