-- ==== Sys2Proof/Syntax.lean ====
section
/-!
DEFINITION. The commands of the module: one constructor of `Instr` per row of the opcode table, with the
operands that come from outside the block (a packet, a register value, bytes on a link, a physical event).
-/
namespace Sys2Proof

/-- What the device finds when it reads a range of host memory (Table 13.10). -/
inductive HostMark where
  /-- the bytes are delivered -/
  | ok
  /-- delivered with the EP bit -/
  | poisoned
  /-- Unsupported Request -/
  | unreachable
  deriving DecidableEq, Repr

/-- A range of host memory as the device finds it while a command runs. -/
structure HostSeg where
  base : Nat
  bytes : List Byte
  mark : HostMark
  deriving DecidableEq, Repr

/-- The host memory a command reads; an address in no segment reads as zero. -/
abbrev HostView := List HostSeg

/-- A command packet (Table 12.1) as fetched from submission queue `sq`; the row fixes the opcode. -/
structure Packet where
  sq : Nat
  /-- bytes 2 and 3: BARRIER [15], DL_HOST [14], QUIET [13], reserved [12:0] -/
  flags : W16
  tag : W32
  /-- bytes 8 to 11: context [7:0], reserved [31:8] -/
  ctxWord : W32
  deadline : W64
  /-- bytes 20 to 63, little-endian -/
  params : BitVec 352
  deriving DecidableEq, Repr

/-- The outcome of an SEC-DED check of a protected word of SRAM (R106, R115, R143, R582). -/
inductive Ecc where
  | clean | corrected | uncorrectable
  deriving DecidableEq, Repr

/-- A screed access hint, encoded as in Table 3.7 (R144). -/
inductive Hint where
  | normal | stream | keep | last
  deriving DecidableEq, Repr

/-- A bit flip of a stored DRAM bit: data bit `bit` of the byte at a physical byte address, or bit `bit` of
the check field that covers that byte. -/
structure Flip where
  addr : Nat
  check : Bool
  bit : Nat
  deriving DecidableEq, Repr

/-- An SMBus transaction (R668): the bus speed as MOD_SMB.speed codes it, its packet error code, absent or present
and valid or not, and the data bytes that it writes after the command code. -/
structure SmbTxn where
  speed : Nat
  pec : Option Bool
  data : List Byte
  deriving DecidableEq, Repr

/-- An access to memory by DPA, as an issuer of Table 4.2 sends it; `slot` is the slot that owns it, if one does (R148). -/
structure Access where
  issuer : Nat
  slot : Option Nat
  write : Bool
  hint : Hint
  dpa : Nat
  /-- bytes read, 1 to 64, or the number of bytes in `data` -/
  len : Nat
  data : List Byte
  poison : Bool
  deriving DecidableEq, Repr

/-- The site of a recipe step: compute die, array 0 to 95, cell 32i + j, and the tile cycle k. -/
structure Site where
  die : Nat
  array : Nat
  cell : Nat
  k : Nat
  /-- the outcomes of the SEC-DED checks of the scratch words the step reads (R106), clean where none is listed: those of
  an LD or of operand A's feeder, low word first, then those of operand B's feeder -/
  ecc : List Ecc
  deriving DecidableEq, Repr

/-- A trowel: stack and trowel index. -/
structure TSite where
  stack : Nat
  trowel : Nat
  deriving DecidableEq, Repr

/-- The commands of the block: one constructor per row of the opcode table. -/
inductive Instr where
  /-- DEVICE_IDENTIFY (R651): Returns the 256-byte identity record, including ordering code and serial, in the result window. -/
  | deviceIdentify (p : Packet) (hv : HostView)
  /-- DEVICE_INIT (R210): Trains the stacks, loads every retirement entry and moves the work state from COLD to CONFIGURED. -/
  | deviceInit (p : Packet) (hv : HostView)
  /-- DEVICE_QUIESCE (R480): Stops beginning commands of other SQs, waits for begun commands to complete and enters QUIESCED. -/
  | deviceQuiesce (p : Packet) (hv : HostView)
  /-- DEVICE_RESUME (R468): Returns the module from QUIESCED to its home state. -/
  | deviceResume (p : Packet) (hv : HostView)
  /-- DEVICE_RESET (R625): Checks the level, writes its reply, then performs a CLUSTER to COLD reset. -/
  | deviceReset (p : Packet) (hv : HostView)
  /-- POWER_SET (R543): Moves the module to the named power state at the deepest depth whose wake time fits the budget. -/
  | powerSet (p : Packet) (hv : HostView)
  /-- MAINT_ENTER (R465): Discards the model and every itinerary and moves from QUIESCED to MAINTENANCE. -/
  | maintEnter (p : Packet) (hv : HostView)
  /-- MAINT_EXIT (R465): Moves from MAINTENANCE to CONFIGURED and discards staged images. -/
  | maintExit (p : Packet) (hv : HostView)
  /-- QUEUE_CREATE (R450): Creates an SQ or a CQ for a function, with its size, base and bound CQ or MSI-X vector. -/
  | queueCreate (p : Packet) (hv : HostView)
  /-- QUEUE_DELETE (R483): Discards unfetched packets, aborts fetched ones and removes the queue. -/
  | queueDelete (p : Packet) (hv : HostView)
  /-- CONTEXT_CREATE (R486): Creates an execution context in a group and reserves its 292 MiB swap area. -/
  | contextCreate (p : Packet) (hv : HostView)
  /-- CONTEXT_DESTROY (R496): Destroys a context and aborts its fetched commands. -/
  | contextDestroy (p : Packet) (hv : HostView)
  /-- CONTEXT_POLICY (R492): Sets a group's swap policy to AUTO or WAIT. -/
  | contextPolicy (p : Packet) (hv : HostView)
  /-- CONTEXT_PREEMPT (R493): Records a pre-emption request, or withdraws one, and completes when the run holds at its stop point. -/
  | contextPreempt (p : Packet) (hv : HostView)
  /-- CONTEXT_RESUME (R495): Brings in a swapped-out context and releases its pre-emption stop. -/
  | contextResume (p : Packet) (hv : HostView)
  /-- CONTEXT_SWAP (R495): Evicts one context and brings in another. -/
  | contextSwap (p : Packet) (hv : HostView)
  /-- AUTO_EVICT (R492): Under the AUTO policy in a stalled device, evicts the longest-blocked eligible context and brings in the runnable one. -/
  | autoEvict
  /-- DMA_SUBMIT (R528): Checks and runs a list of DMA descriptors and completes with the status of R529. -/
  | dmaSubmit (p : Packet) (hv : HostView)
  /-- COPY (R526): DMA descriptor that moves length bytes from source to destination, with an optional APPEND or CHECK_STRIP. -/
  | copy (q i : Nat) (hv : HostView)
  /-- GATHER (R526): DMA descriptor that gathers 8-byte elements from a list of addresses over the skim path. -/
  | gather (q i : Nat) (hv : HostView)
  /-- SCATTER (R526): DMA descriptor that scatters 8-byte elements to a list of addresses. -/
  | scatter (q i : Nat) (hv : HostView)
  /-- CONVERT (R526): DMA descriptor that converts elements between formats, marking poison under R676. -/
  | convert (q i : Nat) (hv : HostView)
  /-- CHAN_LOAD (R531): DMA descriptor that replaces a channel's running value. -/
  | chanLoad (q i : Nat)
  /-- CHAN_STORE (R531): DMA descriptor that stores a channel's running value. -/
  | chanStore (q i : Nat)
  /-- DMA_FENCE (R274): DMA fence descriptor of DEVICE or CARAVAN scope that orders the queue's descriptors. -/
  | dmaFence (q i : Nat)
  /-- MEM_FILL (R465): Writes an 8-byte pattern over a DPA range with STREAM. -/
  | memFill (p : Packet) (hv : HostView)
  /-- SCREED_MAINT (R166): Runs a screed maintenance operation on both dies. -/
  | screedMaint (p : Packet) (hv : HostView)
  /-- RETIRE (R207): Retires a physical page or bank and returns the affected DPA values. -/
  | retire (p : Packet) (hv : HostView)
  /-- RETIRE_LIST (R465): Copies the retired list into the result window. -/
  | retireList (p : Packet) (hv : HostView)
  /-- RETIRE_CLEAR (R209): Empties the retired list in flash and in every stack. -/
  | retireClear (p : Packet) (hv : HostView)
  /-- RELOAD_RANGE (R621): Rewrites quarantined granules from a host source and removes them from quarantine. -/
  | reloadRange (p : Packet) (hv : HostView)
  /-- RELEASE (R503): Frees a completed command's result window. -/
  | release (p : Packet) (hv : HostView)
  /-- ITIN_LOAD (R302): Checks an itinerary image and loads it for the packet's context. -/
  | itinLoad (p : Packet) (hv : HostView) (img : Sys2Proof.Machine.ItinImage)
  /-- ITIN_UNLOAD (R465): Unloads the context's itinerary, or is refused with BUSY while it runs. -/
  | itinUnload (p : Packet) (hv : HostView)
  /-- ITIN_RUN (R310): Starts one run of a non-serving itinerary and completes at its end. -/
  | itinRun (p : Packet) (hv : HostView)
  /-- CARAVAN_FORM (R477): Checks a caravan map, sets the caravan hash and tree roles, and joins the caravan. -/
  | caravanForm (p : Packet) (hv : HostView) (ans : List (Nat × List Byte))
  /-- CARAVAN_DISBAND (R468): Leaves the caravan and returns the module to its home state. -/
  | caravanDisband (p : Packet) (hv : HostView)
  /-- STEP (R423): The lead module fetches, checks and stages a manifest, selects its variant and broadcasts it. -/
  | step (p : Packet) (hv : HostView)
  /-- PREFIX_HASH (R394): Returns the prefix-hash digests of token blocks without changing anything. -/
  | prefixHash (p : Packet) (hv : HostView)
  /-- PREFIX_LOOKUP (R397): Hashes token blocks, looks up the prefix index and optionally takes host references on the hits. -/
  | prefixLookup (p : Packet) (hv : HostView)
  /-- PAGE_ALLOC (R466): Allocates and places n OWNED blocks, each with one host reference. -/
  | pageAlloc (p : Packet) (hv : HostView)
  /-- PAGE_REF (R466): Takes one host reference on each listed block. -/
  | pageRef (p : Packet) (hv : HostView)
  /-- PAGE_FREE (R466): Releases one host reference on each listed block. -/
  | pageFree (p : Packet) (hv : HostView)
  /-- PAGE_READ (R467): Copies a frame's pages to host memory while holding a pin on the block. -/
  | pageRead (p : Packet) (hv : HostView)
  /-- PAGE_WRITE (R467): Copies host bytes into an OWNED frame's pages. -/
  | pageWrite (p : Packet) (hv : HostView)
  /-- BLOCK_TABLE_READ (R381): Returns entries of a slot's block table. -/
  | blockTableRead (p : Packet) (hv : HostView)
  /-- TENANT_SET (R417): Sets a tenant's class and enable bit. -/
  | tenantSet (p : Packet) (hv : HostView)
  /-- MODEL_LOAD (R415): Checks a model descriptor, reserves the serving state and moves from CONFIGURED to LOADED. -/
  | modelLoad (p : Packet) (hv : HostView)
  /-- MODEL_UNLOAD (R415): Discards the model with its ledger, slots, adapters, grammars and tenant settings. -/
  | modelUnload (p : Packet) (hv : HostView)
  /-- ADAPTER_LOAD (R444): Loads an adapter generation into a store and makes it current. -/
  | adapterLoad (p : Packet) (hv : HostView)
  /-- ADAPTER_FREE (R444): Makes an adapter slot's current generation retiring. -/
  | adapterFree (p : Packet) (hv : HostView)
  /-- GRAMMAR_LOAD (R440): Checks a grammar image and places it at a grammar index. -/
  | grammarLoad (p : Packet) (hv : HostView)
  /-- GRAMMAR_FREE (R440): Frees a resident grammar. -/
  | grammarFree (p : Packet) (hv : HostView)
  /-- FABRIC_MANAGE (R344): Runs the census with this module's firmware as the fabric manager. -/
  | fabricManage (p : Packet) (hv : HostView) (own : List (Nat × Nat)) (sent : List (Nat × Nat × List Byte × Nat))
  /-- FABRIC_RELEASE (R342): Releases the fabric-manager claim held by this module's host or firmware. -/
  | fabricRelease (p : Packet) (hv : HostView)
  /-- FABRIC_WRITE (R343): Writes a manager-writable FAB_ field locally. -/
  | fabricWrite (p : Packet) (hv : HostView)
  /-- FABRIC_MGMT (R465): Sends one MGMT packet and returns its response. -/
  | fabricMgmt (p : Packet) (hv : HostView)
  /-- EVENT_WAIT (R504): Waits for and delivers the oldest pending event entry of the function. -/
  | eventWait (p : Packet) (hv : HostView)
  /-- LOG_DRAIN (R588): Pops whole records of a depot queue into the result window. -/
  | logDrain (p : Packet) (hv : HostView)
  /-- TELEMETRY_READ (R602): Returns the snapshot that the selector names and can release the frozen incident ring. -/
  | telemetryRead (p : Packet) (hv : HostView)
  /-- ATTEST (R651): Returns a measurement record signed with the next identity leaf. -/
  | attest (p : Packet) (hv : HostView) (bad : Nat)
  /-- FW_STAGE (R652): Copies and verifies a firmware image or blob and stages it. -/
  | fwStage (p : Packet) (hv : HostView)
  /-- FW_ACTIVATE (R653): Writes the staged image to flash under the update marker and verifies it. -/
  | fwActivate (p : Packet) (hv : HostView) (bad : Nat)
  /-- SIGN_STATUS (R651): Reports the signing state: indices left in the reservation and blocks reserved. -/
  | signStatus (p : Packet) (hv : HostView)
  /-- PACKET_FETCH (R453): The quartermaster fetches pending packets from the SQs in rounds. -/
  | packetFetch (hv : HostView) (lost : List Nat)
  /-- HUB_SQ_TAIL (R452): The SQ tail doorbell write announces new packets. -/
  | hubSqTail (fn n : Nat) (v : W64)
  /-- HUB_CQ_HEAD (R452): The CQ head doorbell write frees CQ entries and lets fetching resume under R28. -/
  | hubCqHead (fn n : Nat) (v : W64)
  /-- HUB_SQ_HALT (R479): Writing 1 to a halt bit acknowledges the halt and resumes the SQ. -/
  | hubSqHalt (fn k : Nat) (v : W64)
  /-- HUB_CMD_CTRL_ENABLE (R507): Writing 1 to enable creates the admin pair from the HUB_AQ_ registers. -/
  | hubCmdCtrlEnable (v : W64)
  /-- REGISTER_WRITE (R11): A write to a register with no row of its own, applied under the access codes and reserved-field rules. -/
  | registerWrite (fn off : Nat) (bytes : List Byte) (ep : Bool)
  /-- NOP (R108): Recipe step that takes the issue slot and advances. -/
  | nop (st : Site)
  /-- DOT (R89): Recipe step that forms an exact scaled dot product and adds it to the accumulator with one rounding. -/
  | dot (st : Site)
  /-- ADD (R108): Recipe lane-unit addition per lane. -/
  | add (st : Site)
  /-- MUL (R108): Recipe lane-unit multiplication per lane. -/
  | mul (st : Site)
  /-- FMA (R108): Recipe fused multiply-add per lane with one rounding. -/
  | fma (st : Site)
  /-- MAX (R47): Recipe per-lane maximum with NaN propagation. -/
  | max (st : Site)
  /-- MIN (R47): Recipe per-lane minimum with NaN propagation. -/
  | min (st : Site)
  /-- EXP2 (R91): Recipe FP32 power of two per lane. -/
  | exp2 (st : Site)
  /-- RSQRT (R91): Recipe FP32 reciprocal square root per lane. -/
  | rsqrt (st : Site)
  /-- RECIP (R91): Recipe FP32 reciprocal per lane. -/
  | recip (st : Site)
  /-- MOV (R108): Recipe step that copies 128 bits of A to a register pair. -/
  | mov (st : Site)
  /-- CVT (R113): Recipe step that converts two lanes to fmt_out at element positions in dst. -/
  | cvt (st : Site)
  /-- BENC (R113): Recipe step that encodes one MX or BS3 block from FP32 lanes. -/
  | benc (st : Site)
  /-- LD (R112): Recipe step that loads 16 bytes of scratch at the binding address. -/
  | ld (st : Site)
  /-- ST (R112): Recipe step that stores 8 bytes to scratch at the binding address. -/
  | st (st : Site)
  /-- SLD (R109): Recipe step that issues an 8-byte screed read; the context waits. -/
  | sld (st : Site)
  /-- SST (R109): Recipe step that posts an 8-byte screed write. -/
  | sst (st : Site)
  /-- SATOM (R152): Recipe step that issues a screed atomic; the context waits for the old value. -/
  | satom (st : Site)
  /-- FENCE (R275): Recipe fence of ARRAY, DEVICE or CARAVAN scope. -/
  | fence (st : Site)
  /-- SCREED_RETURN (R95): The value of an SLD or SATOM arrives and its context leaves WAIT. -/
  | screedReturn (die : Nat) (array : Nat) (cell : Nat) (c : Nat)
  /-- FENCE_DONE (R275): The conditions of a release or full fence are met and the waiting agent proceeds. -/
  | fenceDone (die : Nat) (array : Nat) (cell : Nat) (c : Nat)
  /-- TILE_END (R96): The last context retires; the configuration switch drains, latches flags and queues DRAIN copies. -/
  | tileEnd (die : Nat) (array : Nat)
  /-- ACTIVATION_STROBE (R116): A READY shadow becomes active, its words are distributed and checked, and the tile starts issuing. -/
  | activationStrobe (die : Nat) (array : Nat) (words : Ecc)
  /-- RAMP_STEP (R116): At each ramp point, two more contexts are enabled to issue. -/
  | rampStep (die : Nat) (array : Nat)
  /-- SHADOW_LOADED (R116): The sequencer finishes copying the next tile into the shadow buffer. -/
  | shadowLoaded (die : Nat) (array : Nat)
  /-- PREFETCH_DONE (R119): A PREFETCH copy completes; with all copies complete, the shadow becomes READY. -/
  | prefetchDone (die : Nat) (array : Nat) (bind : Nat)
  /-- DRAIN_DONE (R119): A DRAIN copy completes, releasing waiting ST steps and later PREFETCHes. -/
  | drainDone (die : Nat) (array : Nat) (ecc : List (Nat × Ecc) := [])
  /-- STOP_REQUEST (R127): A stop request is recorded and takes effect at switch cycle 96, leaving the array HELD. -/
  | stopRequest (die : Nat) (array : Nat) (late : Bool := false)
  /-- HELD_RELEASE (R129): Release from HELD; the strobe follows and the switch continues from cycle 129. -/
  | heldRelease (die : Nat) (array : Nat)
  /-- TILE_WATCHDOG (R124): The watchdog limit is reached; the tile is aborted and the segment owes a missed waystation. -/
  | tileWatchdog (die : Nat) (array : Nat)
  /-- CLUSTER_CLOCK_LOSS (R132): Loss of a cluster clock puts its arrays in FAULT. -/
  | clusterClockLoss (die : Nat) (cluster : Nat)
  /-- ARY_CLR_COUNTERS (R11): ARY_CTRL.clr_counters zeroes the die's array counters. -/
  | aryClrCounters (die : Nat) (v : W64)
  /-- SLICE_ACCESS (R148): An access reaches its home slice and is performed in line order under its hint. -/
  | sliceAccess (a : Access) (tag : Ecc) (data : Ecc)
  /-- LINE_FILL (R138): Fetched stack bytes return and are merged into the invalid bytes of the line. -/
  | lineFill (flips : List Flip)
  /-- WRITEBACK_DONE (R141): A victim writeback completes and waiting accesses proceed as misses. -/
  | writebackDone (slice : Nat)
  /-- ATOMIC_PERFORM (R156): The slice atomic unit performs a queued atomic on one word. -/
  | atomicPerform (slice : Nat)
  /-- COMMIT_NOTICE (R149): A commit notice invalidates the masked bytes of a line at its home slice. -/
  | commitNotice (dpa : Nat)
  /-- SKIM_ACCESS (R162): A skim access checks the home slice and on a miss enters the skim front and channel queues. -/
  | skimAccess (issuer : Nat) (write : Bool) (addr : Nat) (value : W64) (poison : Bool) (slot : Option Nat := none)
  /-- SKIM_CHANNEL_SERVICE (R163): A channel performs one queued skim access as a chopped burst. -/
  | skimChannelService (stack : Nat) (channel : Nat) (flips : List Flip)
  /-- WRITEBACK (R166): SCD_MAINT operation that writes dirty bytes in range and keeps the lines clean. -/
  | writeback (die : Nat)
  /-- WB_INVALIDATE (R166): SCD_MAINT operation that writes dirty bytes and then invalidates the lines. -/
  | wbInvalidate (die : Nat)
  /-- CLEAR_KEEP (R166): SCD_MAINT operation that clears the keep bits in range. -/
  | clearKeep (die : Nat)
  /-- MAINT_DONE (R166): The maintenance walker finishes its pass over the sets. -/
  | maintDone (die : Nat)
  /-- SCD_MAINT_RANGE (R167): A write of the maintenance range, ignored while busy. -/
  | scdMaintRange (die : Nat) (v : W64)
  /-- SCD_CLR_COUNTERS (R168): SCD_CTRL.clr_counters zeroes the die's screed counters. -/
  | scdClrCounters (die : Nat)
  /-- SKM_CLR_COUNTERS (R169): SKM_CTRL.clr_counters zeroes the skim counts and marks. -/
  | skmClrCounters (die : Nat)
  /-- BANK_ACCESS (R251): The sequencer serves a channel access at a bank with check decode and correction. -/
  | bankAccess (source : Nat) (issuer : Nat) (write : Bool) (dpa : Nat) (len : Nat) (data : List Byte) (poison : Bool) (flips : List Flip)
  /-- REFRESH (R174): A per-bank refresh falls due and is taken or postponed. -/
  | refresh (stack : Nat) (die : Nat) (bank : Nat)
  /-- MERGE_WINDOW_CLOSE (R192): A merge-buffer entry's 80 ns window expires and it closes by read-modify-write. -/
  | mergeWindowClose (stack : Nat) (flips : List Flip)
  /-- SCRUB_VISIT (R200): The scrub engine reads one row and writes back corrections. -/
  | scrubVisit (stack : Nat) (flips : List Flip)
  /-- CONTROL_SPACE_ACCESS (R184): The stack sequencer performs a control-space access in receipt order. -/
  | controlSpaceAccess (issuer : Nat) (write : Bool) (dpa n : Nat) (v : W64) (poison : Bool)
  /-- STK_SCRUB_CTRL (R212): A write of the scrub interval and enable, checked for range. -/
  | stkScrubCtrl (stack : Nat) (v : W64)
  /-- STK_CLR_COUNTERS (R211): STK_CTRL.clr_counters zeroes the stack counters. -/
  | stkClrCounters (stack : Nat) (v : W64)
  /-- STACK_FAULT (R610): A PLL, sequencer or retrain failure puts the stack in FAULT. -/
  | stackFault (stack : Nat)
  /-- TRW_START (R215): TRW_CTRL.start requests a direct launch, checked under R217. -/
  | trwStart (t : TSite) (v : W32)
  /-- TRW_KILL (R245): TRW_CTRL.kill kills a running or held command at the next cycle boundary. -/
  | trwKill (t : TSite) (v : W32)
  /-- TRW_CLR_COUNTERS (R222): TRW_CTRL.clr_counters zeroes the trowel's counters. -/
  | trwClrCounters (t : TSite) (v : W32)
  /-- TROWEL_LAUNCH (R215): The stack sequencer launches an itinerary trowel command at its planned start. -/
  | trowelLaunch (t : TSite)
  /-- X_NOP (R224): Trowel X-slot no-operation. -/
  | trwXNop (t : TSite)
  /-- OPEN (R230): Trowel instruction that loads a bank row into its latch over 38 cycles. -/
  | trwOpen (t : TSite) (flips : List Flip)
  /-- STREAM (R225): Trowel instruction that copies a latch beat into the widener or scale buffer. -/
  | trwStream (t : TSite)
  /-- LOADQ (R235): Trowel instruction that fills an operand register from a latch or the reducer operand area. -/
  | trwLoadq (t : TSite)
  /-- STORE (R236): Trowel instruction that converts accumulator lanes to ofmt into the commit buffer. -/
  | trwStore (t : TSite)
  /-- COMMIT (R237): Trowel instruction that writes the commit buffer indivisibly to a bank row or a reducer slot. -/
  | trwCommit (t : TSite)
  /-- END (R220): Trowel instruction that ends the command and retires once its bank operations finish. -/
  | trwEnd (t : TSite)
  /-- SETP (R225): Trowel instruction that loads a pointer from a parameter. -/
  | trwSetp (t : TSite)
  /-- ADDP (R225): Trowel instruction that adds an immediate to a pointer. -/
  | trwAddp (t : TSite)
  /-- LOOP (R226): Trowel instruction that opens a counted loop. -/
  | trwLoop (t : TSite)
  /-- WIDEN (R233): Trowel W-slot operation that converts a buffer part to the working form. -/
  | trwWiden (t : TSite)
  /-- C_NOP (R224): Trowel C-slot no-operation. -/
  | trwCNop (t : TSite)
  /-- MAC (R227): Trowel lane-wise multiply-accumulate. -/
  | trwMac (t : TSite)
  /-- MACS (R227): Trowel multiply and sum of 64 products into one lane. -/
  | trwMacs (t : TSite)
  /-- MACB (R227): Trowel multiply-accumulate with one broadcast operand lane. -/
  | trwMacb (t : TSite)
  /-- SHIFT (R224): Trowel accumulator scaling by a power of two. -/
  | trwShift (t : TSite)
  /-- C_MAX (R47): Trowel lane-wise maximum of two accumulators. -/
  | trwCMax (t : TSite)
  /-- C_ADD (R224): Trowel lane-wise addition of two accumulators. -/
  | trwCAdd (t : TSite)
  /-- ZERO (R224): Trowel instruction that sets accumulator lanes to zero or to the negative extreme. -/
  | trwZero (t : TSite)
  /-- MOVA (R224): Trowel accumulator copy. -/
  | trwMova (t : TSite)
  /-- SPAN_EXPIRY (R219): A command's span count passes TRW_SPAN and it is killed with outcome SPAN. -/
  | spanExpiry (t : TSite)
  /-- HELD_RESUME (R243): A held COMMIT begins when the write hold ends or its reducer slot empties. -/
  | heldResume (t : TSite)
  /-- CHANNEL_WINDOW (R252): A bank's channel window opens during a command and one queued channel access starts. -/
  | channelWindow (t : TSite) (b : Nat)
  /-- TROWEL_CLUSTER_DISABLE (R221): A trowel cluster is disabled; its running commands end FAULT and its trowels go DISABLED. -/
  | trowelClusterDisable (stack : Nat) (die : Nat)
  /-- SUM (R260): STK_RDC_JOB write that queues a SUM job. -/
  | rdcSum (stack : Nat) (w : W64)
  /-- RDC_MAX (R260): STK_RDC_JOB write that queues a MAX job. -/
  | rdcMax (stack : Nat) (w : W64)
  /-- SOFTMAX (R263): STK_RDC_JOB write that queues a SOFTMAX job. -/
  | rdcSoftmax (stack : Nat) (w : W64)
  /-- MERGE (R263): STK_RDC_JOB write that queues an online-softmax MERGE job. -/
  | rdcMerge (stack : Nat) (w : W64)
  /-- NORM (R260): STK_RDC_JOB write that queues a NORM job. -/
  | rdcNorm (stack : Nat) (w : W64)
  /-- RMS (R260): STK_RDC_JOB write that queues an RMS job. -/
  | rdcRms (stack : Nat) (w : W64)
  /-- REDUCER_JOB_START (R260): The head job starts once its input slots are FULL and its output slots EMPTY. -/
  | reducerJobStart (stack : Nat)
  /-- REDUCER_JOB_DONE (R259): A job writes its output and empties its input slots. -/
  | reducerJobDone (stack : Nat)
  /-- BELL (R306): A bell begins; each member sends its bell frames with UP, DOWN, stop and stretch values. -/
  | bell
  /-- BELL_FRAME (R363): A bell frame is received and checked, and its values are merged. -/
  | bellFrame (port : Nat) (caravan : Bool) (bits : W64)
  /-- FRAME_TIMEOUT (R307): No frame arrives from a member neighbour for two bells and an abort cause is raised. -/
  | frameTimeout (port : Nat)
  /-- EPOCH_START (R308): At bell 16e, decided stretch and stop codes take force and new values are sampled. -/
  | epochStart
  /-- ITN_STRETCH (R334): A write of the host minimum stretch numerator, checked for range. -/
  | itnStretch (v : W64)
  /-- ITN_CLR_COUNTERS (R333): ITN_CTRL.clr_counters zeroes the abort total and ITN_GATE. -/
  | itnClrCounters (v : W64)
  /-- MANIFEST_ADMIT (R424): A member processes the manifest or start record and performs ledger admission before waystation 0. -/
  | manifestAdmit (sent : Nat) (pages : List (Nat × List Nat))
  /-- WAYSTATION_RELEASE (R316): A caravan-wide waystation is released at r + D_max as a full FENCE.C. -/
  | waystationRelease
  /-- ARRIVAL_RELEASE (R318): An ARRIVAL waystation is released at its owner. -/
  | arrivalRelease (i : Nat)
  /-- WAYSTATION_MISS (R319): A waystation's planned release plus slack passes and an abort cause is raised. -/
  | waystationMiss (i : Nat)
  /-- RESUME (R330): After an abort, a member reloads its buffers, restores state and sends UP for the last CHECKPOINT. -/
  | resume
  /-- RESUME_TIMEOUT (R331): The resume window ends and the run ends with MISSED_WAYSTATION. -/
  | resumeTimeout
  /-- PHASE_START (R549): A power-profile phase starts and cluster depths and grant targets change. -/
  | phaseStart
  /-- SCHED_SLOT (R356): A SCHED slot begins and its packet leaves on its source route. -/
  | schedSlot
  /-- EMIT (R426): A hub-list action sends emitting logit rows to the sampler and stencil lanes. -/
  | emit
  /-- RECODE (R377): A hub-list action records new K and V formats for full blocks. -/
  | recode
  /-- SAMPLE_ROW (R436): A sampler lane completes one OPEN row in T_s cycles and chooses a token. -/
  | sampleRow (lane : Nat)
  /-- STENCIL_ROW (R441): A stencil lane completes one CONSTRAINED row and returns masked candidates. -/
  | stencilRow (lane : Nat)
  /-- ADAPTER_LOAD_DONE (R444): An adapter generation finishes loading and becomes current. -/
  | adapterLoadDone (slot : Nat)
  /-- SMP_SEL (R448): A write of the slot, adapter and tenant selection, checked for reserved bits. -/
  | smpSel (v : W64)
  /-- STN_SEL (R449): A write of the grammar selection, checked for reserved bits. -/
  | stnSel (v : W64)
  /-- LDG_ENTRY_SEL (R413): A write of the ledger entry selection, checked for reserved bits. -/
  | ldgEntrySel (v : W64)
  /-- SMP_CLR_COUNTERS (R448): SMP_CTRL.clr_counters zeroes SMP_COUNT. -/
  | smpClrCounters (v : W64)
  /-- STN_CLR_COUNTERS (R449): STN_CTRL.clr_counters zeroes STN_COUNT. -/
  | stnClrCounters (v : W64)
  /-- LDG_CLR_COUNTERS (R412): LDG_CTRL.clr_counters zeroes LDG_OPS. -/
  | ldgClrCounters (v : W64)
  /-- PFX_CLR_COUNTERS (R412): PFX_CTRL.clr_counters zeroes PFX_HITS and full_sets. -/
  | pfxClrCounters (v : W64)
  /-- FAB_CLR_COUNTERS (R371): FAB_CTRL.clr_counters zeroes every per-port count. -/
  | fabClrCounters (v : W64)
  /-- PORT_ENABLE (R341): A write of FAB_PORT_CFG_n.enable starts training, or sends LEAVE and takes the port DOWN. -/
  | portEnable (port : Nat) (v : W64)
  /-- TRAIN_RETRY (R341): One second after a failed attempt, an enabled DOWN port starts training again. -/
  | trainRetry (port : Nat)
  /-- DETECT (R339): A bell-lane peer is detected and training moves to BELL_SYNC. -/
  | detect (port : Nat)
  /-- BELL_SYNC (R363): 64 consecutive frames pass their check and training moves to EQUALIZE. -/
  | bellSync (port : Nat)
  /-- EQUALIZE (R335): Lane equalisation completes and training moves to ALIGN. -/
  | equalize (port : Nat) (ok : Nat)
  /-- ALIGN (R336): Codeword lock holds for 1,024 codewords and training moves to DELAY. -/
  | align (port : Nat) (skew : Nat)
  /-- DELAY (R340): The one-way delay measurement converges and sched_ok is set. -/
  | delay (port : Nat) (delay : Nat)
  /-- TRAINING_TIMEOUT (R341): Training has not reached UP within 50 ms and the port returns to DOWN. -/
  | trainingTimeout (port : Nat)
  /-- LINK_LOSS (R341): A running port loses lock, codewords or bell frames and returns to DOWN. -/
  | linkLoss (port : Nat)
  /-- FLIT_RECEIVE (R337): A flit arrives, its link CRC is checked and it is delivered, dropped or marked bad. -/
  | flitReceive (port : Nat) (bytes : List Byte) (codeword : Bool) (symbols : Nat)
  /-- CONTROL_FLIT (R338): A CONTROL flit acknowledges or NAKs a seq and triggers replay. -/
  | controlFlit (port : Nat) (seq : Nat) (nak : Bool) (tollLane : Nat) (tolls : Nat)
  /-- FORWARD (R362): A packet for another module is forwarded by its source route or route entry. -/
  | fabForward (port : Nat)
  /-- ESCAPE_TIMEOUT (R353): A BULK packet holds no candidate toll for 1 µs and moves to the escape lanes. -/
  | escapeTimeout
  /-- ROUTE_WAIT_TIMEOUT (R370): No usable port appears within 1 ms and the packet is answered UNREACHABLE. -/
  | routeWaitTimeout
  /-- BULK_RESPONSE_TIMEOUT (R360): A BULK READ or WRITE is unanswered for 1 ms and is resent or reported as failed. -/
  | bulkResponseTimeout (id : Nat)
  /-- HELLO_TIMER (R344): Every 1 ms a trained port sends MGMT_HELLO. -/
  | helloTimer (port : Nat)
  /-- WRITE (R356): A SCHED or BULK WRITE packet is performed at the target and answered with WACK. -/
  | fabWrite (port : Nat)
  /-- WACK (R356): A write acknowledgement arrives at the sender. -/
  | fabWack (port : Nat)
  /-- READ (R360): A BULK READ is performed and answered with READ_RESP. -/
  | fabRead (port : Nat)
  /-- READ_RESP (R360): A read response delivers data to the issuing engine. -/
  | fabReadResp (port : Nat)
  /-- ATOMIC (R157): A remote atomic is performed at the home slice and answered. -/
  | fabAtomic (port : Nat)
  /-- ATOMIC_RESP (R157): A remote atomic response returns the old value. -/
  | fabAtomicResp (port : Nat)
  /-- TREE (R358): A TREE packet is performed at every member and forwarded on child ports. -/
  | fabTree (port : Nat)
  /-- MGMT_HELLO (R344): A HELLO record is received and the port's peer is recorded. -/
  | mgmtHello (port : Nat)
  /-- MGMT_READ (R343): A management read of FAB_ registers or the HELLO record. -/
  | mgmtRead (port : Nat)
  /-- MGMT_WRITE (R343): A management write of manager-writable fields from the claimed manager. -/
  | mgmtWrite (port : Nat)
  /-- MGMT_RESP (R361): A management response returns to the requester. -/
  | mgmtResp (port : Nat)
  /-- MGMT_NOTICE (R620): An event record reaches the manager or lead, including quarantine notices. -/
  | mgmtNotice (port : Nat)
  /-- MGMT_CLAIM (R342): A manager claim is accepted or rejected. -/
  | mgmtClaim (port : Nat)
  /-- LEAVE (R341): The peer announces it is leaving and the port returns to DOWN. -/
  | fabLeave (port : Nat)
  /-- BAR2_READ (R293): A host read through BAR2 is performed at its home slice or bank. -/
  | bar2Read (fn off n : Nat)
  /-- BAR2_WRITE (R293): A host write through BAR2 is written through to the bank. -/
  | bar2Write (fn off : Nat) (bytes : List Byte) (ep : Bool)
  /-- ATOMICOP (R510): A PCIe FetchAdd, Swap or CAS to BAR2 is performed as a screed atomic. -/
  | atomicop (fn off op size : Nat) (x y : W64)
  /-- FLR_VF (R536): Function Level Reset of a VF removes its queues, windows and contexts. -/
  | flrVf (v : Nat)
  /-- FLR_PF (R536): Function Level Reset of the PF acts as a VF FLR for every function. -/
  | flrPf
  /-- HOT_RESET (R536): A hot reset, link disable or DL_Down acts as a PF FLR and the link retrains. -/
  | hotReset
  /-- MOD_PERST_N (R664): Asserting the pin resets the module; deasserting it starts the boot. -/
  | modPerstN (asserted : Bool)
  /-- D3HOT (R511): A D-state change between D0 and D3hot changes which requests are answered. -/
  | d3hot (fn : Nat) (on : Bool)
  /-- VF_ENABLE (R517): Setting VF Enable assigns queue ranges to the VFs. -/
  | vfEnable (on : Bool) (n : Nat)
  /-- VECTOR_UNMASK (R523): Unmasking an MSI-X vector sends its pending message. -/
  | vectorUnmask (fn vec : Nat)
  /-- PCI_BAR2_BASE (R512): A write of the PF BAR2 base, checked for alignment. -/
  | pciBar2Base (v : W64)
  /-- PCI_VF_CFG (R517): A write of the VF queue and context split, checked for range and VF Enable. -/
  | pciVfCfg (v : W64)
  /-- PCI_VF_XLAT (R521): A write of a VF translation table base flushes that VF's cached entries. -/
  | pciVfXlat (vf : Nat) (v : W64)
  /-- PCI_HOST_TIME (R537): A write sets the host-time counter. -/
  | pciHostTime (v : W64)
  /-- PTM_UPDATE (R537): Every 10 ms the PTM exchange updates host time. -/
  | ptmUpdate (ns : W64)
  /-- DMA_CHAN_CFG (R531): A write selects a channel's set and mode, loads the initial value and empties the feed queue. -/
  | dmaChanCfg (c : Nat) (v : W64)
  /-- DMA_CHAN_VALUE (R531): A write replaces a channel's running value. -/
  | dmaChanValue (c : Nat) (v : W64)
  /-- DMA_CHAN_FEED (R533): A 1-, 2- or 4-byte write enters the channel's feed queue. -/
  | dmaChanFeed (c n : Nat) (v : W64)
  /-- FEED_PROCESS (R533): A queued feed write is processed one byte per cycle. -/
  | feedProcess (c : Nat)
  /-- WAKE (R547): An SMBus WAKE command requests a wake from DORMANT or commanded OFF. -/
  | wake (x : SmbTxn)
  /-- MOD_WAKE_N (R547): Assertion of the wake pin requests a wake from DORMANT or commanded OFF. -/
  | modWakeN (asserted : Bool)
  /-- POWER_SAMPLE (R552): Every 10 µs, input and group power are sampled. -/
  | powerSample (module_ compute stks hub : Nat)
  /-- BUDGET_INTERVAL (R554): Every 1 ms the budget manager recomputes the grants and raises the pool grant within the ramp limit. -/
  | budgetInterval
  /-- DUTY_DELAY (R555): Outside a run, the next direct trowel or DMA start is held back by the duty limit. -/
  | dutyDelay (unit took : Nat)
  /-- PWR_CLR_COUNTERS (R578): PWR_CTRL.clr_counters zeroes the excursion count. -/
  | pwrClrCounters (v : W64)
  /-- SENSOR_SAMPLE (R557): A sensor is sampled and checked against its throttle, hold, trip and rate limits. -/
  | sensorSample (index : Nat) (temp : Int)
  /-- DEFERRED_FLASH_WRITE (R560): A deferred flash write (retirement, reservation, point, retained item) is performed once the window reopens. -/
  | deferredFlashWrite
  /-- COOLANT_UPDATE (R566): Every 100 ms the watchman recomputes the coolant demand duty. -/
  | coolantUpdate (freq : Nat)
  /-- LOW_FLOW (R571): Flow below the minimum for 2 s counts as hot and raises COOL_LOW_FLOW. -/
  | lowFlow
  /-- COL_ANNOUNCE (R567): A write announces future power for the coolant forecast. -/
  | colAnnounce (v : W64)
  /-- INPUT_LOSS (R573): The 54 V input stays below 38 V for 20 µs and the input-loss sequence begins. -/
  | inputLoss
  /-- INPUT_LOSS_END (R577): The input-loss sequence ends and the module is in OFF. -/
  | inputLossEnd (n : Nat)
  /-- INPUT_RETURN (R664): The 54 V input enters its range and the hub domains are powered. -/
  | inputReturn (volts : Nat)
  /-- STANDBY_CHANGE (R663): The 12 V standby input appears or is lost. -/
  | standbyChange (volts : Nat)
  /-- PUSH (R583): A producer appends one word to a depot queue, or gets STALE or FULL. -/
  | push (q : Nat) (w : W32) (poison : Bool) (epoch : Nat)
  /-- POP (R583): A consumer removes the head cell of a depot queue. -/
  | pop (q : Nat) (upset : Bool) (link : Ecc)
  /-- FLUSH (R589): DEP_QCFG.flush returns a queue's cells to the free list and advances its flush epoch. -/
  | flush (v : W64)
  /-- ROOM (R583): A producer asks for a queue's free room and flush epoch. -/
  | room (q : Nat)
  /-- DEP_QCFG_LIMIT (R586): A write of a queue's limit, checked against the pool sum. -/
  | depQcfgLimit (v : W64)
  /-- DEP_CLR_COUNTERS (R607): DEP_CTRL.clr_counters zeroes the drop and trace counts. -/
  | depClrCounters (v : W64)
  /-- ALARM_PUSH (R593): The alarm collector pushes a latched alarm record when queue 0x00 has room. -/
  | alarmPush
  /-- COUNTER_SAMPLE (R601): At each sampling period, listed counters are read into a COUNTER record. -/
  | counterSample
  /-- INCIDENT_FREEZE (R595): The incident ring freezes 4,096 trace words or 65,536 bells after an alarm. -/
  | incidentFreeze
  /-- AGEING_SAMPLE (R604): Every 60 s each ageing quantity is sampled. -/
  | ageingSample (ms : List (Nat × Int))
  /-- EYE_MARGIN_SAMPLE (R604): SerDes eye margin is sampled at training and every 10 minutes. -/
  | eyeMarginSample (ms : List (Nat × Int))
  /-- DAILY_POINT (R605): Every 24 h the daily points are stored and forecasts recomputed. -/
  | dailyPoint
  /-- QM_WATCHDOG (R623): A quartermaster core goes 100 ms without service and the module enters FAULT. -/
  | qmWatchdog (core : Nat)
  /-- ENGINE_WATCHDOG (R623): A hub engine exceeds its watchdog limit and the module enters FAULT. -/
  | engineWatchdog (issuer : Nat)
  /-- DIE_FAULT (R611): A compute-die control-state error, reference loss or bridge retrain failure puts the module in FAULT. -/
  | dieFault (bridge : Bool) (n : Nat)
  /-- BOOT_START (R630): The boot sequence begins once the input is present and MOD_PERST_N is deasserted, or on a wake. -/
  | bootStart
  /-- HUB_UP (R630): The hub is released from reset and its SRAM self-test completes. -/
  | hubUp (pass : Bool)
  /-- RETAINED (R632): Items held in retention are written to flash. -/
  | retained
  /-- BLOB (R638): The configuration blob is read and checked. -/
  | blob
  /-- IMAGE (R636): The firmware image is read, hashed and verified. -/
  | image
  /-- SIGN_STATE (R646): The signing state and tree cache are loaded and the quartermaster starts. -/
  | signState
  /-- BOOT (R641): SEC_RCV_CTRL action that verifies and starts a firmware image placed in BAR2. -/
  | boot (v : W64)
  /-- WRITE_BLOB (R641): SEC_RCV_CTRL action that verifies a blob, writes it to flash and restarts at stage 3. -/
  | writeBlob (v : W64)
  /-- NEXT_TREE_BUILD (R645): The security engine builds and caches the next bottom tree. -/
  | nextTreeBuild
  /-- DOE_IDENTITY (R651): DOE request that returns the identity record. -/
  | doeIdentity (word : W32) (payload : List Byte)
  /-- DOE_CERTIFICATE (R651): DOE request that returns the configuration blob. -/
  | doeCertificate (word : W32) (payload : List Byte)
  /-- DOE_MEASUREMENT (R651): DOE request that returns a signed module measurement. -/
  | doeMeasurement (word : W32) (payload : List Byte) (bad : Nat)
  /-- DOE_SIGN_STATUS (R651): DOE request that returns next and reserved_end. -/
  | doeSignStatus (word : W32) (payload : List Byte)
  /-- SMB_IDENTITY (R668): SMBus read of identity fields. -/
  | smbIdentity (x : SmbTxn)
  /-- SMB_STATUS (R672): SMBus read of the consistent status block. -/
  | smbStatus (x : SmbTxn)
  /-- SMB_SENSOR_SEL (R668): SMBus write selecting a sensor. -/
  | smbSensorSel (x : SmbTxn)
  /-- SMB_SENSOR (R668): SMBus read of the selected sensor. -/
  | smbSensor (x : SmbTxn)
  /-- SMB_POWER (R668): SMBus read of PWR_MEAS. -/
  | smbPower (x : SmbTxn)
  /-- SMB_COOLANT (R668): SMBus read of coolant duty, flow and temperatures. -/
  | smbCoolant (x : SmbTxn)
  /-- SMB_LAST_ALARM (R668): SMBus read of the newest fault-log record. -/
  | smbLastAlarm (x : SmbTxn)
  /-- SMB_RESET (R668): SMBus management-interface reset at MODULE level. -/
  | smbReset (x : SmbTxn)
  /-- ALERT_ACK (R660): SMBus acknowledgement that allows MOD_ALERT_N to deassert once no cause holds. -/
  | alertAck (x : SmbTxn)
  /-- HOST_LINK_TRAINED (R508): The PCI Express host link finishes training at its rate and width, and PCI_LINK reports them. -/
  | hostLinkTrained (rate width : Nat) (flit : Bool)
  /-- COMPLETION_TIMEOUT (R535): A DMA read of host memory gets no completion within the completion timeout, so the destination is written as poison and PCI_ERR.cpl is set. -/
  | completionTimeout (q i : Nat)
  /-- CARAVAN_FORM_TIMEOUT (R477): A member that receives no caravan frames within 1 s completes CARAVAN_FORM with BAD_PARAM naming its parent. -/
  | caravanFormTimeout
  /-- HOLDUP_OK_CHANGE (R572): The hold-up store's usable energy crosses 120 J while charging or fading, so HOLDUP_OK and HLD_STATUS.ok change and HOLDUP_READY is raised. -/
  | holdupOkChange (energy capacity : Nat)
  /-- HUB_SRAM_UE (R611): An uncorrectable hub SRAM error puts the module in FAULT with cause HUB_SRAM. -/
  | hubSramUe (index : Nat)
  /-- BAR2_RESIZE (R512): A Resizable BAR write changes the BAR2 size, and a resize that leaves the base misaligned is ignored and sets PCI_ERR.bad_write. -/
  | bar2Resize (fn size : Nat)
  /-- DOE_DISCOVERY (R651): A DOE discovery request is answered with the supported data object types, including Lyargan's attestation type 0x01. -/
  | doeDiscovery (index : Nat)
  deriving DecidableEq, Repr

end Sys2Proof
end

