-- ==== Sys2Proof/Decode.lean ====
section
/-!
DEFINITION. The words of the opcode table: it gives no bits to any row, so that no word spells a command.
-/
namespace Sys2Proof

/-- The command that a word spells by the table's bits: none, since no row has bits. -/
def decodeTableWord (nbits w : Nat) : Option Instr :=
  match nbits, w with
  | _, _ => none

end Sys2Proof
end

