-- ==== Sys2Proof/Machine/State.lean ====
section
/-!
DEFINITION. The state of the module as plain data: every register, memory, queue, buffer, counter, mode and
pin that the spec names, the queue of waiting commands, and the state after reset. Maps are lists of key
and value with keys strictly rising.
-/
namespace Sys2Proof.Machine

/-- The sticky conversion flags of Table 2.6 (R75). -/
structure Flags where
  /-- a value replaced by its target's largest magnitude -/
  sat : Bool
  /-- a value became infinity or NaN under ovf = 1 -/
  ovf : Bool
  /-- a nonzero value rounded to zero -/
  unf : Bool
  /-- a NaN entered a target with no NaN -/
  inv : Bool
  /-- a reserved BS3 element code was read -/
  rsv : Bool
  /-- a wide query was narrowed to BF16 -/
  nrw : Bool
  deriving DecidableEq, Repr

/-- A byte with its poison mark. -/
structure PByte where
  b : Byte
  poison : Bool
  deriving DecidableEq, Repr

/-- A 64-bit word with its poison bit (R92, R106). -/
structure PWord where
  w : W64
  poison : Bool
  deriving DecidableEq, Repr

/-- The two ordering codes (§0.2). -/
inductive Variant where
  /-- LY-PM960-BC -/
  | pm960
  /-- LY-PM480-WC -/
  | pm480
  deriving DecidableEq, Repr

/-- Why a step stops for good. -/
inductive Fault where
  /-- No command raises it: every command of this block has an effect or is answered by a status. It is
  kept so that the type has a name for a stop (safe: a stop proves nothing). -/
  | stuck
  deriving DecidableEq, Repr

/-- Why a command is refused. -/
inductive Refusal where
  /-- Raised by `exec` for a command that has no meaning yet; safe. -/
  | notModelled (mnemonic : String)
  deriving DecidableEq, Repr

/-! ### What leaves the module -/

/-- A message, value or level that leaves the module, in the order of sending (newest first in the outbox). -/
inductive Out where
  /-- bytes written to host memory; `poison` is the EP bit (Table 13.10) -/
  | hostWrite (addr : Nat) (bytes : List Byte) (poison : Bool)
  /-- a status reply written into entry `index` of a completion queue (R460) -/
  | reply (cq : Nat) (index : Nat) (addr : Nat) (bytes : List Byte)
  /-- an MSI-X message of a function's vector (R462, R523) -/
  | msix (fn : Nat) (vector : Nat) (addr : W64) (data : W32)
  /-- bytes returned to the issuer of an access (Table 4.2), with poison per byte -/
  | readData (issuer : Nat) (addr : Nat) (bytes : List PByte)
  /-- a PCI Express completion: 0 data, 1 data with EP, 2 Unsupported Request -/
  | completion (fn : Nat) (kind : Nat) (bytes : List Byte)
  /-- a flit of 128 bytes sent on a Cheov port -/
  | flit (port : Nat) (bytes : List Byte)
  /-- a bell frame sent on a port's bell lane, a caravan frame or a free one -/
  | frame (port : Nat) (caravan : Bool) (bits : W64)
  /-- the answer to an SMBus read -/
  | smbus (bytes : List Byte)
  /-- a DOE response data object -/
  | doe (bytes : List Byte)
  /-- a 32-bit word returned by a depot POP or ROOM, or the result of a PUSH -/
  | depot (word : Nat) (valid : Bool) (poison : Bool)
  deriving DecidableEq, Repr

/-! ### Depot (chapter 15) -/

/-- A depot cell: word, valid tag, poison tag and parity bit (R580, R581). -/
structure DCell where
  word : W32
  valid : Bool
  poison : Bool
  parity : Bool
  deriving DecidableEq, Repr

/-- One depot queue with what DEP_QSTATUS, DEP_QCFG, DEP_QDROP and DEP_QTRACE show of it, and the state of
its producer (R585 to R592, R598, R599). -/
structure DQueue where
  /-- head first -/
  cells : List DCell
  limit : Nat
  epoch : Nat
  hwm : Nat
  dropWords : Nat
  dropRecords : Nat
  parityFails : Nat
  generated : Nat
  /-- decimation exponent s -/
  s : Nat
  /-- body words still to come of the trace record whose words are being pushed -/
  bodyLeft : Nat
  /-- records dropped since the queue's previous record -/
  owed : Nat
  /-- a gap word with the flush bit is owed -/
  owedFlush : Bool
  /-- whether dropping has begun (LOG_DROP is raised when it begins) -/
  dropping : Bool
  deriving DecidableEq, Repr

/-- A latched alarm (R593). -/
structure Alarm where
  kind : Nat
  inst : Nat
  repeats : Nat
  /-- the bell of its first occurrence -/
  bell : Nat
  deriving DecidableEq, Repr

/-- One ageing monitor instance (R604 to R606). -/
structure AgeInst where
  /-- sum of the partial day's samples -/
  sum : Int
  count : Nat
  /-- (day, margin) of the last 90 daily points, oldest first; margins are FP64 bits (R605) -/
  points : List (Nat × W64)
  /-- points not yet written because the flash window is closed -/
  deferred : Bool
  /-- AGE_DAYS central, low, high and valid -/
  central : Nat
  low : Nat
  high : Nat
  valid : Bool
  /-- current margin m and rate b, FP64 bits -/
  margin : W64
  rate : W64
  warned : Bool
  deriving DecidableEq, Repr

/-- The depot, the alarm collector, the telemetry rings and the ageing store. -/
structure Depot where
  /-- queues 0 to 255 that differ from their reset state, by index -/
  queues : List (Nat × DQueue)
  /-- the alarm latch, oldest first, at most 64 -/
  latch : List Alarm
  /-- alarms waiting in their blocks' error registers while the latch is full -/
  latchWait : List Alarm
  /-- the fault log: the last 512 alarm records, oldest first (R594) -/
  faultLog : List (List W32)
  /-- the incident ring, oldest word first, at most 8,192 words (R595) -/
  ring : List W32
  frozen : Bool
  /-- trace words and bells left until the ring freezes -/
  countdown : Option (Nat × Nat)
  fault : Bool
  caravanAlarm : Bool
  /-- ageing instances by kind * 256 + instance -/
  age : List (Nat × AgeInst)
  /-- operating minutes, and the day counted from first boot -/
  minutes : Nat
  day : Nat
  /-- what hub SRAM held of the items of R9 is lost, until the flash copies are loaded -/
  lost : Bool
  deriving DecidableEq, Repr

/-! ### Memory stacks (chapter 5) -/

/-- STK_STATUS.state. -/
inductive StackState where
  | off | selfRefresh | active | writeHold | fault
  deriving DecidableEq, Repr

/-- A retirement entry: a bank, or a physical page m of it (R205). -/
structure Retire where
  stack : Nat
  die : Nat
  bank : Nat
  page : Option Nat
  deriving DecidableEq, Repr

/-- An open merge-buffer entry (R191): the sector's physical number, its bytes where masked. -/
structure MergeEnt where
  sector : Nat
  /-- bytes of the sector by position, unmasked ones absent -/
  bytes : List (Nat × Byte)
  poison : Bool
  /-- the ordinal at which it opened (the sequencer cycle, time being implicit) -/
  opened : Nat
  deriving DecidableEq, Repr

/-- A remembered error location (R204). -/
structure Remembered where
  die : Nat
  bank : Nat
  row : Nat
  bell : Nat
  suppressed : Nat
  deriving DecidableEq, Repr

/-- A screed line (R137); `stamp` orders the lines of a set by recency. -/
structure Line where
  tag : Nat
  /-- 64 bytes, byte 0 lowest -/
  data : BitVec 512
  valid : BitVec 64
  dirty : BitVec 64
  poison : BitVec 8
  keep : Bool
  stamp : Nat
  deriving DecidableEq, Repr

/-- A dirty line in a slice's victim buffer (R141). -/
structure Victim where
  slice : Nat
  dpa : Nat
  line : Line
  deriving DecidableEq, Repr

/-- Who awaits what a waiting access returns. -/
inductive Waiter where
  /-- nobody: a posted write -/
  | none
  /-- an array context: array key, cell, context -/
  | ctx (arr : Nat) (cell : Nat) (c : Nat)
  /-- a PCI Express function (ATOMICOP) -/
  | host (fn : Nat)
  /-- a remote module: fabric ID, packet id, and the port its request came on -/
  | remote (src : Nat) (id : Nat) (port : Nat)
  /-- another issuer, to whom the bytes go out -/
  | ext
  deriving DecidableEq, Repr

/-- A queued atomic (R152, R156). `slot` is the slot that owns it, if one does (R25). -/
structure AtomReq where
  slice : Nat
  issuer : Nat
  slot : Option Nat
  aop : Nat
  dpa : Nat
  x : W64
  /-- second operand: n of CAS.64 -/
  y : W64
  keep : Bool
  /-- an operand register was poisoned (R97) -/
  poison : Bool
  who : Waiter
  deriving DecidableEq, Repr

/-- A queued skim access (R162). `slot` is the slot that owns it, if one does (R164). -/
structure SkimReq where
  slice : Nat
  stack : Nat
  channel : Nat
  issuer : Nat
  slot : Option Nat
  write : Bool
  /-- a LAST read: the line's other bytes are discarded (R145) -/
  last : Bool
  dpa : Nat
  data : W64
  poison : Bool
  who : Waiter
  deriving DecidableEq, Repr

/-- A read waiting for its line fill (R138). -/
structure FillReq where
  dpa : Nat
  len : Nat
  issuer : Nat
  keep : Bool
  deriving DecidableEq, Repr

/-- An access that waits for a write hold to end (R199, R141): a write that the stack does not accept, a read or write
whose line is in the victim buffer, or a later access of the same issuer to a line with such an access (R272). `tag`
tells an array's contexts apart. -/
structure HeldAcc where
  issuer : Nat
  tag : Nat
  source : Nat
  write : Bool
  hint : Hint
  dpa : Nat
  len : Nat
  bytes : List Byte
  poison : Bool
  who : Waiter
  deriving DecidableEq, Repr

/-- What waits in a bank's queue: an access of its own, the service of a skim access, a line fill, a victim's
writeback, or a host read or write of a function. -/
inductive BankWork where
  | access
  | skim (q : SkimReq)
  | fill (f : FillReq)
  | victim (v : Victim)
  | host (fn : Nat)
  deriving DecidableEq, Repr

/-- A channel access queued at a bank whose trowel runs (R252, R253). -/
structure BankReq where
  die : Nat
  bank : Nat
  row : Nat
  byte : Nat
  source : Nat
  issuer : Nat
  write : Bool
  len : Nat
  data : List Byte
  poison : Bool
  work : BankWork
  /-- the running command's cycle at which it reached the head of the bank's queue; none while it is not there -/
  since : Option Nat
  deriving DecidableEq, Repr

/-- A commit notice: its trowel, a DPA of the line, and the mask of bytes committed (R149). -/
structure Notice where
  trowel : Nat
  dpa : Nat
  mask : W64
  deriving DecidableEq, Repr

/-- One stack's own state beside its banks. -/
structure Stack where
  state : StackState
  hot : Bool
  /-- the next row visit of the patrol scrub: (row * 20 + die) * 64 + bank -/
  scrubPos : Nat
  scrubPasses : Nat
  scrubLag : Nat
  merge : List MergeEnt
  mergeSeq : Nat
  remembered : List Remembered
  /-- DRAM dies whose trowel cluster is disabled -/
  disabled : List Nat
  /-- accesses that wait for the hold to end, in order -/
  held : List HeldAcc
  /-- commit notices under way to the home slices, oldest first (R149) -/
  notices : List Notice
  /-- channel accesses that wait at busy banks, oldest first -/
  bankq : List BankReq
  deriving DecidableEq, Repr

/-- The stacks' memory. -/
structure Mem where
  /-- data bytes by physical byte address; an unlisted byte reads 0 -/
  dram : List (Nat × Byte)
  /-- stored check field XOR correct check field, by byte (Prasum 960) or sector (Prasum 480); unlisted 0 -/
  chk : List (Nat × Nat)
  /-- the number of private bank groups p (R178) -/
  p : Nat
  /-- retired-range table in force -/
  retired : List Retire
  /-- the retired list in module flash, and entries in force that flash does not hold yet (R208) -/
  flashRet : List Retire
  retPending : List Retire
  stks : List Stack
  /-- refreshes postponed per bank, by bank number of the module (R251) -/
  postponed : List (Nat × Nat)
  /-- how often stack contents have been lost (R330) -/
  losses : Nat
  deriving DecidableEq, Repr

/-! ### Screed and skim path (chapter 4) -/

/-- A maintenance operation in progress on a die (R166). -/
structure Maint where
  die : Nat
  op : Nat
  range : W64
  deriving DecidableEq, Repr

/-- The eight slices, numbered die * 4 + slice. -/
structure Screed where
  /-- lines by (slice * 40,960 + set) * 16 + way -/
  lines : List (Nat × Line)
  /-- the next recency stamp -/
  stamp : Nat
  victims : List Victim
  fills : List FillReq
  atoms : List AtomReq
  front : List SkimReq
  chan : List SkimReq
  /-- requests that meet the back-pressure of a full front queue, oldest first (R24) -/
  frontWait : List SkimReq
  fault : BitVec 8
  maint : List Maint
  /-- the rank served last in the present round (R25), by queue: 0 to 7 atomic units, 8 to 15 skim front
  queues, 16 + stack * 32 + channel the skim channel queues, 400 to 407 admission to the front queues,
  512 + bank the queues of banks; none listed before the first service -/
  served : List (Nat × Nat)
  deriving DecidableEq, Repr

/-! ### Arrays (chapter 3) -/

/-- ARY_STATUS.state. -/
inductive ArrState where
  | off | idle | switching | active | held | fault
  deriving DecidableEq, Repr

/-- Shadow buffer states (Table 3.8). -/
inductive Shadow where
  | empty | loading | prefetch | ready | bad
  deriving DecidableEq, Repr

/-- Thread-context states (R92). -/
inductive CtxState where
  | idle | run | wait | done
  deriving DecidableEq, Repr

/-- What a waiting context awaits (R95, R275); a value goes where the step that asked for it says. -/
inductive Await where
  /-- the value of an SLD or SATOM, held until it arrives -/
  | load (step : Nat) (v : PWord)
  /-- a read or an atomic that still waits at its slice, its channel or its stack -/
  | queued (step : Nat)
  /-- the conditions of a fence: scope 0 ARRAY, 1 DEVICE, 2 CARAVAN; with the SCHED transfers begun before it and not yet
  acknowledged -/
  | fence (scope : Nat) (sched : List Nat)
  deriving DecidableEq, Repr

/-- A thread context of a cell (R92). -/
structure Ctx where
  regs : List PWord
  pass : Nat
  step : Nat
  flags : Flags
  state : CtxState
  /-- the first tile cycle in which it may issue again -/
  next : Nat
  await : Option Await
  deriving DecidableEq, Repr

/-- A value in an input latch (R98): it holds for tile cycle `at_` only. -/
structure Latch where
  lo : W64
  /-- bits [127:64]; none where a 64-bit value was sent, whose upper half the spec leaves open -/
  hi : Option W64
  poison : Bool
  at_ : Nat
  deriving DecidableEq, Repr

/-- A pending DRAIN copy: binding number and descriptor (R119). -/
structure DrainReq where
  /-- the item of its tile -/
  item : Nat
  bind : Nat
  desc : BitVec 256
  deriving DecidableEq, Repr

/-- One array. -/
structure Arr where
  state : ArrState
  /-- tile cycle counter k (R93) -/
  k : Nat
  /-- the lowest cell whose issue slot of cycle k has not passed: the cells of a cycle act in ascending order (R103, R109) -/
  nextCell : Nat
  /-- cells whose ST of cycle k waits for a pending DRAIN copy: until each is made, the array is frozen in cycle k (R104,
  R119) -/
  frozen : List Nat
  ramp : Nat
  preempt : Bool
  /-- the switch has reached its cycle 129, past the sampling of stop requests at cycle 96 (Table 3.9) -/
  past96 : Bool
  active : Option Tile
  shadowState : Shadow
  shadow : Option Tile
  /-- PREFETCH bindings not yet copied -/
  bindPending : BitVec 8
  drains : List DrainReq
  /-- tiles still to come from the array's itinerary section -/
  todo : List Tile
  /-- contexts by cell * 16 + context; unlisted ones are idle -/
  ctxs : List (Nat × Ctx)
  /-- input latches by path * 32 + cycle mod 32, a path being cell * 2 (west), cell * 2 + 1 (north), 2048 + row or
  2080 + column (buses) -/
  latches : List (Nat × Latch)
  /-- the last drive of each row bus (0 to 31) and column bus (32 to 63): cycle * 1024 + cell -/
  busDrive : List (Nat × Nat)
  /-- the scratch accesses of tile cycle `portK`: place in the order of service, port (row, or 32 + column) and bank (R103) -/
  portK : Nat
  ports : List (Nat × Nat × Nat)
  /-- scratch words by offset / 8; unlisted ones read 0 -/
  scratch : List (Nat × PWord)
  /-- sticky flags of the running tile, SAT lowest, and whether it wrote a poisoned word -/
  flags : Flags
  wrotePoison : Bool
  /-- the items of tiles that have reached END, until their writes are all performed -/
  ended : List Nat
  deriving DecidableEq, Repr

/-! ### Trowels and stack reducers (chapter 6) -/

/-- Trowel states (Table 6.2). -/
inductive TrwState where
  | idle | run | commit | held | disabled
  deriving DecidableEq, Repr

/-- Command outcomes. -/
inductive TrwOutcome where
  | none | done | killed | span | fault
  deriving DecidableEq, Repr

/-- A 32-bit accumulator lane. -/
structure ALane where
  v : W32
  poison : Bool
  deriving DecidableEq, Repr

/-- A 16-bit operand lane. -/
structure QLane where
  v : W16
  poison : Bool
  deriving DecidableEq, Repr

/-- An open loop (R226). -/
structure LoopEnt where
  start : Nat
  stop : Nat
  left : Nat
  deriving DecidableEq, Repr

/-- Everything of Table 6.1, and the launch values. -/
structure TrwCmd where
  acc : List (List ALane)
  q : List (List QLane)
  w : List QLane
  wbuf : List PByte
  sbuf : List PByte
  l0 : Option (List PByte)
  l1 : Option (List PByte)
  ptr : List W16
  loops : List LoopEnt
  /-- masked bytes of the commit buffer, by offset -/
  cbuf : List (Nat × Byte)
  /-- poisoned 8-byte words of the commit buffer -/
  cpoison : List Nat
  flags : Flags
  storedPoison : Bool
  pc : Nat
  /-- the slot to act next: 0 X, 1 W, 2 C (R225) -/
  slot : Nat
  /-- a LOOP of count zero skips to this index (R226) -/
  skip : Option Nat
  /-- cycles since launch, and cycles counted toward the span (R219) -/
  now : Nat
  count : Nat
  /-- the cycle from which each latch is valid, and from which each bank is ready (Table 6.9, R237) -/
  v0 : Nat
  v1 : Nat
  r0 : Nat
  r1 : Nat
  /-- the cycle at which a refresh taken under R257 ends, by bank -/
  f0 : Nat
  f1 : Nat
  /-- the cycle at which the command's own last OPEN of each bank ends -/
  o0 : Nat
  o1 : Nat
  /-- the launch's time in DRAM cycles from the segment start, by which planned refresh slots lie (R256); none
  outside an itinerary -/
  base : Option Nat
  /-- launch values: wfmt, ofmt, qfmt, seed, sequence word, tag, span, parameters -/
  wfmt : Nat
  ofmt : Nat
  qfmt : Nat
  seed : Nat
  seq : Nat
  tag : Nat
  span : Nat
  params : List W16
  /-- first micro-instruction index -/
  entry : Nat
  /-- the valid tokens of an attention command (R406) -/
  valid : Option Nat
  /-- the itinerary item, when the itinerary launched it -/
  item : Option Nat
  deriving DecidableEq, Repr

/-- One trowel. -/
structure Trowel where
  state : TrwState
  outcome : TrwOutcome
  pc : Nat
  cmd : Option TrwCmd
  /-- the launch of a killed itinerary command, kept for its re-run (R247) -/
  rerun : Option TrwCmd
  /-- a direct launch that waits for a retirement of the banks (R207): its entry -/
  starts : Option Nat
  /-- the cycles for which an OPEN that a killed command began still occupies each bank of the pair (R245) -/
  drain : Nat × Nat
  deriving DecidableEq, Repr

/-- A FULL reducer slot: 256 bytes and the format code of the committing trowel (R242, R259). -/
structure RSlot where
  bytes : List PByte
  fmt : Nat
  /-- the valid tokens of the attention command that committed it (R406) -/
  valid : Option Nat
  deriving DecidableEq, Repr

/-- A reducer job: its descriptor (Table 6.16) and the itinerary item that planned it. -/
structure RJob where
  w : W64
  item : Option Nat
  deriving DecidableEq, Repr

/-- A stack reducer. -/
structure Reducer where
  /-- FULL slots by number -/
  slots : List (Nat × RSlot)
  /-- operand area by byte offset; unlisted bytes read 0 -/
  area : List (Nat × PByte)
  /-- queued jobs, head first -/
  jobs : List RJob
  running : Option RJob
  deriving DecidableEq, Repr

/-! ### Command interface (chapter 12) -/

/-- A packet fetched and not begun: opcode and packet (R453, R478). -/
structure Fetched where
  op : Nat
  pkt : Packet
  deriving DecidableEq, Repr

/-- A command that waits to begin, with what it brought. -/
structure Deferred where
  op : Nat
  pkt : Packet
  cmd : Instr
  deriving DecidableEq, Repr

/-- A submission queue (R450). -/
structure SQueue where
  fn : Nat
  base : Nat
  size : Nat
  tail : Nat
  head : Nat
  cq : Nat
  halted : Bool
  fetched : List Fetched
  deriving DecidableEq, Repr

/-- A status reply (Table 12.2) without its phase and sq_head, which its writing adds. -/
structure Reply where
  sq : Nat
  tag : W32
  status : Nat
  flags : Flags
  poison : Bool
  result : Nat
  c0 : Nat
  c1 : Nat
  c2 : Nat
  c3 : Nat
  quiet : Bool
  deriving DecidableEq, Repr

/-- A completion queue (R450, R454, R455). -/
structure CQueue where
  fn : Nat
  base : Nat
  size : Nat
  vector : Nat
  head : Nat
  widx : Nat
  phase : Bool
  /-- replies that wait for a free entry (R28) or for a failed write to be repeated (R456), oldest first -/
  waiting : List Reply
  /-- the last reply write failed and is not yet acknowledged -/
  failed : Bool
  /-- the reply written last -/
  last : Option Reply
  deriving DecidableEq, Repr

/-- A command begun and not completed. -/
structure InProg where
  op : Nat
  pkt : Packet
  fn : Nat
  /-- BAR4 offset of its result window, where it has one -/
  window : Option Nat
  /-- what the command remembers, by its own rule -/
  args : List Nat
  /-- its reply, once only writes that a stack holds remain to be performed (R199, R296) -/
  reply : Option Reply
  deriving DecidableEq, Repr

/-- A result window (R497 to R503): first granule, granules, owner, completed, words. -/
structure Window where
  start : Nat
  count : Nat
  fn : Nat
  done : Bool
  words : List (W32 × Bool)
  deriving DecidableEq, Repr

/-- An execution context 1 to 255 (R486). -/
structure XCtx where
  fn : Nat
  group : Nat
  resident : Bool
  /-- whether it was blocked (resident) or runnable (swapped out) when last noted, and the ordinal since which -/
  waits : Bool
  since : Nat
  /-- held at a pre-emption stop until CONTEXT_RESUME (R493) -/
  stopped : Bool
  deriving DecidableEq, Repr

/-- A pending event entry of a function (R505). -/
structure EvEntry where
  fn : Nat
  code : Nat
  inst : Nat
  count : Nat
  deriving DecidableEq, Repr

/-- Work states (Table 12.5). -/
inductive Work where
  | cold | configured | loaded | serving | caravanLocked | quiesced | maintenance | fault
  deriving DecidableEq, Repr

/-- HUB_CMD_STATUS.role. -/
inductive Role where
  | none | lead | member
  deriving DecidableEq, Repr

/-- The quartermaster's command state. -/
structure Cmd where
  sqs : List (Nat × SQueue)
  cqs : List (Nat × CQueue)
  inProg : List InProg
  /-- commands that wait to begin (R478, R480, R485), oldest first -/
  deferred : List Deferred
  windows : List Window
  ctxs : List (Nat × XCtx)
  /-- groups whose swap policy is AUTO -/
  auto : BitVec 16
  events : List EvEntry
  work : Work
  role : Role
  /-- the admin pair exists -/
  ready : Bool
  /-- the context that holds the itinerary engine (R487) -/
  holder : Option Nat
  /-- contexts to be destroyed once their runs end, by key (R536) -/
  doomed : List Nat
  /-- HUB_CMD_ERR as VF v sees it, by v (R516) -/
  vfErr : List (Nat × Nat)
  /-- CONTEXTS_STALLED has been raised for the present episode (R490) -/
  stalled : Bool
  /-- ordinal for `since` -/
  clock : Nat
  deriving DecidableEq, Repr

/-! ### Host link and DMA (chapter 13) -/

/-- A cached VF translation (R521). -/
structure XlatEnt where
  vf : Nat
  index : Nat
  entry : W64
  deriving DecidableEq, Repr

/-- The PCI Express side of the module. -/
structure Pci where
  numVfs : Nat
  vfEnable : Bool
  /-- functions in D3hot (0 the PF, v the VF v) -/
  d3hot : List Nat
  /-- PF BAR2 size as log2 of its GiB -/
  bar2Log : Nat
  /-- VF BAR2 sizes as log2 of GiB, by VF -/
  vfBar2Log : List (Nat × Nat)
  /-- masked vectors, by function * 256 + vector -/
  msixMask : List Nat
  /-- pending vectors, by function * 256 + vector -/
  msixPend : List Nat
  /-- message address and data by (function * 256 + vector) * 2, the data at the odd key; unlisted ones are 0 -/
  msixMsg : List (Nat × W64)
  xlat : List XlatEnt
  /-- the half nanosecond of the host-time counter that PCI_HOST_TIME does not show -/
  halfNs : Bool
  /-- requests, by function, that wait behind a held write of their function, for a full queue or for a busy bank (R24,
  R199, R252, R294, R559), oldest first -/
  waits : List (Nat × Instr)
  /-- functions whose waiting BAR2 request the queue of a busy bank has served -/
  granted : List Nat
  deriving DecidableEq, Repr

/-- A descriptor list in progress at a DMA queue (R524, R528). -/
structure DmaRun where
  /-- the function that issued it, 0 for an itinerary's list -/
  fn : Nat
  descs : List (BitVec 512)
  /-- descriptors performed, by index (a command's list) or item number (an itinerary's) -/
  done : List Nat
  /-- descriptors that wait for another module: index (or item number) and the requests sent, in address order -/
  waiting : List (Nat × List Nat)
  retired : Bool
  poison : Bool
  flags : Flags
  /-- the descriptor that met a fabric failure, and its Table 9.7 status -/
  failed : Option (Nat × Nat)
  deriving DecidableEq, Repr

/-- The DMA queues and check-value channels. -/
structure Dma where
  /-- lists in progress by queue -/
  runs : List (Nat × DmaRun)
  /-- feed queues by channel: writes of 1, 2 or 4 bytes, oldest first, at most 64 -/
  feed : List (Nat × List (List Byte))
  deriving DecidableEq, Repr

/-! ### Faults and containment (chapter 16) -/

/-- The recorded FAULT cause (Table 16.2). -/
structure FaultRec where
  cause : Nat
  detail : Nat
  /-- code of the lowest reset that clears it (Table 16.5) -/
  need : Nat
  deriving DecidableEq, Repr

/-- Containment state. -/
structure Flt where
  fault : Option FaultRec
  /-- quarantined granules DPA[39:16], at most 256 -/
  quarantine : List Nat
  overflow : Bool
  /-- the lead's caravan list: member index and granule -/
  caravan : List (Nat × Nat)
  /-- notices to the lead not yet sent: event code and granule (R620) -/
  notices : List (Nat × Nat)
  deriving DecidableEq, Repr
/-! ### Itineraries and caravans (chapter 8) -/

/-- ITN_STATUS.state. -/
inductive RunState where
  | none | loaded | waitStart | running | stoppedPreempt | stoppedHalt | aborting | resuming | ended
  deriving DecidableEq, Repr

/-- The caravan as this member knows it (R305, R378). -/
structure Caravan where
  members : Nat
  /-- this module's member index, depth, and the largest depth -/
  index : Nat
  depth : Nat
  dmax : Nat
  /-- this module's ports that the map lists as links to members -/
  ports : List Nat
  /-- the ports to the parent and to the children in the bell tree -/
  parentPort : Option Nat
  childPorts : List Nat
  /-- fabric IDs by member index -/
  ids : List Nat
  /-- parent member index by member index -/
  parents : List Nat
  /-- first 16 bytes of the SHA-256 of the caravan map -/
  mapHash : Nat
  /-- the links between members: member and port of one end, member and port of the other (Table 9.8) -/
  links : List (Nat × Nat × Nat × Nat)
  deriving DecidableEq, Repr

/-- The itinerary engine. -/
structure Itn where
  run : RunState
  image : Option ItinImage
  /-- the reserved range: DPA[39:16] and length in 64 KiB units -/
  base : Nat
  len : Nat
  caravan : Option Caravan
  /-- the caravan before a CARAVAN_FORM in progress -/
  caravanOld : Option Caravan
  variant : Nat
  /-- S, or the bell at which waystation 0 is to be released -/
  startAt : Option Nat
  shift : Nat
  /-- the caravan-wide waystation worked toward or held, and 0 working, 1 arrived, 2 stop point -/
  way : Nat
  phase : Nat
  /-- the last committed checkpoint, and the bell of its release -/
  ckpt : Nat
  ckptBell : Nat
  seqWord : Nat
  runs : Nat
  /-- items begun and items whose dependency is satisfied -/
  begun : List Nat
  done : List Nat
  /-- launches made by each attention item begun -/
  planAt : List (Nat × Nat)
  /-- ARRIVAL waystations released, and (waystation, sender, bell) of transfers performed -/
  arrivals : List Nat
  tagged : List (Nat × Nat × Nat)
  /-- an epoch start whose values are not yet decided and sampled (R308) -/
  epochDue : Bool
  /-- losses of stack contents when the last checkpoint was committed (R330) -/
  lossMark : Nat
  /-- numerators: largest of the epoch, in force -/
  pend : Nat
  inForce : Nat
  /-- bells, modulo 16, since the factor took effect (R312) -/
  gateBells : Nat
  /-- the budget manager's and the thermal requirement (R37, R322) -/
  reqBudget : Nat
  reqThermal : Nat
  /-- SHA-256 of the loaded image, and the context it is loaded for -/
  hash : List Byte
  ctx : Nat
  /-- the abort cause this member raises (0 none; R678) and the waystation it names -/
  cause : Nat
  causeWay : Nat
  preemptReq : Bool
  /-- largest stop code sampled or received this epoch, code in force, code sent -/
  stopMax : Nat
  decided : Nat
  sent : Nat
  /-- child ports whose member has sent UP with the present wave index -/
  ups : List Nat
  upSent : Bool
  /-- the bell r of R316 once known -/
  downAt : Option Nat
  stopPoint : Option Nat
  /-- the stop point was chosen by a pre-emption -/
  stopPre : Bool
  /-- A, the bell of the last abort (R329) -/
  abortBell : Nat
  /-- aborts in the current segment, and in the run -/
  segAborts : Nat
  runAborts : Nat
  lastWay : Nat
  lastCause : Nat
  /-- an alarm bit sampled or received this epoch, and the decided bit -/
  alarmMax : Bool
  alarmDecided : Bool
  /-- SCHED transfers begun and not yet acknowledged as performed at their targets -/
  schedOut : List Nat
  /-- conversion flags and poison of the run so far (R75) -/
  flags : Flags
  poisoned : Bool
  deriving DecidableEq, Repr

/-! ### Cheov fabric (chapter 9) -/

/-- A flit that waits to be sent: lane, first, last, bad and its 120-byte body. -/
structure TxFlit where
  lane : Nat
  first : Bool
  last : Bool
  bad : Bool
  body : List Byte
  deriving DecidableEq, Repr

/-- A packet sent on a port and not acknowledged whole: its lane, the seq of its last flit once sent, its bytes. -/
structure SentPkt where
  lane : Nat
  lastSeq : Option Nat
  bytes : List Byte
  deriving DecidableEq, Repr

/-- A packet whose flits are arriving on a lane of a port. -/
structure Partial where
  lane : Nat
  bytes : List Byte
  /-- numbers of the flits that were bad -/
  bad : List Nat
  drop : Bool
  deriving DecidableEq, Repr

/-- A Cheov port. -/
structure FPort where
  /-- Table 9.3 -/
  state : Nat
  /-- an attempt has failed and its 1 s has not passed -/
  failed : Bool
  lanes : Nat
  bellOk : Bool
  peerId : Nat
  peerPort : Nat
  peerValid : Bool
  schedOk : Bool
  txSeq : Nat
  rxSeq : Nat
  /-- the BULK lane whose packet was sent last (Table 9.9) -/
  turn : Nat
  /-- tolls held, by lane 0 to 5 -/
  tolls : List Nat
  /-- flits kept for replay: seq and 128 bytes -/
  replay : List (Nat × List Byte)
  txq : List TxFlit
  sent : List SentPkt
  part : List Partial
  deriving DecidableEq, Repr

/-- A packet received whole and not yet performed or forwarded: header and payload, with the payload bytes that bad
flits carried. -/
structure RxPkt where
  port : Nat
  lane : Nat
  bytes : List Byte
  bad : List (Nat × Nat)
  /-- flits of its lane's receive buffer that it holds, whose tolls are returned when it leaves (R355) -/
  flits : Nat
  deriving DecidableEq, Repr

/-- A packet that waits for a toll or for a usable port: its lane (1 ADAPT, 2 ESC0) and bytes, and for a forwarded one
the receive buffer that it still holds: port, lane and flits. -/
structure WaitPkt where
  lane : Nat
  bytes : List Byte
  buf : Option (Nat × Nat × Nat)
  deriving DecidableEq, Repr

/-- A request of this module that awaits its response. -/
structure OutReq where
  id : Nat
  kind : Nat
  dest : Nat
  bytes : List Byte
  tries : Nat
  /-- who issued it: an SQ index + 1, or 0 -/
  owner : Nat
  deriving DecidableEq, Repr

/-- The outcome of a request: status of Table 9.7 (0xFF for no response) and data. -/
structure FResult where
  id : Nat
  kind : Nat
  status : Nat
  data : List Byte
  owner : Nat
  deriving DecidableEq, Repr

/-- The fabric engine. -/
structure Fab where
  ports : List (Nat × FPort)
  inbox : List RxPkt
  waiting : List WaitPkt
  reqs : List OutReq
  results : List FResult
  nextId : Nat
  /-- serial number of the recorded manager (R342) -/
  claimSerial : Nat
  /-- SCHED bytes received by sender (member index) * 2^32 + tag -/
  recvd : List (Nat × Nat)
  /-- payloads of the TREE packets that bring a manifest or start record, in order, until it is processed -/
  tree : List (List Byte)
  deriving DecidableEq, Repr


/-! ### Boot and security (chapter 17) -/

/-- A signing-state record (Table 17.6): write count, reserved_end, next and kind. -/
structure SignRec where
  seq : Nat
  rend : Nat
  next : Nat
  kind : Nat
  deriving DecidableEq, Repr

/-- A signature request that waits for a bottom tree (Table 17.10): an ATTEST with its window and scope, or a DOE
MEASUREMENT; and the bytes to sign. -/
structure SignReq where
  pkt : Option Packet
  window : Nat
  body : List Byte
  deriving DecidableEq, Repr

/-- The security engine and what module flash holds for it (Table 17.1). -/
structure Sec where
  /-- the configuration blob accepted at boot stage 3; empty before -/
  blob : List Byte
  /-- staged images by kind: 1 firmware, 2 blob (R652) -/
  staged : List (Nat × List Byte)
  /-- module flash: the blob, the firmware image, the kind that the update marker names, signing-state copies A and B -/
  flashBlob : List Byte
  flashImage : List Byte
  marker : Option Nat
  recA : Option SignRec
  recB : Option SignRec
  /-- the next unused leaf index and reserved_end -/
  next : Nat
  rend : Nat
  /-- a kind 0 record is owed before the first signature of the boot (R646) -/
  owed : Bool
  /-- a record write was refused and is made when the flash window reopens (R648) -/
  deferred : Bool
  /-- the bottom tree whose nodes are cached as current, and whether the next one's are (R645) -/
  tree : Nat
  nextTree : Bool
  /-- the running firmware's measurement and version (R636) -/
  fwHash : List Byte
  fwVersion : Nat
  /-- hub SRAM as BAR2 shows it in RECOVERY (R640); unlisted bytes read 0 -/
  sram : List (Nat × Byte)
  /-- cause of the last recovery -/
  lastCause : Nat
  /-- requests waiting, oldest first, at most 64 (R649) -/
  reqs : List SignReq
  deriving DecidableEq, Repr

/-! ### Power, temperature, coolant, hold-up, inputs and pins (chapters 14 and 18) -/

/-- A sensor as last sampled (R556, R557): units of 1/16 °C, and 1/16 °C per ms (per s for the outlet). -/
structure Sensor where
  temp : Int
  rate : Int
  fast : Bool
  /-- samples at 1 kHz or 16 kHz, in 1/16 ms, since neither condition for fast sampling held -/
  calm : Nat
  /-- temperatures by 1/16 ms, newest first: 1 ms of them, or 1 s for the outlet -/
  hist : List Int
  deriving DecidableEq, Repr

/-- Copies of the four items of R9: fault log, ageing counters with the operating time, next leaf index and reserved end,
incident trace. -/
structure HoldItems where
  faultLog : Option (List (List W32))
  ageing : Option (List (Nat × (Int × Nat)) × Nat)
  sign : Option (Nat × Nat)
  trace : Option (List W32)
  deriving DecidableEq, Repr

/-- The watchman's state. -/
structure Power where
  /-- sensors sampled since the always-on domain was powered, by index -/
  sensors : List (Nat × Sensor)
  /-- the 54 V input and the 12 V standby input in range -/
  input : Bool
  standby : Bool
  /-- input pins asserted, and address straps -/
  perst : Bool
  wakePin : Bool
  straps : Nat
  /-- MOD_ALERT_N asserted, and acknowledged since (R660) -/
  alert : Bool
  acked : Bool
  /-- the input-loss sequence is in progress (R573) -/
  losing : Bool
  /-- DORMANT or OFF was entered by POWER_SET and is not yet left (R547, R577) -/
  commanded : Bool
  /-- a wake has been requested and not yet begun -/
  wakeReq : Bool
  /-- the boot in progress is a wake from DORMANT -/
  waking : Bool
  /-- groups with a trip in force (THM_TRIP.group) -/
  trips : List Nat
  /-- direct starts held back by the duty limit: DMA queue q, or 32 + trowel key, and its delay (R555) -/
  delays : List (Nat × Nat)
  /-- the bell since which the module has been cool (R558) -/
  coolSince : Option Nat
  /-- pool grant, and the hub group's draw at the last interval (R554) -/
  pool : Nat
  hubDraw : Nat
  /-- the last 100 samples of 10 µs, newest first: module, compute, stacks, hub (R552) -/
  samples : List (Nat × Nat × Nat × Nat)
  /-- samples at or below the limit since the last excursion, and samples of over-draw in a row by group -/
  quiet : Nat
  overFor : Nat × Nat × Nat
  /-- samples of the excursion in progress (R32) -/
  excur : Nat
  /-- the phase of the profile in force, by index (R549) -/
  phase : Option Nat
  /-- clusters held at PARK depth 2 during a run (R549) -/
  parked : BitVec 24
  /-- integ of R566, in 1/160 % -/
  integ : Int
  /-- ms until the announced start (R567) -/
  annIn : Nat
  /-- the outlet rate has held the duty at 100 %, and for how many updates it has been calm since (R568) -/
  boost : Bool
  outCalm : Nat
  /-- R571 is in force; updates of 100 ms with flow below and at or above min_flow -/
  lowFlow : Bool
  flowBad : Nat
  flowGood : Nat
  /-- the sensor that SMBus SENSOR_SEL selected -/
  smbSel : Nat
  /-- the context whose engine was saved on the way to PARK depth 3 or deeper, restored on the return to RUN (R544) -/
  saved : Option Nat
  /-- items in retention memory, and in module flash (R548, R575) -/
  retention : HoldItems
  flash : HoldItems
  deriving DecidableEq, Repr


/-! ### Ledger, prefix index and serving engines (chapters 10 and 11) -/

/-- A ledger entry's state (Table 10.2). -/
inductive LState where
  | free | owned | shared | copying | retired
  deriving DecidableEq, Repr

/-- A ledger entry (Table 10.2). -/
structure LEntry where
  refcount : Nat
  pins : Nat
  state : LState
  kfmt : Nat
  vfmt : Nat
  fill : Nat
  indexed : Bool
  src : Nat
  placed : Bool
  retirePending : Bool
  bank : Nat
  frame : Nat
  pfx : Nat
  deriving DecidableEq, Repr

/-- A prefix index entry (R396): key and other half of the digest, block, and the tokens kept by verify mode. -/
structure PEntry where
  key : Nat
  rest : Nat
  block : Nat
  tokens : List Nat
  deriving DecidableEq, Repr

/-- The loaded model (Table 11.1). -/
structure Model where
  vocab : Nat
  p : Nat
  /-- 1 BY_HEAD, 2 BY_POSITION -/
  layout : Nat
  /-- head dimension -/
  d : Nat
  verify : Bool
  autoIndex : Bool
  wide : Bool
  lkv : Nat
  hm : Nat
  glog2 : Nat
  f : Nat
  kfmt : Nat
  vfmt : Nat
  qfmt : Nat
  salt : List Byte
  store : Nat
  maxRank : Nat
  /-- SHA-256 of the descriptor (R416) -/
  hash : List Byte
  deriving DecidableEq, Repr

/-- A slot record (R418) with its token window, block table and prefix chain (R381, R395, R424). -/
structure Slot where
  /-- 0 FREE, 1 ACTIVE, 2 HELD -/
  state : Nat
  /-- Table 11.3, 0 for none -/
  cause : Nat
  tenant : Nat
  constrained : Bool
  t : Nat
  last : Option Nat
  steps : Nat
  adapter : Nat
  gen : Nat
  /-- the last 4,096 tokens appended, oldest first -/
  window : List Nat
  table : List Nat
  /-- the digest of the last full block, while the slot keeps a chain -/
  chain : Option (List Byte)
  /-- tokens of the block being filled -/
  pend : List Nat
  deriving DecidableEq, Repr

/-- An adapter slot: generation and store of its current, retiring and loading generations, and the use counts of
the first two (R443 to R445). -/
structure AdSlot where
  cur : Option (Nat × Nat)
  ret : Option (Nat × Nat)
  load : Option (Nat × Nat)
  curUse : Nat
  retUse : Nat
  deriving DecidableEq, Repr

/-- A resident grammar (R440): mask index by state, and masks as sets of tokens by bit. -/
structure Grammar where
  maskOf : List Nat
  masks : List Nat
  deriving DecidableEq, Repr

/-- A manifest entry (Table 11.5) with its lists. -/
structure MEntry where
  words : List Nat
  tokens : List Nat
  blocks : List Nat
  masks : List Nat
  deriving DecidableEq, Repr

/-- What a step holds of an entry's result record (Table 11.8). -/
structure SRes where
  status : Nat
  token : Option Nat
  cands : List (Nat × Nat)
  ran : Bool
  empty : Bool
  poison : Bool
  flags : Flags
  logp : Nat
  set : Nat
  /-- the result has been staged -/
  ready : Bool
  deriving DecidableEq, Repr

/-- A row queued at the sampler or the stencil engine: its entry, EMIT item, lane, logits DPA and format code. -/
structure LRow where
  entry : Nat
  item : Nat
  lane : Nat
  dpa : Nat
  fmt : Nat
  deriving DecidableEq, Repr

/-- The step in progress (§11.3). -/
structure StepRun where
  index : Nat
  entries : List MEntry
  res : List SRes
  admitted : Bool
  /-- blocks pinned, and copies (source, target, source fill) not yet performed -/
  pinned : List Nat
  copies : List (Nat × Nat × Nat)
  /-- (slot, block, digest, tokens) to insert at completion -/
  inserts : List (Nat × Nat × List Byte × List Nat)
  /-- rows queued or at their lanes, and rows taken so far, of the sampler and of the stencil engine -/
  smpq : List LRow
  stnq : List LRow
  smpN : Nat
  stnN : Nat
  deriving DecidableEq, Repr

/-- A launch of an attention plan list (R405): its trowel, slots, first block number, blocks (frame and tokens written), head,
and the K and V formats recorded. -/
structure PlanCmd where
  stack : Nat
  trowel : Nat
  slots : List Nat
  first : Nat
  blocks : List (Nat × Nat)
  head : Nat
  kfmt : Nat
  vfmt : Nat
  deriving DecidableEq, Repr

/-- What a CHECKPOINT saves of the serving state (R429): ledger, index, slots and the step with its staged results. -/
structure SrvCore where
  /-- ledger entries by block index; unlisted ones are FREE -/
  entries : List (Nat × LEntry)
  /-- frames by bank * 1,024 + frame: 1 IN_USE, 2 RETIRED; unlisted ones are FREE -/
  frames : List (Nat × Nat)
  /-- index entries by set * 8 + way -/
  index : List (Nat × PEntry)
  slots : List (Nat × Slot)
  run : Option StepRun
  plans : List PlanCmd
  deriving DecidableEq, Repr

/-- A range of stack memory reserved by the quartermaster, in 64 KiB units, with its user: 0 the ledger, 1 the other
serving state, 256 + c the image of a context, 1,024 + c a swap area. -/
structure Area where
  user : Nat
  base : Nat
  len : Nat
  deriving DecidableEq, Repr

/-- The serving engines. -/
structure Srv where
  model : Option Model
  core : SrvCore
  saved : Option SrvCore
  nextStep : Nat
  /-- (constrained, enabled) by tenant; unlisted tenants are OPEN and disabled -/
  tenants : List (Nat × (Bool × Bool))
  adapters : List (Nat × AdSlot)
  grammars : List (Nat × Grammar)
  areas : List Area
  deriving DecidableEq, Repr

/-- What the itinerary engine holds for a context that is not its holder (R487). -/
structure Engine where
  itn : Itn
  arrays : List (Nat × Arr)
  /-- arrays whose scratch lies in the context's swap area (R130) -/
  swapped : List Nat
  deriving DecidableEq, Repr

/-! ### The state of the module -/

/-- The whole state: the units above, the register values by address (only those that differ from their
reset values), the bell count, and the queue of waiting commands. -/
structure State where
  /-- commands waiting, first in first out -/
  pending : List Instr
  variant : Variant
  /-- register values by BAR0 offset or control-space DPA; an unlisted register holds its reset value -/
  regs : List (Nat × W64)
  /-- bell count, 48 bits (ITN_BELL) -/
  bell : Nat
  /-- what has left the module, newest first (the model's own) -/
  outbox : List Out
  /-- how many free values have been taken (the model's own) -/
  freeCtr : Nat
  dep : Depot
  mem : Mem
  scr : Screed
  /-- arrays by die * 96 + n -/
  arrays : List (Nat × Arr)
  /-- trowels by stack * 640 + t; an unlisted trowel is IDLE -/
  trowels : List (Nat × Trowel)
  /-- micro-program stores by (stack * 640 + t) * 256 + index; unlisted instructions are 0 -/
  ustore : List (Nat × W64)
  /-- reducers by stack -/
  reducers : List (Nat × Reducer)
  cmd : Cmd
  pci : Pci
  dma : Dma
  flt : Flt
  itn : Itn
  fab : Fab
  sec : Sec
  pwr : Power
  srv : Srv
  /-- engine state by context, for contexts other than the holder -/
  engines : List (Nat × Engine)
  deriving DecidableEq, Repr

/-- The number of stacks of a variant (Table 0.1). -/
def Variant.stks : Variant → Nat
  | .pm960 => 12
  | .pm480 => 6

/-- A stack after reset (Table 5.9, Table 5.10): OFF, scrub at the first row. -/
def Stack.reset : Stack :=
  { state := .off, hot := false, scrubPos := 0, scrubPasses := 0, scrubLag := 0, merge := [], mergeSeq := 0,
    remembered := [], disabled := [], held := [], notices := [], bankq := [] }

/-- The depot after reset (Table 15.2, Table 15.9). -/
def Depot.reset : Depot :=
  { queues := [], latch := [], latchWait := [], faultLog := [], ring := [], frozen := false, countdown := none,
    fault := false, caravanAlarm := false, age := [], minutes := 0, day := 0, lost := false }

/-- Memory after reset: nothing listed. -/
def Mem.reset (v : Variant) : Mem :=
  { dram := [], chk := [], p := 0, retired := [], flashRet := [], retPending := [], stks := List.replicate v.stks Stack.reset, postponed := [], losses := 0 }

/-- The screed after reset: every line invalid. -/
def Screed.reset : Screed :=
  { lines := [], stamp := 0, victims := [], fills := [], atoms := [], front := [], chan := [], frontWait := [], fault := 0,
    maint := [], served := [] }

/-- The command interface after reset: no queue exists, the work state is COLD. -/
def Cmd.reset : Cmd :=
  { sqs := [], cqs := [], inProg := [], deferred := [], windows := [], ctxs := [], auto := 0, events := [],
    work := .cold, role := .none, ready := false, holder := none, doomed := [], vfErr := [], stalled := false, clock := 0 }

/-- The host link after reset (Table 13.13); BAR2 at its smallest size (DESIGN CHOICE: no default size is
stated). -/
def Pci.reset : Pci :=
  { numVfs := 0, vfEnable := false, d3hot := [], bar2Log := 0, vfBar2Log := [],
    msixMask := [], msixPend := [], msixMsg := [], xlat := [], halfNs := false, waits := [], granted := [] }

/-- The DMA engines after reset. -/
def Dma.reset : Dma := { runs := [], feed := [] }

/-- No fault recorded, nothing in quarantine. -/
def Flt.reset : Flt := { fault := none, quarantine := [], overflow := false, caravan := [], notices := [] }

/-- The itinerary engine after reset (Table 8.13, Table 8.14): nothing loaded, factor 16/16. -/
def Itn.reset : Itn :=
  { run := .none, image := none, base := 0, len := 0, caravan := none, caravanOld := none, variant := 0, startAt := none, shift := 0,
    way := 0, phase := 0, ckpt := 0, ckptBell := 0, seqWord := 0, runs := 0, begun := [], done := [], planAt := [], arrivals := [], tagged := [], epochDue := false, lossMark := 0,
    pend := 16, inForce := 16, gateBells := 0, reqBudget := 16, reqThermal := 16, hash := [], ctx := 0,
    cause := 0, causeWay := 0, preemptReq := false,
    stopMax := 0, decided := 0, sent := 0, ups := [], upSent := false, downAt := none,
    stopPoint := none, stopPre := false, abortBell := 0, segAborts := 0, runAborts := 0, lastWay := 0, lastCause := 0, alarmMax := false,
    alarmDecided := false, schedOut := [], flags := ⟨false, false, false, false, false, false⟩, poisoned := false }

/-- The fabric engine after reset: every port DOWN. -/
def Fab.reset : Fab := { ports := [], inbox := [], waiting := [], reqs := [], results := [], nextId := 0, claimSerial := 0, recvd := [], tree := [] }

/-- The security engine after reset; module flash is erased (DESIGN CHOICE: what it holds is written outside the
module), so no signing-state record is valid (R646). -/
def Sec.reset : Sec :=
  { blob := [], staged := [], flashBlob := [], flashImage := [], marker := none, recA := none, recB := none, next := 0,
    rend := 0, owed := false, deferred := false, tree := 0, nextTree := false, fwHash := [], fwVersion := 0, sram := [],
    lastCause := 0, reqs := [] }

/-- No item held. -/
def HoldItems.none : HoldItems := { faultLog := .none, ageing := .none, sign := .none, trace := .none }

/-- The watchman after reset: nothing sampled, no input in range, no pin asserted. -/
def Power.reset : Power :=
  { sensors := [], input := false, standby := false, perst := false, wakePin := false, straps := 0, alert := false,
    acked := false, losing := false, commanded := false, wakeReq := false, waking := false, coolSince := none, pool := 0,
    hubDraw := 0, samples := [], quiet := 10000, overFor := (0, 0, 0), excur := 0, trips := [], delays := [], phase := none, parked := 0, integ := 0, annIn := 0,
    boost := false, outCalm := 0, lowFlow := false, flowBad := 0, flowGood := 0, smbSel := 0, saved := none, retention := .none, flash := .none }

/-- The serving state with no model. -/
def SrvCore.reset : SrvCore := { entries := [], frames := [], index := [], slots := [], run := none, plans := [] }
/-- The serving engines after reset: no model, nothing reserved. -/
def Srv.reset : Srv :=
  { model := none, core := SrvCore.reset, saved := none, nextStep := 0, tenants := [], adapters := [], grammars := [],
    areas := [] }

/-- The module of a variant right after reset: every register at its Reset value, nothing in memory, no
queue, work state COLD. -/
def State.resetOf (v : Variant) : State :=
  { pending := [], variant := v, regs := [], bell := 0, outbox := [], freeCtr := 0, dep := Depot.reset,
    mem := Mem.reset v, scr := Screed.reset, arrays := [], trowels := [], ustore := [], reducers := [],
    cmd := Cmd.reset,
    pci := Pci.reset, dma := Dma.reset, flt := Flt.reset, itn := Itn.reset, fab := Fab.reset, sec := Sec.reset, pwr := Power.reset, srv := Srv.reset, engines := [] }

/-- The state after reset. DESIGN CHOICE: the module is a Prasum 960; `State.resetOf .pm480` is the other
variant after reset. -/
def State.reset : State := State.resetOf .pm960

end Sys2Proof.Machine
end

