-- ==== Sys2Proof/Machine/Util.lean ====
section
/-!
DEFINITION. Plain helpers: bit fields, bytes and little-endian numbers, sparse maps in canonical form.
-/
namespace Sys2Proof.Machine

/-- Bits [lo+w-1 : lo] of a number. -/
def bitsOf (v lo w : Nat) : Nat := (v >>> lo) % 2 ^ w

/-- Bit `i` of a number. -/
def bitAt (v i : Nat) : Bool := v.testBit i

/-- A number with bits [lo+w-1 : lo] replaced by `x`. -/
def setBits (v lo w x : Nat) : Nat := v - (bitsOf v lo w) * 2 ^ lo + (x % 2 ^ w) * 2 ^ lo

/-- A field of a 64-bit register word. -/
def W64.field (v : W64) (lo w : Nat) : Nat := bitsOf v.toNat lo w

/-- A 64-bit register word with a field replaced. -/
def W64.withField (v : W64) (lo w x : Nat) : W64 := BitVec.ofNat 64 (setBits v.toNat lo w x)

/-- One as a number where the condition holds. -/
def b2n (b : Bool) : Nat := if b then 1 else 0

/-- Ceiling of a quotient. -/
def ceilDiv (a b : Nat) : Nat := (a + b - 1) / b

/-- The `n` bytes of a number, lowest first (R10). -/
def leBytes (n v : Nat) : List Byte := (List.range n).map fun i => BitVec.ofNat 8 (v >>> (8 * i))

/-- The number whose bytes are listed lowest first (R10). -/
def ofLe : List Byte → Nat
  | [] => 0
  | b :: bs => b.toNat + 256 * ofLe bs

/-- The `n` bytes of a number, highest first. -/
def beBytes (n v : Nat) : List Byte := (leBytes n v).reverse

/-- The little-endian field of `n` bytes at offset `o` of a byte string; absent bytes are zero. -/
def fieldAt (bs : List Byte) (o n : Nat) : Nat := ofLe ((bs.drop o).take n)

/-- A byte string cut or padded with zeros to `n` bytes. -/
def padTo (n : Nat) (bs : List Byte) : List Byte := bs.take n ++ List.replicate (n - bs.length) 0

/-- `xs` with element `i` replaced; unchanged where there is none. -/
def setAt {α : Type} (xs : List α) (i : Nat) (x : α) : List α := xs.set i x

/-- Element `i`, or the default. -/
def nth {α : Type} (xs : List α) (i : Nat) (d : α) : α := xs.getD i d

/-- The elements grouped `n` at a time, at most `k` groups. -/
def chunks {α : Type} (n : Nat) : Nat → List α → List (List α)
  | 0, _ => []
  | _, [] => []
  | k + 1, xs => xs.take n :: chunks n k (xs.drop n)

/-- Fold over 0 .. n-1. -/
def loopN {α : Type} (n : Nat) (a : α) (f : Nat → α → α) : α := (List.range n).foldl (fun a i => f i a) a

/-- A number as an Option where it is below a bound. -/
def below (n bound : Nat) : Option Nat := if n < bound then some n else none

/-! ### Sparse maps: lists of key and value, keys strictly rising -/

/-- The value at a key. -/
def mget {α : Type} : List (Nat × α) → Nat → Option α
  | [], _ => none
  | (k, v) :: m, i => if k = i then some v else mget m i

/-- The map with a value at a key. -/
def mset {α : Type} : List (Nat × α) → Nat → α → List (Nat × α)
  | [], i, x => [(i, x)]
  | (k, v) :: m, i, x =>
    if i < k then (i, x) :: (k, v) :: m
    else if k = i then (i, x) :: m
    else (k, v) :: mset m i x

/-- The map without a key. -/
def mdel {α : Type} : List (Nat × α) → Nat → List (Nat × α)
  | [], _ => []
  | (k, v) :: m, i => if k = i then mdel m i else (k, v) :: mdel m i

/-- The map with a value at a key, in canonical form: a value equal to the default is not listed. -/
def mput {α : Type} [DecidableEq α] (d : α) (m : List (Nat × α)) (i : Nat) (x : α) : List (Nat × α) :=
  if x = d then mdel m i else mset m i x

/-- The value at a key, or the default. -/
def mgetD {α : Type} (d : α) (m : List (Nat × α)) (i : Nat) : α := (mget m i).getD d

/-- Change the value at a key, absent keys left absent. -/
def mmod {α : Type} (m : List (Nat × α)) (i : Nat) (f : α → α) : List (Nat × α) :=
  m.map fun kv => if kv.1 = i then (kv.1, f kv.2) else kv

/-- The keys strictly rise. -/
def msorted {α : Type} : List (Nat × α) → Bool
  | [] => true
  | [_] => true
  | (a, _) :: (b, y) :: m => decide (a < b) && msorted ((b, y) :: m)

/-- The smallest number below `n` that satisfies a condition. -/
def firstBelow (n : Nat) (p : Nat → Bool) : Option Nat := (List.range n).find? p

/-- Floor of the square root. -/
def isqrt (n : Nat) : Nat :=
  loopN (n.log2 / 2 + 1) 0 fun i r =>
    let c := r + 2 ^ (n.log2 / 2 - i)
    if c * c ≤ n then c else r

end Sys2Proof.Machine
end

