-- ==== Sys2Proof/Machine/Flags.lean ====
section
/-!
DEFINITION. The sticky conversion flags of Table 2.6: the single flags, their union and their bits.
-/
namespace Sys2Proof.Machine

/-- No flag set. -/
def Flags.none : Flags := ⟨false, false, false, false, false, false⟩
/-- Sticky union (R75). -/
def Flags.or (a b : Flags) : Flags :=
  ⟨a.sat || b.sat, a.ovf || b.ovf, a.unf || b.unf, a.inv || b.inv, a.rsv || b.rsv, a.nrw || b.nrw⟩
/-- Only SAT. -/
def Flags.onlySat : Flags := { Flags.none with sat := true }
/-- Only OVF. -/
def Flags.onlyOvf : Flags := { Flags.none with ovf := true }
/-- Only UNF. -/
def Flags.onlyUnf : Flags := { Flags.none with unf := true }
/-- Only INV. -/
def Flags.onlyInv : Flags := { Flags.none with inv := true }
/-- Only RSV. -/
def Flags.onlyRsv : Flags := { Flags.none with rsv := true }
/-- Only NRW. -/
def Flags.onlyNrw : Flags := { Flags.none with nrw := true }
/-- The flags as bits, SAT lowest. -/
def Flags.bits (f : Flags) : Nat :=
  b2n f.sat + 2 * b2n f.ovf + 4 * b2n f.unf + 8 * b2n f.inv + 16 * b2n f.rsv + 32 * b2n f.nrw
/-- The flags from bits, SAT lowest. -/
def Flags.ofBits (n : Nat) : Flags := ⟨bitAt n 0, bitAt n 1, bitAt n 2, bitAt n 3, bitAt n 4, bitAt n 5⟩

end Sys2Proof.Machine
end

