-- ==== Sys2Proof/Machine/Float.lean ====
section
/-!
DEFINITION. Number formats and conversion (chapter 2): decoding every format to the exact value it
denotes, rounding an exact value once into a target, block encodings and Philox.
-/
namespace Sys2Proof.Machine

/-! ### Descriptors (Table 2.2) -/

/-- A rounding mode (Table 2.2, bits [7:6]). -/
inductive Round where
  | rne | rtz | stochastic
  deriving DecidableEq, Repr

/-- A decoded format descriptor (R40). -/
structure Fmt where
  code : Nat
  elem : Bool
  round : Round
  ovf : Bool
  wideFp16 : Bool
  deriving DecidableEq, Repr

/-- The format codes of Table 2.1 that are not reserved. -/
def fmtCodeOk (c : Nat) : Bool := decide (1 ≤ c) && decide (c ≤ 0x12)

/-- R41: a descriptor is rejected for a reserved code, round 0b11, a nonzero reserved field, or elem = 1
for a code other than 0x0E and 0x0F. -/
def fmtDecode (d : Nat) : Option Fmt :=
  let c := bitsOf d 0 5
  let e := bitAt d 5
  if !fmtCodeOk c || bitsOf d 6 2 == 3 || d / 2 ^ 10 != 0 || (e && c != 0x0E && c != 0x0F) then none
  else some { code := c, elem := e,
              round := if bitsOf d 6 2 == 0 then .rne else if bitsOf d 6 2 == 1 then .rtz else .stochastic,
              ovf := bitAt d 8, wideFp16 := bitAt d 9 }

/-- A descriptor with RNE and saturation. -/
def fmtPlain (c : Nat) : Fmt := ⟨c, false, .rne, false, false⟩

/-- Element width in bits (Table 2.1); FP19 is held in 32 bits. -/
def elemBits (c : Nat) : Nat :=
  match c with
  | 0x01 => 32 | 0x02 => 32 | 0x03 => 16 | 0x04 => 16 | 0x05 => 8 | 0x06 => 8
  | 0x07 => 6 | 0x08 => 6 | 0x09 => 4 | 0x0A => 32 | 0x0B => 16 | 0x0C => 8 | 0x0D => 4
  | 0x0E => 8 | 0x0F => 6 | 0x10 => 4 | 0x11 => 8 | 0x12 => 3 | _ => 0

/-- Block length in elements (Table 2.1); 1 for a scalar format. -/
def blockLen (c : Nat) : Nat := if 0x0E ≤ c ∧ c ≤ 0x11 then 32 else if c = 0x12 then 16 else 1
/-- Whether the format is a block format. -/
def isBlock (c : Nat) : Bool := decide (0x0E ≤ c) && decide (c ≤ 0x12)
/-- Whether the format is an integer format (R48). -/
def isInt (c : Nat) : Bool := decide (0x0A ≤ c) && decide (c ≤ 0x0D)

/-! ### Exact values -/

/-- The exact real value that an encoding denotes, or its special value: a finite value is
(-1)^neg * m * 2^e. -/
inductive FVal where
  | nan
  | inf (neg : Bool)
  | fin (neg : Bool) (m : Nat) (e : Int)
  deriving DecidableEq, Repr

/-- Layout of a scalar floating-point format (Table 2.3). -/
structure FLay where
  eb : Nat
  mb : Nat
  bias : Int
  /-- code (without sign) of the largest finite value -/
  maxCode : Nat
  hasInf : Bool
  hasNaN : Bool
  /-- canonical NaN (Table 2.4) -/
  nanCode : Nat
  deriving DecidableEq, Repr

/-- FP32. -/
def layFp32 : FLay := ⟨8, 23, 127, 0x7F7FFFFF, true, true, 0x7FC00000⟩
/-- FP19, as a 19-bit value (the container shifts it left by 13, R43). -/
def layFp19 : FLay := ⟨8, 10, 127, 0x3FBFF, true, true, 0x3FE00⟩
/-- BF16. -/
def layBf16 : FLay := ⟨8, 7, 127, 0x7F7F, true, true, 0x7FC0⟩
/-- FP16. -/
def layFp16 : FLay := ⟨5, 10, 15, 0x7BFF, true, true, 0x7E00⟩
/-- FP8 E4M3. -/
def layE4M3 : FLay := ⟨4, 3, 7, 0x7E, false, true, 0x7F⟩
/-- FP8 E5M2. -/
def layE5M2 : FLay := ⟨5, 2, 15, 0x7B, true, true, 0x7E⟩
/-- FP6 E3M2. -/
def layE3M2 : FLay := ⟨3, 2, 3, 0x1F, false, false, 0⟩
/-- FP6 E2M3. -/
def layE2M3 : FLay := ⟨2, 3, 1, 0x1F, false, false, 0⟩
/-- FP4 E2M1. -/
def layE2M1 : FLay := ⟨2, 1, 1, 0x7, false, false, 0⟩
/-- IEEE double precision, for the ageing arithmetic (R605). -/
def layFp64 : FLay := ⟨11, 52, 1023, 0x7FEFFFFFFFFFFFFF, true, true, 0x7FF8000000000000⟩

/-- The scalar layout of a floating-point format code, or of the element of a block format. -/
def layOf (c : Nat) (elem : Bool) : Option FLay :=
  match c with
  | 0x01 => some layFp32 | 0x02 => some layFp19 | 0x03 => some layBf16 | 0x04 => some layFp16
  | 0x05 => some layE4M3 | 0x06 => some layE5M2 | 0x07 => some layE3M2 | 0x08 => some layE2M3
  | 0x09 => some layE2M1
  | 0x0E => some (if elem then layE5M2 else layE4M3)
  | 0x0F => some (if elem then layE2M3 else layE3M2)
  | 0x10 => some layE2M1
  | _ => none

/-- The value of a scalar floating-point encoding (Table 2.3, R44). -/
def layDecode (l : FLay) (v : Nat) : FVal :=
  let neg := bitAt v (l.eb + l.mb)
  let e := bitsOf v l.mb l.eb
  let m := bitsOf v 0 l.mb
  if l.hasInf && e == 2 ^ l.eb - 1 then (if m = 0 then .inf neg else .nan)
  else if !l.hasInf && l.hasNaN && e == 2 ^ l.eb - 1 && m == 2 ^ l.mb - 1 then .nan
  else if e = 0 then .fin neg m (1 - l.bias - l.mb)
  else .fin neg (2 ^ l.mb + m) ((e : Int) - l.bias - l.mb)

/-- A two's complement integer of `w` bits. -/
def intDecode (w v : Nat) : Int :=
  let x := v % 2 ^ w
  if 2 * x < 2 ^ w then (x : Int) else (x : Int) - (2 ^ w : Nat)

/-- The two's complement bits of an integer. -/
def intEncode (w : Nat) (i : Int) : Nat := (i % (2 ^ w : Nat)).toNat

/-- An integer as an exact value. -/
def FVal.ofInt (i : Int) : FVal := .fin (decide (i < 0)) i.natAbs 0

/-- Scale an exact value by a power of two. -/
def FVal.scale (x : FVal) (k : Int) : FVal :=
  match x with
  | .fin n m e => .fin n m (e + k)
  | y => y

/-! ### Rounding (R64 to R66) -/

/-- A rounding with its random word bits [31:16], where stochastic. -/
inductive RMode where
  | rne | rtz | sr (r : Nat)
  deriving DecidableEq, Repr

/-- Round the nonnegative rational num/den to an integer under RNE, RTZ or R66. -/
def roundRat (mode : RMode) (num den : Nat) : Nat :=
  let q := num / den
  let r := num % den
  match mode with
  | .rtz => q
  | .rne => if 2 * r > den ∨ (2 * r = den ∧ q % 2 = 1) then q + 1 else q
  | .sr w => if r * 2 ^ 16 / den + w ≥ 2 ^ 16 then q + 1 else q

/-- The numerator and denominator of m * 2^e. -/
def ratOf (m : Nat) (e : Int) : Nat × Nat :=
  if 0 ≤ e then (m * 2 ^ e.toNat, 1) else (m, 2 ^ (-e).toNat)

/-- num/den * 2^(-q) as a fraction. -/
def ratShift (num den : Nat) (q : Int) : Nat × Nat :=
  if 0 ≤ q then (num, den * 2 ^ q.toNat) else (num * 2 ^ (-q).toNat, den)

/-- floor(log2(num/den)) of a positive rational. -/
def ratLog2 (num den : Nat) : Int :=
  let l : Int := (num.log2 : Int) - den.log2
  let s := ratShift num den l
  if s.1 < s.2 then l - 1 else l

/-- The magnitude code of num/den rounded once to a layout, with the exponent unbounded above (R72):
the caller compares the code with `maxCode`. -/
def roundMagLay (l : FLay) (mode : RMode) (num den : Nat) : Nat :=
  if num = 0 then 0 else
  let ex := max (ratLog2 num den) (1 - l.bias)
  let q : Int := ex - l.mb
  let s := ratShift num den q
  let k := roundRat mode s.1 s.2
  -- k * 2^q; k < 2^mb only at the minimum exponent; k = 2^(mb+1) carries into the exponent
  ((ex + l.bias - 1).toNat * 2 ^ l.mb + k)

/-- An overflowing value of a floating-point target (R72). -/
def ovfLay (l : FLay) (rtz ovf : Bool) : Nat × Flags :=
  if !l.hasNaN then (l.maxCode, .onlySat)
  else if rtz then (l.maxCode, .onlySat)
  else if !ovf then (l.maxCode, .onlySat)
  else if l.hasInf then ((2 ^ l.eb - 1) * 2 ^ l.mb, .onlyOvf)
  else (l.nanCode, .onlyOvf)

/-- The sign bit of a layout. -/
def signLay (l : FLay) (neg : Bool) : Nat := if neg then 2 ^ (l.eb + l.mb) else 0

/-- Round num/den with a sign into a floating-point layout (R63 to R66, R72, R74). An E4M3 NaN code
(overflow with ovf = 1) carries no sign (Table 2.4). -/
def ratToLay (l : FLay) (mode : RMode) (ovf : Bool) (neg : Bool) (num den : Nat) : Nat × Flags :=
  let k := roundMagLay l mode num den
  if k > l.maxCode then
    let r := ovfLay l (mode == .rtz) ovf
    (if r.1 == l.nanCode && l.hasNaN then r.1 else r.1 + signLay l neg, r.2)
  else (k + signLay l neg, if k = 0 ∧ num ≠ 0 then .onlyUnf else .none)

/-- Convert an exact value into a floating-point layout (R72, R73, R74). -/
def toLay (l : FLay) (mode : RMode) (ovf : Bool) : FVal → Nat × Flags
  | .nan => if l.hasNaN then (l.nanCode, .none) else (0, .onlyInv)
  | .inf neg =>
    if l.hasInf && ovf then ((2 ^ l.eb - 1) * 2 ^ l.mb + signLay l neg, .none)
    else
      let r := ovfLay l (mode == .rtz) ovf
      (if r.1 == l.nanCode && l.hasNaN then r.1 else r.1 + signLay l neg, r.2)
  | .fin neg m e => let s := ratOf m e; ratToLay l mode ovf neg s.1 s.2

/-- Convert an exact value into a saturating integer of `w` bits (R64, R72, R73, R74). -/
def toInt (w : Nat) (mode : RMode) : FVal → Int × Flags
  | .nan => (0, .onlyInv)
  | .inf neg => (if neg then -(2 ^ (w - 1) : Nat) else (2 ^ (w - 1) : Nat) - 1, .onlySat)
  | .fin neg m e =>
    let s := ratOf m e
    let k := roundRat mode s.1 s.2
    if neg then
      if k > 2 ^ (w - 1) then (-(2 ^ (w - 1) : Nat), .onlySat)
      else (-(k : Int), if k = 0 ∧ m ≠ 0 then .onlyUnf else .none)
    else
      if k > 2 ^ (w - 1) - 1 then ((2 ^ (w - 1) : Nat) - 1, .onlySat)
      else ((k : Int), if k = 0 ∧ m ≠ 0 then .onlyUnf else .none)

/-! ### FP32 arithmetic, always RNE (R42), overflow to infinity as IEEE 754 -/

/-- The value of an FP32 encoding. -/
def f32 (v : Nat) : FVal := layDecode layFp32 v
/-- An exact value rounded to FP32 with RNE, IEEE overflow to infinity. -/
def toF32 (x : FVal) : Nat := (toLay layFp32 .rne true x).1
/-- The canonical FP32 NaN (Table 2.4). -/
def f32NaN : Nat := 0x7FC00000
/-- A signed rational rounded to FP32 with RNE. -/
def ratToF32 (neg : Bool) (num den : Nat) : Nat := (ratToLay layFp32 .rne true neg num den).1

/-- Sign of an exact value. -/
def FVal.neg? : FVal → Bool
  | .nan => false | .inf n => n | .fin n _ _ => n
/-- The value with its sign flipped. -/
def FVal.flip : FVal → FVal
  | .nan => .nan | .inf n => .inf !n | .fin n m e => .fin (!n) m e
/-- Whether the value is NaN. -/
def FVal.isNaN : FVal → Bool
  | .nan => true | _ => false
/-- Whether the value is infinite. -/
def FVal.isInf : FVal → Bool
  | .inf _ => true | _ => false
/-- Whether the value is a zero. -/
def FVal.isZero : FVal → Bool
  | .fin _ m _ => m == 0 | _ => false

/-- The signed numerator of a finite value over 2^(-e0), for an exponent e0 not above its own. -/
def FVal.numAt (x : FVal) (e0 : Int) : Int :=
  match x with
  | .fin n m e => let k := (m * 2 ^ (e - e0).toNat : Nat); if n then -(k : Int) else k
  | _ => 0

/-- Exact product, with the IEEE rules for specials (R45, R47). -/
def FVal.mul : FVal → FVal → FVal
  | .nan, _ => .nan
  | _, .nan => .nan
  | .inf a, .inf b => .inf (a != b)
  | .inf a, .fin b m _ => if m = 0 then .nan else .inf (a != b)
  | .fin a m _, .inf b => if m = 0 then .nan else .inf (a != b)
  | .fin a m e, .fin b n f => .fin (a != b) (m * n) (e + f)

/-- Exact sum, with the IEEE rules for specials and for the sign of a zero sum under RNE (R45). -/
def FVal.add : FVal → FVal → FVal
  | .nan, _ => .nan
  | _, .nan => .nan
  | .inf a, .inf b => if a = b then .inf a else .nan
  | .inf a, .fin _ _ _ => .inf a
  | .fin _ _ _, .inf b => .inf b
  | .fin a m e, .fin b n f =>
    let g := min e f
    let s := (FVal.fin a m e).numAt g + (FVal.fin b n f).numAt g
    if s = 0 then .fin (a && b && m == 0 && n == 0) 0 g
    else .fin (decide (s < 0)) s.natAbs g

/-- The exact sum of several values; a sum of negative zeros alone is -0 (R45). -/
def FVal.sum : List FVal → FVal
  | [] => .fin false 0 0
  | x :: xs => xs.foldl FVal.add x

/-- The order of two values that are no NaN, -0 below +0 (R47). -/
def FVal.lt (x y : FVal) : Bool :=
  match x, y with
  | .nan, _ => false
  | _, .nan => false
  | .inf a, .inf b => a && !b
  | .inf a, .fin _ _ _ => a
  | .fin _ _ _, .inf b => !b
  | .fin a m e, .fin b n f =>
    let g := min e f
    let p := (FVal.fin a m e).numAt g
    let q := (FVal.fin b n f).numAt g
    if p = q then a && !b else decide (p < q)

/-- Maximum with NaN propagation, -0 below +0 (R47). -/
def FVal.max (x y : FVal) : FVal := if x.isNaN || y.isNaN then .nan else if x.lt y then y else x
/-- Minimum with NaN propagation, -0 below +0 (R47). -/
def FVal.min (x y : FVal) : FVal := if x.isNaN || y.isNaN then .nan else if y.lt x then y else x

/-- FP32 addition. -/
def f32Add (a b : Nat) : Nat := toF32 ((f32 a).add (f32 b))
/-- FP32 subtraction. -/
def f32Sub (a b : Nat) : Nat := toF32 ((f32 a).add (f32 b).flip)
/-- FP32 multiplication. -/
def f32Mul (a b : Nat) : Nat := toF32 ((f32 a).mul (f32 b))
/-- FP32 fused multiply-add with one rounding. -/
def f32Fma (a b c : Nat) : Nat := toF32 (((f32 a).mul (f32 b)).add (f32 c))
/-- FP32 maximum. -/
def f32Max (a b : Nat) : Nat := toF32 ((f32 a).max (f32 b))
/-- FP32 minimum. -/
def f32Min (a b : Nat) : Nat := toF32 ((f32 a).min (f32 b))
/-- FP32 order. -/
def f32Lt (a b : Nat) : Bool := (f32 a).lt (f32 b)

/-- FP32 division, RNE, with the IEEE rules for specials. -/
def f32Div (a b : Nat) : Nat :=
  match f32 a, f32 b with
  | .nan, _ => f32NaN
  | _, .nan => f32NaN
  | .inf _, .inf _ => f32NaN
  | .inf x, .fin y _ _ => toF32 (.inf (x != y))
  | .fin x _ _, .inf y => toF32 (.fin (x != y) 0 0)
  | .fin x m e, .fin y n f =>
    if n = 0 then (if m = 0 then f32NaN else toF32 (.inf (x != y)))
    else let s := ratOf m (e - f); ratToF32 (x != y) s.1 (s.2 * n)

/-! ### Functions given by an error bound below 1 ulp

The spec gives the bound and not the value (R80, R91, R436): a choice between the FP32 value below and
the one above the exact result, the exact result itself where FP32 holds it. -/

/-- The FP32 code at or below a positive rational, and whether it is exact. -/
def f32Below (num den : Nat) : Nat × Bool :=
  let k := roundMagLay layFp32 .rtz num den
  match f32 k with
  | .fin _ m e => let s := ratOf m e; (k, s.1 * den == num * s.2)
  | _ => (k, true)

/-- The FP32 value below or above a positive rational, by a free choice; infinity past the largest finite value. -/
def f32Near (up : Bool) (num den : Nat) : Nat :=
  let b := f32Below num den
  min (if b.2 || !up then b.1 else b.1 + 1) 0x7F800000

/-- Fixed-point precision of the elementary functions below. -/
def fixBits : Nat := 160

/-- ln 2 scaled by 2^160, rounded down. -/
def ln2Fix : Nat :=
  -- 2 * atanh(1/3) = 2 * sum over k of (1/3)^(2k+1) / (2k+1)
  (loopN 60 ((0 : Nat), 2 ^ 176 / 3) fun k p => (p.1 + p.2 / (2 * k + 1), p.2 / 9)).1 * 2 / 2 ^ 16

/-- 2^f scaled by 2^160 for a fraction f scaled by 2^160. -/
def exp2FracFix (f : Nat) : Nat :=
  let t := f * ln2Fix / 2 ^ fixBits
  (loopN 60 ((0 : Nat), 2 ^ fixBits) fun k p => (p.1 + p.2, p.2 * t / (2 ^ fixBits * (k + 1)))).1

/-- 2^(x / 2^160) as an FP32 value with an error below 1 ulp, the side by `up`; x is a scaled exponent. -/
def exp2OfFix (up : Bool) (x : Int) : Nat :=
  let n := x / ((2 ^ fixBits : Nat) : Int)
  let f := (x % ((2 ^ fixBits : Nat) : Int)).toNat
  if n ≥ 128 then 0x7F800000
  else if n < -151 then b2n up
  else
    let s := ratOf (exp2FracFix f) (n - fixBits)
    f32Near up s.1 s.2

/-- A finite value scaled by 2^160 (rounded toward minus infinity), clamped to 2^20 in magnitude. -/
def toFix (x : FVal) : Int :=
  match x with
  | .fin n m e =>
    let s := ratOf m (e + fixBits)
    let k : Nat := min (s.1 / s.2) (2 ^ (fixBits + 20))
    if n then -((if k * s.2 = s.1 ∨ k = 2 ^ (fixBits + 20) then k else k + 1 : Nat) : Int) else (k : Int)
  | _ => 0

/-- FP32 two to the power x, with IEEE specials (R91). A nonzero x too small for the scaled form has its result just
above 1. -/
def f32Exp2 (up : Nat → Bool) (a : Nat) : Nat :=
  match f32 a with
  | .nan => f32NaN
  | .inf n => if n then 0 else 0x7F800000
  | .fin n m e =>
    let x := toFix (.fin n m e)
    if x = 0 then 0x3F800000 + b2n (m != 0 && up a) else exp2OfFix (up a) x

/-- FP32 e to the power x, with IEEE specials (R80, R436). -/
def f32Exp (up : Nat → Bool) (a : Nat) : Nat :=
  match f32 a with
  | .nan => f32NaN
  | .inf n => if n then 0 else 0x7F800000
  | .fin n m e =>
    let x := toFix (.fin n m e) * ((2 ^ fixBits : Nat) : Int) / (ln2Fix : Int)
    if x = 0 then 0x3F800000 + b2n (m != 0 && up a) else exp2OfFix (up a) x

/-- FP32 reciprocal with an error below 1 ulp (R91): ±0 gives ±infinity, ±infinity gives ±0. -/
def f32Recip (up : Nat → Bool) (a : Nat) : Nat :=
  match f32 a with
  | .nan => f32NaN
  | .inf n => signLay layFp32 n
  | .fin n m e =>
    if m = 0 then 0x7F800000 + signLay layFp32 n
    else
      let s := ratOf m e
      f32Near (up a) s.2 s.1 + signLay layFp32 n

/-- FP32 reciprocal square root of a positive rational, with an error below 1 ulp. -/
def ratRsqrt (up : Bool) (num den : Nat) : Nat :=
  -- sqrt(den/num) to 200 bits: isqrt(den * 4^k / num) / 2^k, k large enough for both
  let k := num.log2 + 100
  let v := den * 4 ^ k / num
  let r := isqrt v
  let ex := r * r == v && den * 4 ^ k % num == 0
  -- scaled by two with an odd last bit where inexact, so that the neighbours are those of the root
  if ex then f32Near up r (2 ^ k) else f32Near up (2 * r + 1) (2 ^ (k + 1))

/-- FP32 reciprocal square root (R91): ±0 gives ±infinity, a negative value NaN, +infinity +0. -/
def f32Rsqrt (up : Nat → Bool) (a : Nat) : Nat :=
  match f32 a with
  | .nan => f32NaN
  | .inf n => if n then f32NaN else 0
  | .fin n m e =>
    if m = 0 then 0x7F800000 + signLay layFp32 n
    else if n then f32NaN
    else let s := ratOf m e; ratRsqrt (up a) s.1 s.2

/-- FP32 natural logarithm of a positive finite value, with an error below 1 ulp (R436). -/
def f32Ln (up : Nat → Bool) (a : Nat) : Nat :=
  match f32 a with
  | .nan => f32NaN
  | .inf n => if n then f32NaN else 0x7F800000
  | .fin n m e =>
    if m = 0 then 0xFF800000
    else if n then f32NaN
    else
      let l := m.log2
      -- x = z * 2^(e+l), z in [1,2); ln z = 2 atanh((z-1)/(z+1))
      let r := (m - 2 ^ l) * 2 ^ fixBits / (m + 2 ^ l)
      let at2 := (loopN 60 ((0 : Nat), r) fun k p =>
        (p.1 + p.2 / (2 * k + 1), p.2 * r / 2 ^ fixBits * r / 2 ^ fixBits)).1 * 2
      let v : Int := (at2 : Int) + (e + l) * (ln2Fix : Int)
      if v = 0 then 0
      else if v < 0 then 0x80000000 + f32Near (up a) v.natAbs (2 ^ fixBits)
      else f32Near (up a) v.natAbs (2 ^ fixBits)

/-! ### Decoding an element (R43, R54, R55, R59 to R61) -/

/-- The value of an E8M0 scale byte (R54). -/
def scaleE8M0 (s : Nat) : FVal := if s % 256 = 0xFF then .nan else .fin false 1 ((s % 256 : Nat) - 127)

/-- The value of an element code of format `c`, for a block format times its scale byte, with RSV for the
reserved BS3 code. -/
def elemDecode (c : Nat) (elem : Bool) (v scale : Nat) : FVal × Flags :=
  match c with
  | 0x02 => (layDecode layFp19 (v >>> 13), .none)
  | 0x0A => (.ofInt (intDecode 32 v), .none)
  | 0x0B => (.ofInt (intDecode 16 v), .none)
  | 0x0C => (.ofInt (intDecode 8 v), .none)
  | 0x0D => (.ofInt (intDecode 4 v), .none)
  | 0x11 => ((FVal.ofInt (intDecode 8 v)).scale (-6) |>.mul (scaleE8M0 scale), .none)
  | 0x12 =>
    let s := layDecode layE4M3 (scale % 256)
    let q := v % 8
    let fl := if q = 4 then Flags.onlyRsv else .none
    let x := FVal.fin (bitAt q 2 && q != 4) (q % 4) 0
    (match s with
     | .nan => .nan
     -- no BS3 element is a negative zero: a zero element or scale decodes as 0 (R60, R61)
     | s => match x.mul s with
            | .fin n m e => .fin (n && m != 0) m e
            | y => y, fl)
  | c =>
    match layOf c elem with
    | none => (.nan, .none)
    | some l =>
      let x := layDecode l v
      (if isBlock c then x.mul (scaleE8M0 scale) else x, .none)

/-! ### Conversion from an exact value into a scalar format -/

/-- An exact value into the scalar format `c` (R63 to R66, R72 to R74, R85), as its stored bits. -/
def toScalar (c : Nat) (mode : RMode) (ovf : Bool) (x : FVal) : Nat × Flags :=
  if isInt c then
    let r := toInt (elemBits c) mode x
    (intEncode (elemBits c) r.1, r.2)
  else if c = 0x02 then
    let r := toLay layFp19 mode ovf x
    (r.1 * 2 ^ 13, r.2)
  else
    match layOf c false with
    | some l => toLay l mode ovf x
    | none => (0, .none)

/-! ### Philox-4x32-10 (R67) -/

/-- One Philox round. -/
def philoxRound (c : Nat × Nat × Nat × Nat) (k : Nat × Nat) : Nat × Nat × Nat × Nat :=
  let p0 := 0xD2511F53 * c.1
  let p1 := 0xCD9E8D57 * c.2.2.1
  (Nat.xor (Nat.xor (p1 / 2 ^ 32) c.2.1) k.1, p1 % 2 ^ 32,
   Nat.xor (Nat.xor (p0 / 2 ^ 32) c.2.2.2) k.2, p0 % 2 ^ 32)

/-- Philox-4x32-10 of a counter (c0, c1, c2, c3) and a key (k0, k1). -/
def philox (c : Nat × Nat × Nat × Nat) (k : Nat × Nat) : Nat × Nat × Nat × Nat :=
  (loopN 10 (c, k) fun _ s =>
    (philoxRound s.1 s.2, ((s.2.1 + 0x9E3779B9) % 2 ^ 32, (s.2.2 + 0xBB67AE85) % 2 ^ 32))).1

/-- Word `i` of a Philox output. -/
def philoxWord (o : Nat × Nat × Nat × Nat) (i : Nat) : Nat :=
  match i with
  | 0 => o.1 | 1 => o.2.1 | 2 => o.2.2.1 | _ => o.2.2.2

/-- The random word for stochastic rounding of element i (R67). -/
def roundWord (seed seq tag i : Nat) : Nat :=
  let q := i / 4
  philoxWord (philox (q % 2 ^ 32, q / 2 ^ 32 % 2 ^ 32, tag % 2 ^ 32, seq % 2 ^ 32)
    (seed % 2 ^ 32, seed / 2 ^ 32 % 2 ^ 32)) (i % 4)

/-- The rounding of a descriptor for element i under a seed, sequence word and tensor tag (R66, R67). -/
def modeFor (r : Round) (seed seq tag i : Nat) : RMode :=
  match r with
  | .rne => .rne
  | .rtz => .rtz
  | .stochastic => .sr (roundWord seed seq tag i / 2 ^ 16)

/-- The rounding of a conversion into a format: into FP32 always to nearest even (Table 2.8). -/
def convRound (code : Nat) (r : Round) : Round := if code = 0x01 then .rne else r

/-! ### Block encoders (R56, R57, R62, R69) -/

/-- emax of an MX element type (R56). -/
def mxEmax (c : Nat) (elem : Bool) : Int :=
  match c with
  | 0x0E => if elem then 15 else 8
  | 0x0F => if elem then 2 else 4
  | 0x10 => 2
  | _ => 0

/-- The largest finite FP32 magnitude with a sign. -/
def f32Largest (neg : Bool) : FVal := .fin neg (2 ^ 24 - 1) 104

/-- Replace an infinity by the largest finite FP32 value and report SAT (R57). -/
def finiteOf (x : FVal) : FVal × Flags :=
  match x with
  | .inf n => (f32Largest n, .onlySat)
  | y => (y, .none)

/-- The larger of two nonnegative dyadic magnitudes. -/
def magMax (a b : Nat × Int) : Nat × Int :=
  let g := min a.2 b.2
  if a.1 * 2 ^ (a.2 - g).toNat < b.1 * 2 ^ (b.2 - g).toNat then b else a

/-- amax of a block (R56, R62). -/
def blockAmax (xs : List FVal) : Nat × Int :=
  xs.foldl (fun a x => match x with | .fin _ m e => magMax a (m, e) | _ => a) (0, 0)

/-- Encode one element value x/2^X of an MX block: the element saturates (R56, R58, R72). -/
def mxElem (c : Nat) (elem : Bool) (mode : RMode) (x : FVal) : Nat × Flags :=
  if c = 0x11 then
    let r := toInt 8 mode (x.scale 6)
    (intEncode 8 r.1, r.2)
  else
    match layOf c elem with
    | some l => toLay l mode false x
    | none => (0, .none)

/-- Encode an MX block: scale byte, element codes, flags (R56, R57). Element k is rounded under
`mode k`. -/
def mxEncode (c : Nat) (elem : Bool) (mode : Nat → RMode) (xs : List FVal) : Nat × List Nat × Flags :=
  if xs.any FVal.isNaN then (0xFF, xs.map fun _ => 0, .none)
  else
    let ys := xs.map finiteOf
    let fl0 := ys.foldl (fun f y => f.or y.2) Flags.none
    let vs := ys.map (·.1)
    let a := blockAmax vs
    let bigX : Int := if a.1 = 0 then -127 else max (-127) (min 127 ((a.1.log2 : Int) + a.2 - mxEmax c elem))
    let es := vs.mapIdx fun k v => mxElem c elem (mode k) (v.scale (-bigX))
    ((bigX + 127).toNat, es.map (·.1), es.foldl (fun f y => f.or y.2) fl0)

/-- The scale code of a BS3 block: the smallest positive E4M3 value not less than amax/3, or 448 (R62). -/
def bs3Scale (a : Nat × Int) : Nat :=
  ((List.range 0x7F).find? fun k =>
    k ≠ 0 && (match layDecode layE4M3 k with
      | .fin _ m e =>
        let g := min e a.2
        decide (a.1 * 2 ^ (a.2 - g).toNat ≤ 3 * m * 2 ^ (e - g).toNat)
      | _ => false)).getD 0x7E

/-- Encode one BS3 element x/s (R62, R64, R72, R74): no negative zero. -/
def bs3Elem (mode : RMode) (s : Nat) (x : FVal) : Nat × Flags :=
  match x, layDecode layE4M3 s with
  | .fin neg m e, .fin _ ms es =>
    let q := ratOf m (e - es)
    let k := roundRat mode q.1 (q.2 * ms)
    if k > 3 then (3 + (if neg then 4 else 0), .onlySat)
    else if k = 0 then (0, if m = 0 then .none else .onlyUnf)
    else (k + (if neg then 4 else 0), .none)
  | _, _ => (0, .none)

/-- Encode a BS3 block: scale byte, element codes, flags (R57, R62). -/
def bs3Encode (mode : Nat → RMode) (xs : List FVal) : Nat × List Nat × Flags :=
  if xs.any FVal.isNaN then (0x7F, xs.map fun _ => 0, .none)
  else
    let ys := xs.map finiteOf
    let fl0 := ys.foldl (fun f y => f.or y.2) Flags.none
    let vs := ys.map (·.1)
    let a := blockAmax vs
    if a.1 = 0 then (0, xs.map fun _ => 0, fl0)
    else
      let s := bs3Scale a
      let es := vs.mapIdx fun k v => bs3Elem (mode k) s v
      (s, es.map (·.1), es.foldl (fun f y => f.or y.2) fl0)

/-- Encode a block of a block format. -/
def blockEncode (c : Nat) (elem : Bool) (mode : Nat → RMode) (xs : List FVal) : Nat × List Nat × Flags :=
  if c = 0x12 then bs3Encode mode xs else mxEncode c elem mode xs

/-! ### Two-step conversion (R63, Table 2.8) -/

/-- Whether the conversion of Table 2.8 from one format to another is direct: out of or into FP32, and
the integer rows; INT32 into itself is no conversion. -/
def directPath (a b : Nat) : Bool :=
  a == 0x01 || b == 0x01 || (a == 0x0A && b == 0x0A) ||
  (a == 0x0A && (b == 0x0B || b == 0x0C)) ||
  ((a == 0x0B || a == 0x0C || a == 0x0D) && b == 0x0A)

/-- The value that enters the rounding into the destination: the source's own on a direct path, else its
FP32 image (RNE, overflow by the destination's ovf field), R63. -/
def viaFp32 (src dst : Nat) (ovf : Bool) (x : FVal) : FVal × Flags :=
  if directPath src dst then (x, .none)
  else
    let r := toLay layFp32 .rne ovf x
    (f32 r.1, r.2)

/-! ### The widener (R81 to R83) and query narrowing (R84) -/

/-- The working form of a stored format: 3 BF16, 4 FP16, 0x0B INT16; none where the widener does not read
it (Table 2.7). -/
def workForm (c : Nat) (wide : Bool) : Option Nat :=
  if c = 0x03 ∨ c = 0x04 ∨ c = 0x0B then some c
  else if c = 0x0C ∨ c = 0x0D then some 0x0B
  else if (5 ≤ c ∧ c ≤ 9) ∨ (0x0E ≤ c ∧ c ≤ 0x12) then some (if wide then 0x04 else 0x03)
  else none

/-- Widen a stored element into its 16-bit working form (R81, R82). DESIGN CHOICE: an MX product that lies below the working
form's smallest subnormal but above half of it is rounded up to that subnormal and sets no UNF; R81 says both that the product
is rounded once and that a nonzero result below the smallest subnormal becomes zero. -/
def widenElem (c : Nat) (elem wide : Bool) (v scale : Nat) : Nat × Flags :=
  match workForm c wide with
  | none => (0, .none)
  | some w =>
    if c = w then
      -- BF16, FP16 and INT16 keep their own form; a NaN is read as the canonical one (R82)
      match layOf c false with
      | some l => if (layDecode l v).isNaN then (l.nanCode, .none) else (v % 2 ^ 16, .none)
      | none => (v % 2 ^ 16, .none)
    else
      let x := elemDecode c elem v scale
      match x.1 with
      | .inf n => (toLay (if w = 4 then layFp16 else layBf16) .rne true (.inf n) |>.1, x.2)
      | y => let r := toScalar w .rne false y; (r.1, r.2.or x.2)

/-- Narrow an FP32 or FP19 query to BF16 (R84): RNE, saturating, NRW set. -/
def narrowQuery (v : Nat) : Nat × Flags :=
  let r := toLay layBf16 .rne false (f32 v)
  (r.1, r.2.or .onlyNrw)

end Sys2Proof.Machine
end

