-- ==== Sys2Proof/Machine/Operands.lean ====
section
/-!
DEFINITION. The operand forms: the slots of a trowel micro-instruction (Tables 6.5, 6.6 and 6.8), and the
header, steps and bindings of a recipe (Tables 3.3, 3.4 and 3.7), with what is reserved in them.
-/
namespace Sys2Proof.Machine

/-- A signed field of `w` bits. -/
def signedOf (w v : Nat) : Int := intDecode w v

/-- A pointer register plus a signed amount, modulo 2^16. -/
def addPtr (p : Nat) (d : Int) : Nat := ((p + d) % 65536).toNat

/-! ### Trowel micro-instructions (Table 6.5) -/

/-- X slot operation. -/
def uXop (w : Nat) : Nat := bitsOf w 58 6
/-- Bits [lo+n-1 : lo] of xarg. -/
def uX (w lo n : Nat) : Nat := bitsOf w (40 + lo) n
/-- W slot operation. -/
def uWop (w : Nat) : Nat := bitsOf w 38 2
/-- WIDEN part. -/
def uPart (w : Nat) : Nat := bitsOf w 36 2
/-- WIDEN scale pointer register. -/
def uScale (w : Nat) : Nat := bitsOf w 32 4
/-- C slot operation. -/
def uCop (w : Nat) : Nat := bitsOf w 27 5
/-- C slot accumulator a. -/
def uA (w : Nat) : Nat := bitsOf w 23 4
/-- C slot operand register q. -/
def uQ (w : Nat) : Nat := bitsOf w 20 3
/-- C slot accumulator b. -/
def uB (w : Nat) : Nat := bitsOf w 19 4

/-- The xarg bits that Table 6.6 does not name for an operation. -/
def xReserved (op : Nat) : Nat :=
  match op with
  | 0x00 => 0x3FFFF
  | 0x01 => 0x01F00
  | 0x02 => 0x007FF
  | 0x03 => 0x001FF
  | 0x04 => 0x0000F
  | 0x05 => 0x00FFF
  | 0x06 => 0x3FFFF
  | 0x08 => 0x003FF
  | 0x09 => 0
  | 0x0A => 0x03F00
  | _ => 0

/-- Whether an instruction holds a reserved code in any slot (Tables 6.5 to 6.7): a reserved xop, nonzero
unnamed xarg bits, an unnamed h or src value, a reserved wop or a reserved cop. -/
def uReserved (w : Nat) : Bool :=
  let op := uXop w
  !(decide (op ≤ 6) || decide (8 ≤ op) && decide (op ≤ 0x0A))
    || (uX w 0 18 &&& xReserved op) != 0
    || (op == 0x02 && uX w 11 2 == 3)
    || (op == 0x03 && uX w 16 2 == 3)
    || decide (2 ≤ uWop w)
    || decide (8 < uCop w)

/-- Bytes per W of a stored format (Table 6.10). -/
def wBytes (c : Nat) : Nat := 64 * elemBits c / 8
/-- Scales per W (Table 6.10). -/
def wScales (c : Nat) : Nat := if isBlock c then 64 / blockLen c else 0
/-- Whether a part is valid for a stored format (Table 6.10). -/
def partOk (c k : Nat) : Bool :=
  let n := wBytes c
  if n = 128 then k == 0 else if n = 64 ∨ n = 48 then decide (k ≤ 1) else true

/-- Formats a trowel stores (Table 2.7). -/
def trowelStoreOk (c : Nat) : Bool :=
  c == 1 || c == 3 || c == 4 || c == 5 || c == 6 || c == 0x0A || c == 0x0B || c == 0x0C
/-- Formats of LOADQ sources (R217): FP32, FP19, BF16, FP16, INT16, INT8. -/
def trowelQueryOk (c : Nat) : Bool := c == 1 || c == 2 || c == 3 || c == 4 || c == 0x0B || c == 0x0C
/-- Formats of a reducer slot (R259): FP32, BF16, FP16, INT32. -/
def reducerSlotOk (c : Nat) : Bool := c == 1 || c == 3 || c == 4 || c == 0x0A

/-! ### Recipe words (Tables 3.3 and 3.4) -/

/-- A field of a recipe word's header. -/
def hdr (w : BitVec 512) (lo n : Nat) : Nat := bitsOf w.toNat lo n
/-- ctx_en. -/
def rCtxEn (w : BitVec 512) : Nat := hdr w 496 16
/-- fmt_a. -/
def rFmtA (w : BitVec 512) : Nat := hdr w 480 16
/-- fmt_b. -/
def rFmtB (w : BitVec 512) : Nat := hdr w 464 16
/-- fmt_out. -/
def rFmtOut (w : BitVec 512) : Nat := hdr w 448 16
/-- trip. -/
def rTrip (w : BitVec 512) : Nat := hdr w 428 20
/-- Steps of a pass. -/
def rSteps (w : BitVec 512) : Nat := hdr w 426 2 + 1
/-- edge_w. -/
def rEdgeW (w : BitVec 512) : Nat := hdr w 424 2
/-- edge_n. -/
def rEdgeN (w : BitVec 512) : Nat := hdr w 422 2
/-- The 96 bits of step s. -/
def rStep (w : BitVec 512) (s : Nat) : Nat := hdr w (96 * s) 96

/-- op. -/
def sOp (x : Nat) : Nat := bitsOf x 90 6
/-- dst. -/
def sDst (x : Nat) : Nat := bitsOf x 85 5
/-- sa. -/
def sSa (x : Nat) : Nat := bitsOf x 80 5
/-- sb. -/
def sSb (x : Nat) : Nat := bitsOf x 75 5
/-- sc. -/
def sSc (x : Nat) : Nat := bitsOf x 70 5
/-- asel. -/
def sAsel (x : Nat) : Nat := bitsOf x 67 3
/-- bsel. -/
def sBsel (x : Nat) : Nat := bitsOf x 64 3
/-- A bit of send: 3 A east, 2 B south, 1 result east, 0 result south. -/
def sSend (x i : Nat) : Bool := bitAt x (60 + i)
/-- bus. -/
def sBus (x : Nat) : Nat := bitsOf x 58 2
/-- bind_a. -/
def sBindA (x : Nat) : Nat := bitsOf x 55 3
/-- bind_b. -/
def sBindB (x : Nat) : Nat := bitsOf x 52 3
/-- aop. -/
def sAop (x : Nat) : Nat := bitsOf x 47 5
/-- fscope. -/
def sFscope (x : Nat) : Nat := bitsOf x 45 2
/-- fkind. -/
def sFkind (x : Nat) : Nat := bitsOf x 43 2
/-- imm. -/
def sImm (x : Nat) : Nat := bitsOf x 27 16

/-! ### Binding descriptors (Table 3.7) -/

/-- A field of a binding. -/
def bField (b : BitVec 256) (lo n : Nat) : Nat := bitsOf b.toNat lo n
/-- kind: 0 NONE, 1 SCRATCH, 2 PREFETCH, 3 DRAIN, 4 SCREED. -/
def bKind (b : BitVec 256) : Nat := bField b 252 4
/-- hint. -/
def bHint (b : BitVec 256) : Hint :=
  match bField b 250 2 with | 0 => .normal | 1 => .stream | 2 => .keep | _ => .last
/-- tag. -/
def bTag (b : BitVec 256) : Nat := bField b 192 32
/-- dpa. -/
def bDpa (b : BitVec 256) : Nat := bField b 152 40
/-- sbase, in bytes. -/
def bBase (b : BitVec 256) : Nat := bField b 136 16 * 64
/-- slen, in bytes. -/
def bLen (b : BitVec 256) : Nat := bField b 120 16 * 64

/-- The offset in the window (R112). -/
def bOffset (b : BitVec 256) (i j c t imm : Nat) : Nat :=
  let sum : Int := i * signedOf 20 (bField b 100 20) + j * signedOf 20 (bField b 80 20)
    + c * signedOf 20 (bField b 60 20) + t * signedOf 20 (bField b 40 20) + imm
  if bLen b = 0 then 0 else (sum % (bLen b : Int)).toNat

end Sys2Proof.Machine
end

