-- ==== Sys2Proof/Machine/RegTable.lean ====
section
/-!
DEFINITION. The register map: every register of the spec's register tables with its offset, instances,
fields, access codes and reset values (R11, R13, R14), and its address: a PF BAR0 offset (Table 13.4) or,
for STK_, TRW_ and reducer registers, a control-space DPA (Table 5.3).
-/
namespace Sys2Proof.Machine

/-- Access codes (Table 0.2). -/
inductive Acc where
  | ro | rw | wo | w1c | w1s
  deriving DecidableEq, Repr

/-- A register field: bits [hi:lo], access code and reset value. -/
structure RField where
  hi : Nat
  lo : Nat
  acc : Acc
  reset : Nat
  deriving DecidableEq, Repr

/-- A register: name, offset in its block, number of instances, their stride, and its fields; bits in no
field are reserved. -/
structure RegDef where
  name : String
  off : Nat
  n : Nat
  stride : Nat
  fields : List RField
  deriving DecidableEq, Repr

/-! ### Addresses -/

/-- The base of stack k's control-space window (R183). -/
def stackBase (k : Nat) : Nat := 0xF000000000 + 0x100000000 * k
/-- The base of trowel t's block in stack k's window (Table 5.3). -/
def trowelBase (k t : Nat) : Nat := 0xF001000000 + 0x100000000 * k + 0x1000 * t
/-- The base of the stack reducer's registers (Table 5.3). -/
def reducerBase (k : Nat) : Nat := 0xF002000000 + 0x100000000 * k

/-- ARY_ID (Table 3.10). -/
def Reg.ARY_ID (die : Nat) : Nat := 0x200000 + die * 0x10000
/-- ARY_CTRL (Table 3.10). -/
def Reg.ARY_CTRL (die : Nat) : Nat := 0x200008 + die * 0x10000
/-- ARY_WDOG_LIMIT (Table 3.10). -/
def Reg.ARY_WDOG_LIMIT (die : Nat) : Nat := 0x200010 + die * 0x10000
/-- ARY_ECC_CNT (Table 3.10). -/
def Reg.ARY_ECC_CNT (die : Nat) : Nat := 0x200018 + die * 0x10000
/-- ARY_ERR_0 (Table 3.10). -/
def Reg.ARY_ERR_0 (die : Nat) : Nat := 0x200020 + die * 0x10000
/-- ARY_ERR_1 (Table 3.10). -/
def Reg.ARY_ERR_1 (die : Nat) : Nat := 0x200028 + die * 0x10000
/-- ARY_STATUS_n (Table 3.10). -/
def Reg.ARY_STATUS (die i : Nat) : Nat := 0x201000 + die * 0x10000 + 0x40 * i
/-- ARY_CFGBUF_n (Table 3.10). -/
def Reg.ARY_CFGBUF (die i : Nat) : Nat := 0x201008 + die * 0x10000 + 0x40 * i
/-- ARY_TILE_n (Table 3.10). -/
def Reg.ARY_TILE (die i : Nat) : Nat := 0x201010 + die * 0x10000 + 0x40 * i
/-- ARY_FLAGS_n (Table 3.10). -/
def Reg.ARY_FLAGS (die i : Nat) : Nat := 0x201018 + die * 0x10000 + 0x40 * i
/-- ARY_ISSUE_n (Table 3.10). -/
def Reg.ARY_ISSUE (die i : Nat) : Nat := 0x201020 + die * 0x10000 + 0x40 * i
/-- ARY_BUBBLE_n (Table 3.10). -/
def Reg.ARY_BUBBLE (die i : Nat) : Nat := 0x201028 + die * 0x10000 + 0x40 * i
/-- ARY_STALL_n (Table 3.10). -/
def Reg.ARY_STALL (die i : Nat) : Nat := 0x201030 + die * 0x10000 + 0x40 * i
/-- ARY_WDOG_n (Table 3.10). -/
def Reg.ARY_WDOG (die i : Nat) : Nat := 0x201038 + die * 0x10000 + 0x40 * i
/-- SCD_ID (Table 4.7). -/
def Reg.SCD_ID (die : Nat) : Nat := 0x220000 + die * 0x10000
/-- SCD_CTRL (Table 4.7). -/
def Reg.SCD_CTRL (die : Nat) : Nat := 0x220008 + die * 0x10000
/-- SCD_MAINT (Table 4.7). -/
def Reg.SCD_MAINT (die : Nat) : Nat := 0x220010 + die * 0x10000
/-- SCD_MAINT_RANGE (Table 4.7). -/
def Reg.SCD_MAINT_RANGE (die : Nat) : Nat := 0x220018 + die * 0x10000
/-- SCD_MAINT_STATUS (Table 4.7). -/
def Reg.SCD_MAINT_STATUS (die : Nat) : Nat := 0x220020 + die * 0x10000
/-- SCD_ECC_CNT (Table 4.7). -/
def Reg.SCD_ECC_CNT (die : Nat) : Nat := 0x220028 + die * 0x10000
/-- SCD_ERR (Table 4.7). -/
def Reg.SCD_ERR (die : Nat) : Nat := 0x220030 + die * 0x10000
/-- SCD_SLICE_STATUS_s (Table 4.7). -/
def Reg.SCD_SLICE_STATUS (die i : Nat) : Nat := 0x221000 + die * 0x10000 + 0x40 * i
/-- SCD_HIT_s (Table 4.7). -/
def Reg.SCD_HIT (die i : Nat) : Nat := 0x221008 + die * 0x10000 + 0x40 * i
/-- SCD_MISS_s (Table 4.7). -/
def Reg.SCD_MISS (die i : Nat) : Nat := 0x221010 + die * 0x10000 + 0x40 * i
/-- SCD_WB_s (Table 4.7). -/
def Reg.SCD_WB (die i : Nat) : Nat := 0x221018 + die * 0x10000 + 0x40 * i
/-- SCD_LAST_DISCARD_s (Table 4.7). -/
def Reg.SCD_LAST_DISCARD (die i : Nat) : Nat := 0x221020 + die * 0x10000 + 0x40 * i
/-- SCD_ATOM_s (Table 4.7). -/
def Reg.SCD_ATOM (die i : Nat) : Nat := 0x221028 + die * 0x10000 + 0x40 * i
/-- SCD_BP_s (Table 4.7). -/
def Reg.SCD_BP (die i : Nat) : Nat := 0x221030 + die * 0x10000 + 0x40 * i
/-- SKM_ID (Table 4.11). -/
def Reg.SKM_ID (die : Nat) : Nat := 0x240000 + die * 0x10000
/-- SKM_CTRL (Table 4.11). -/
def Reg.SKM_CTRL (die : Nat) : Nat := 0x240008 + die * 0x10000
/-- SKM_ERR (Table 4.11). -/
def Reg.SKM_ERR (die : Nat) : Nat := 0x240010 + die * 0x10000
/-- SKM_FRONT_s (Table 4.11). -/
def Reg.SKM_FRONT (die i : Nat) : Nat := 0x241000 + die * 0x10000 + 0x20 * i
/-- SKM_READ_s (Table 4.11). -/
def Reg.SKM_READ (die i : Nat) : Nat := 0x241008 + die * 0x10000 + 0x20 * i
/-- SKM_WRITE_s (Table 4.11). -/
def Reg.SKM_WRITE (die i : Nat) : Nat := 0x241010 + die * 0x10000 + 0x20 * i
/-- SKM_BP_s (Table 4.11). -/
def Reg.SKM_BP (die i : Nat) : Nat := 0x241018 + die * 0x10000 + 0x20 * i
/-- SKM_CHAN_k (Table 4.11). -/
def Reg.SKM_CHAN (die i : Nat) : Nat := 0x242000 + die * 0x10000 + 0x8 * i
/-- STK_ID (Table 5.8). -/
def Reg.STK_ID (k : Nat) : Nat := stackBase k + 0x0
/-- STK_CTRL (Table 5.8). -/
def Reg.STK_CTRL (k : Nat) : Nat := stackBase k + 0x8
/-- STK_CONFIG (Table 5.8). -/
def Reg.STK_CONFIG (k : Nat) : Nat := stackBase k + 0x10
/-- STK_STATUS (Table 5.8). -/
def Reg.STK_STATUS (k : Nat) : Nat := stackBase k + 0x18
/-- STK_REFRESH (Table 5.8). -/
def Reg.STK_REFRESH (k : Nat) : Nat := stackBase k + 0x20
/-- STK_SCRUB_CTRL (Table 5.8). -/
def Reg.STK_SCRUB_CTRL (k : Nat) : Nat := stackBase k + 0x28
/-- STK_SCRUB_STATUS (Table 5.8). -/
def Reg.STK_SCRUB_STATUS (k : Nat) : Nat := stackBase k + 0x30
/-- STK_CE_CNT (Table 5.8). -/
def Reg.STK_CE_CNT (k : Nat) : Nat := stackBase k + 0x38
/-- STK_UE_CNT (Table 5.8). -/
def Reg.STK_UE_CNT (k : Nat) : Nat := stackBase k + 0x40
/-- STK_LAST_UE (Table 5.8). -/
def Reg.STK_LAST_UE (k : Nat) : Nat := stackBase k + 0x48
/-- STK_MERGE (Table 5.8). -/
def Reg.STK_MERGE (k : Nat) : Nat := stackBase k + 0x50
/-- STK_RETIRED (Table 5.8). -/
def Reg.STK_RETIRED (k : Nat) : Nat := stackBase k + 0x58
/-- STK_ERR (Table 5.8). -/
def Reg.STK_ERR (k : Nat) : Nat := stackBase k + 0x60
/-- TRW_ID (Table 6.3). -/
def Reg.TRW_ID (k t : Nat) : Nat := trowelBase k t + 0x0
/-- TRW_CTRL (Table 6.3). -/
def Reg.TRW_CTRL (k t : Nat) : Nat := trowelBase k t + 0x4
/-- TRW_STATUS (Table 6.3). -/
def Reg.TRW_STATUS (k t : Nat) : Nat := trowelBase k t + 0x8
/-- TRW_SPAN (Table 6.3). -/
def Reg.TRW_SPAN (k t : Nat) : Nat := trowelBase k t + 0xc
/-- TRW_FMT (Table 6.3). -/
def Reg.TRW_FMT (k t : Nat) : Nat := trowelBase k t + 0x10
/-- TRW_QFMT (Table 6.3). -/
def Reg.TRW_QFMT (k t : Nat) : Nat := trowelBase k t + 0x14
/-- TRW_SEED_LO (Table 6.3). -/
def Reg.TRW_SEED_LO (k t : Nat) : Nat := trowelBase k t + 0x18
/-- TRW_SEED_HI (Table 6.3). -/
def Reg.TRW_SEED_HI (k t : Nat) : Nat := trowelBase k t + 0x1c
/-- TRW_SEQ (Table 6.3). -/
def Reg.TRW_SEQ (k t : Nat) : Nat := trowelBase k t + 0x20
/-- TRW_TAG (Table 6.3). -/
def Reg.TRW_TAG (k t : Nat) : Nat := trowelBase k t + 0x24
/-- TRW_FLAGS (Table 6.3). -/
def Reg.TRW_FLAGS (k t : Nat) : Nat := trowelBase k t + 0x28
/-- TRW_ERR (Table 6.3). -/
def Reg.TRW_ERR (k t : Nat) : Nat := trowelBase k t + 0x2c
/-- TRW_RUNS (Table 6.3). -/
def Reg.TRW_RUNS (k t : Nat) : Nat := trowelBase k t + 0x30
/-- TRW_KILLS (Table 6.3). -/
def Reg.TRW_KILLS (k t : Nat) : Nat := trowelBase k t + 0x34
/-- TRW_REFRESH (Table 6.3). -/
def Reg.TRW_REFRESH (k t : Nat) : Nat := trowelBase k t + 0x38
/-- TRW_DEFER (Table 6.3). -/
def Reg.TRW_DEFER (k t : Nat) : Nat := trowelBase k t + 0x3c
/-- TRW_PARAM_i (Table 6.3). -/
def Reg.TRW_PARAM (k t i : Nat) : Nat := trowelBase k t + 0x40 + 0x4 * i
/-- STK_RDC_JOB (Table 6.15). -/
def Reg.STK_RDC_JOB (k : Nat) : Nat := reducerBase k + 0x0
/-- STK_RDC_STATUS (Table 6.15). -/
def Reg.STK_RDC_STATUS (k : Nat) : Nat := reducerBase k + 0x8
/-- STK_RDC_SLOTS (Table 6.15). -/
def Reg.STK_RDC_SLOTS (k : Nat) : Nat := reducerBase k + 0x10
/-- STK_RDC_PARAM (Table 6.15). -/
def Reg.STK_RDC_PARAM (k : Nat) : Nat := reducerBase k + 0x18
/-- STK_RDC_ERR (Table 6.15). -/
def Reg.STK_RDC_ERR (k : Nat) : Nat := reducerBase k + 0x20
/-- ITN_ID (Table 8.12). -/
def Reg.ITN_ID : Nat := 0x30000
/-- ITN_CTRL (Table 8.12). -/
def Reg.ITN_CTRL : Nat := 0x30008
/-- ITN_STATUS (Table 8.12). -/
def Reg.ITN_STATUS : Nat := 0x30010
/-- ITN_IMAGE (Table 8.12). -/
def Reg.ITN_IMAGE : Nat := 0x30018
/-- ITN_BELL (Table 8.12). -/
def Reg.ITN_BELL : Nat := 0x30020
/-- ITN_IBELL (Table 8.12). -/
def Reg.ITN_IBELL : Nat := 0x30028
/-- ITN_STRETCH (Table 8.12). -/
def Reg.ITN_STRETCH : Nat := 0x30030
/-- ITN_STOP (Table 8.12). -/
def Reg.ITN_STOP : Nat := 0x30038
/-- ITN_WAY (Table 8.12). -/
def Reg.ITN_WAY : Nat := 0x30040
/-- ITN_CKPT (Table 8.12). -/
def Reg.ITN_CKPT : Nat := 0x30048
/-- ITN_SHIFT (Table 8.12). -/
def Reg.ITN_SHIFT : Nat := 0x30050
/-- ITN_ABORT (Table 8.12). -/
def Reg.ITN_ABORT : Nat := 0x30058
/-- ITN_GATE (Table 8.12). -/
def Reg.ITN_GATE : Nat := 0x30060
/-- ITN_ERR (Table 8.12). -/
def Reg.ITN_ERR : Nat := 0x30068
/-- FAB_ID (Table 9.13). -/
def Reg.FAB_ID : Nat := 0x40000
/-- FAB_CTRL (Table 9.13). -/
def Reg.FAB_CTRL : Nat := 0x40008
/-- FAB_SELF (Table 9.13). -/
def Reg.FAB_SELF : Nat := 0x40010
/-- FAB_STATUS (Table 9.13). -/
def Reg.FAB_STATUS : Nat := 0x40018
/-- FAB_MANAGER (Table 9.13). -/
def Reg.FAB_MANAGER : Nat := 0x40020
/-- FAB_MAP_0 (Table 9.13). -/
def Reg.FAB_MAP_0 : Nat := 0x40028
/-- FAB_MAP_1 (Table 9.13). -/
def Reg.FAB_MAP_1 : Nat := 0x40030
/-- FAB_CARAVAN_0 (Table 9.13). -/
def Reg.FAB_CARAVAN_0 : Nat := 0x40038
/-- FAB_CARAVAN_1 (Table 9.13). -/
def Reg.FAB_CARAVAN_1 : Nat := 0x40040
/-- FAB_ERR (Table 9.13). -/
def Reg.FAB_ERR : Nat := 0x40048
/-- FAB_PORT_STATUS_n (Table 9.13). -/
def Reg.FAB_PORT_STATUS (i : Nat) : Nat := 0x40100 + 0x40 * i
/-- FAB_PORT_CFG_n (Table 9.13). -/
def Reg.FAB_PORT_CFG (i : Nat) : Nat := 0x40108 + 0x40 * i
/-- FAB_PORT_DELAY_n (Table 9.13). -/
def Reg.FAB_PORT_DELAY (i : Nat) : Nat := 0x40110 + 0x40 * i
/-- FAB_PORT_FEC_n (Table 9.13). -/
def Reg.FAB_PORT_FEC (i : Nat) : Nat := 0x40118 + 0x40 * i
/-- FAB_PORT_REPLAY_n (Table 9.13). -/
def Reg.FAB_PORT_REPLAY (i : Nat) : Nat := 0x40120 + 0x40 * i
/-- FAB_PORT_TX_n (Table 9.13). -/
def Reg.FAB_PORT_TX (i : Nat) : Nat := 0x40128 + 0x40 * i
/-- FAB_PORT_RX_n (Table 9.13). -/
def Reg.FAB_PORT_RX (i : Nat) : Nat := 0x40130 + 0x40 * i
/-- FAB_PORT_DROP_n (Table 9.13). -/
def Reg.FAB_PORT_DROP (i : Nat) : Nat := 0x40138 + 0x40 * i
/-- FAB_ROUTE_d (Table 9.13). -/
def Reg.FAB_ROUTE (i : Nat) : Nat := 0x41000 + 0x8 * i
/-- FAB_PERMIT_i (Table 9.13). -/
def Reg.FAB_PERMIT (i : Nat) : Nat := 0x43000 + 0x8 * i
/-- LDG_ID (Table 10.6). -/
def Reg.LDG_ID : Nat := 0x50000
/-- LDG_CTRL (Table 10.6). -/
def Reg.LDG_CTRL : Nat := 0x50008
/-- LDG_GEOM (Table 10.6). -/
def Reg.LDG_GEOM : Nat := 0x50010
/-- LDG_FMT (Table 10.6). -/
def Reg.LDG_FMT : Nat := 0x50018
/-- LDG_COUNT_0 (Table 10.6). -/
def Reg.LDG_COUNT_0 : Nat := 0x50020
/-- LDG_COUNT_1 (Table 10.6). -/
def Reg.LDG_COUNT_1 : Nat := 0x50028
/-- LDG_COUNT_2 (Table 10.6). -/
def Reg.LDG_COUNT_2 : Nat := 0x50030
/-- LDG_OPS (Table 10.6). -/
def Reg.LDG_OPS : Nat := 0x50038
/-- LDG_AREA (Table 10.6). -/
def Reg.LDG_AREA : Nat := 0x50040
/-- LDG_ENTRY_SEL (Table 10.6). -/
def Reg.LDG_ENTRY_SEL : Nat := 0x50048
/-- LDG_ENTRY_LO (Table 10.6). -/
def Reg.LDG_ENTRY_LO : Nat := 0x50050
/-- LDG_ENTRY_HI (Table 10.6). -/
def Reg.LDG_ENTRY_HI : Nat := 0x50058
/-- LDG_ERR (Table 10.6). -/
def Reg.LDG_ERR : Nat := 0x50060
/-- PFX_ID (Table 10.8). -/
def Reg.PFX_ID : Nat := 0x60000
/-- PFX_CTRL (Table 10.8). -/
def Reg.PFX_CTRL : Nat := 0x60008
/-- PFX_MODE (Table 10.8). -/
def Reg.PFX_MODE : Nat := 0x60010
/-- PFX_SALT_0 (Table 10.8). -/
def Reg.PFX_SALT_0 : Nat := 0x60018
/-- PFX_SALT_1 (Table 10.8). -/
def Reg.PFX_SALT_1 : Nat := 0x60020
/-- PFX_STATUS (Table 10.8). -/
def Reg.PFX_STATUS : Nat := 0x60028
/-- PFX_HITS (Table 10.8). -/
def Reg.PFX_HITS : Nat := 0x60030
/-- PFX_ERR (Table 10.8). -/
def Reg.PFX_ERR : Nat := 0x60038
/-- SMP_ID (Table 11.12). -/
def Reg.SMP_ID : Nat := 0x70000
/-- SMP_CTRL (Table 11.12). -/
def Reg.SMP_CTRL : Nat := 0x70008
/-- SMP_STATUS (Table 11.12). -/
def Reg.SMP_STATUS : Nat := 0x70010
/-- SMP_VOCAB (Table 11.12). -/
def Reg.SMP_VOCAB : Nat := 0x70018
/-- SMP_SLOTS (Table 11.12). -/
def Reg.SMP_SLOTS : Nat := 0x70020
/-- SMP_STEP (Table 11.12). -/
def Reg.SMP_STEP : Nat := 0x70028
/-- SMP_COUNT (Table 11.12). -/
def Reg.SMP_COUNT : Nat := 0x70030
/-- SMP_SEL (Table 11.12). -/
def Reg.SMP_SEL : Nat := 0x70038
/-- SMP_SLOT (Table 11.12). -/
def Reg.SMP_SLOT : Nat := 0x70040
/-- SMP_SLOT_STEP (Table 11.12). -/
def Reg.SMP_SLOT_STEP : Nat := 0x70048
/-- SMP_ADAPTER (Table 11.12). -/
def Reg.SMP_ADAPTER : Nat := 0x70050
/-- SMP_TENANT (Table 11.12). -/
def Reg.SMP_TENANT : Nat := 0x70058
/-- SMP_ERR (Table 11.12). -/
def Reg.SMP_ERR : Nat := 0x70060
/-- STN_ID (Table 11.14). -/
def Reg.STN_ID : Nat := 0x80000
/-- STN_CTRL (Table 11.14). -/
def Reg.STN_CTRL : Nat := 0x80008
/-- STN_STATUS (Table 11.14). -/
def Reg.STN_STATUS : Nat := 0x80010
/-- STN_STORE (Table 11.14). -/
def Reg.STN_STORE : Nat := 0x80018
/-- STN_SEL (Table 11.14). -/
def Reg.STN_SEL : Nat := 0x80020
/-- STN_GRAMMAR (Table 11.14). -/
def Reg.STN_GRAMMAR : Nat := 0x80028
/-- STN_COUNT (Table 11.14). -/
def Reg.STN_COUNT : Nat := 0x80030
/-- STN_ERR (Table 11.14). -/
def Reg.STN_ERR : Nat := 0x80038
/-- HUB_CMD_ID (Table 12.8). -/
def Reg.HUB_CMD_ID : Nat := 0x0
/-- HUB_CMD_CTRL (Table 12.8). -/
def Reg.HUB_CMD_CTRL : Nat := 0x8
/-- HUB_CMD_STATUS (Table 12.8). -/
def Reg.HUB_CMD_STATUS : Nat := 0x10
/-- HUB_AQ_SQ_BASE (Table 12.8). -/
def Reg.HUB_AQ_SQ_BASE : Nat := 0x18
/-- HUB_AQ_CQ_BASE (Table 12.8). -/
def Reg.HUB_AQ_CQ_BASE : Nat := 0x20
/-- HUB_AQ_SIZE (Table 12.8). -/
def Reg.HUB_AQ_SIZE : Nat := 0x28
/-- HUB_CMD_ERR (Table 12.8). -/
def Reg.HUB_CMD_ERR : Nat := 0x30
/-- HUB_SQ_HALT_k (Table 12.8). -/
def Reg.HUB_SQ_HALT (i : Nat) : Nat := 0x40 + 0x8 * i
/-- HUB_SQ_TAIL_n (Table 12.8). -/
def Reg.HUB_SQ_TAIL (i : Nat) : Nat := 0x1000 + 0x8 * i
/-- HUB_CQ_HEAD_n (Table 12.8). -/
def Reg.HUB_CQ_HEAD (i : Nat) : Nat := 0x1800 + 0x8 * i
/-- PCI_ID (Table 13.12). -/
def Reg.PCI_ID : Nat := 0x10000
/-- PCI_LINK (Table 13.12). -/
def Reg.PCI_LINK : Nat := 0x10008
/-- PCI_BAR2_BASE (Table 13.12). -/
def Reg.PCI_BAR2_BASE : Nat := 0x10010
/-- PCI_VF_CFG (Table 13.12). -/
def Reg.PCI_VF_CFG : Nat := 0x10018
/-- PCI_HOST_TIME (Table 13.12). -/
def Reg.PCI_HOST_TIME : Nat := 0x10020
/-- PCI_ERR (Table 13.12). -/
def Reg.PCI_ERR : Nat := 0x10028
/-- PCI_VF_XLAT_v (Table 13.12). -/
def Reg.PCI_VF_XLAT (i : Nat) : Nat := 0x10100 + 0x8 * i
/-- DMA_ID (Table 13.12). -/
def Reg.DMA_ID : Nat := 0x20000
/-- DMA_QUEUES (Table 13.12). -/
def Reg.DMA_QUEUES : Nat := 0x20008
/-- DMA_ERR (Table 13.12). -/
def Reg.DMA_ERR : Nat := 0x20010
/-- DMA_CHAN_CFG_c (Table 13.12). -/
def Reg.DMA_CHAN_CFG (i : Nat) : Nat := 0x21000 + 0x20 * i
/-- DMA_CHAN_VALUE_c (Table 13.12). -/
def Reg.DMA_CHAN_VALUE (i : Nat) : Nat := 0x21008 + 0x20 * i
/-- DMA_CHAN_FEED_c (Table 13.12). -/
def Reg.DMA_CHAN_FEED (i : Nat) : Nat := 0x21010 + 0x20 * i
/-- DMA_CHAN_STATUS_c (Table 13.12). -/
def Reg.DMA_CHAN_STATUS (i : Nat) : Nat := 0x21018 + 0x20 * i
/-- SEC_ID (Table 17.11). -/
def Reg.SEC_ID : Nat := 0xf0000
/-- SEC_CTRL (Table 17.11). -/
def Reg.SEC_CTRL : Nat := 0xf0008
/-- SEC_STATUS (Table 17.11). -/
def Reg.SEC_STATUS : Nat := 0xf0010
/-- SEC_VERSION (Table 17.11). -/
def Reg.SEC_VERSION : Nat := 0xf0018
/-- SEC_SIGN_NEXT (Table 17.11). -/
def Reg.SEC_SIGN_NEXT : Nat := 0xf0020
/-- SEC_SIGN_END (Table 17.11). -/
def Reg.SEC_SIGN_END : Nat := 0xf0028
/-- SEC_ERR (Table 17.11). -/
def Reg.SEC_ERR : Nat := 0xf0030
/-- SEC_RCV_CTRL (Table 17.11). -/
def Reg.SEC_RCV_CTRL : Nat := 0xf0100
/-- SEC_RCV_STATUS (Table 17.11). -/
def Reg.SEC_RCV_STATUS : Nat := 0xf0108
/-- MOD_ID (Table 18.12). -/
def Reg.MOD_ID : Nat := 0x100000
/-- MOD_PINS (Table 18.12). -/
def Reg.MOD_PINS : Nat := 0x100008
/-- MOD_INPUT (Table 18.12). -/
def Reg.MOD_INPUT : Nat := 0x100010
/-- MOD_SMB (Table 18.12). -/
def Reg.MOD_SMB : Nat := 0x100018
/-- MOD_ERR (Table 18.12). -/
def Reg.MOD_ERR : Nat := 0x100020
/-- PWR_ID (Table 14.10). -/
def Reg.PWR_ID : Nat := 0xa0000
/-- PWR_CTRL (Table 14.10). -/
def Reg.PWR_CTRL : Nat := 0xa0008
/-- PWR_STATE (Table 14.10). -/
def Reg.PWR_STATE : Nat := 0xa0010
/-- PWR_PRESENT (Table 14.10). -/
def Reg.PWR_PRESENT : Nat := 0xa0018
/-- PWR_DOMAIN (Table 14.10). -/
def Reg.PWR_DOMAIN : Nat := 0xa0020
/-- PWR_GRANT (Table 14.10). -/
def Reg.PWR_GRANT : Nat := 0xa0028
/-- PWR_MEAS (Table 14.10). -/
def Reg.PWR_MEAS : Nat := 0xa0030
/-- PWR_BUDGET (Table 14.10). -/
def Reg.PWR_BUDGET : Nat := 0xa0038
/-- PWR_ERR (Table 14.10). -/
def Reg.PWR_ERR : Nat := 0xa0040
/-- THM_ID (Table 14.10). -/
def Reg.THM_ID : Nat := 0xb0000
/-- THM_CTRL (Table 14.10). -/
def Reg.THM_CTRL : Nat := 0xb0008
/-- THM_STATUS (Table 14.10). -/
def Reg.THM_STATUS : Nat := 0xb0010
/-- THM_SEL (Table 14.10). -/
def Reg.THM_SEL : Nat := 0xb0018
/-- THM_READ (Table 14.10). -/
def Reg.THM_READ : Nat := 0xb0020
/-- THM_TRIP (Table 14.10). -/
def Reg.THM_TRIP : Nat := 0xb0028
/-- THM_ERR (Table 14.10). -/
def Reg.THM_ERR : Nat := 0xb0030
/-- COL_ID (Table 14.10). -/
def Reg.COL_ID : Nat := 0xc0000
/-- COL_CTRL (Table 14.10). -/
def Reg.COL_CTRL : Nat := 0xc0008
/-- COL_FLOW_CFG (Table 14.10). -/
def Reg.COL_FLOW_CFG : Nat := 0xc0010
/-- COL_DEMAND (Table 14.10). -/
def Reg.COL_DEMAND : Nat := 0xc0018
/-- COL_FLOW (Table 14.10). -/
def Reg.COL_FLOW : Nat := 0xc0020
/-- COL_ANNOUNCE (Table 14.10). -/
def Reg.COL_ANNOUNCE : Nat := 0xc0028
/-- COL_ERR (Table 14.10). -/
def Reg.COL_ERR : Nat := 0xc0030
/-- HLD_ID (Table 14.10). -/
def Reg.HLD_ID : Nat := 0xd0000
/-- HLD_CTRL (Table 14.10). -/
def Reg.HLD_CTRL : Nat := 0xd0008
/-- HLD_STATUS (Table 14.10). -/
def Reg.HLD_STATUS : Nat := 0xd0010
/-- HLD_LAST (Table 14.10). -/
def Reg.HLD_LAST : Nat := 0xd0018
/-- HLD_ERR (Table 14.10). -/
def Reg.HLD_ERR : Nat := 0xd0020
/-- DEP_ID (Table 15.8). -/
def Reg.DEP_ID : Nat := 0x90000
/-- DEP_CTRL (Table 15.8). -/
def Reg.DEP_CTRL : Nat := 0x90008
/-- DEP_STATUS (Table 15.8). -/
def Reg.DEP_STATUS : Nat := 0x90010
/-- DEP_QSEL (Table 15.8). -/
def Reg.DEP_QSEL : Nat := 0x90018
/-- DEP_QSTATUS_n (Table 15.8). -/
def Reg.DEP_QSTATUS : Nat := 0x90020
/-- DEP_QCFG_n (Table 15.8). -/
def Reg.DEP_QCFG : Nat := 0x90028
/-- DEP_QDROP_n (Table 15.8). -/
def Reg.DEP_QDROP : Nat := 0x90030
/-- DEP_QTRACE_n (Table 15.8). -/
def Reg.DEP_QTRACE : Nat := 0x90038
/-- DEP_CNT_CFG (Table 15.8). -/
def Reg.DEP_CNT_CFG : Nat := 0x90040
/-- DEP_CNT_LIST (Table 15.8). -/
def Reg.DEP_CNT_LIST : Nat := 0x90048
/-- DEP_ERR (Table 15.8). -/
def Reg.DEP_ERR : Nat := 0x90050
/-- AGE_ID (Table 15.8). -/
def Reg.AGE_ID : Nat := 0xe0000
/-- AGE_CTRL (Table 15.8). -/
def Reg.AGE_CTRL : Nat := 0xe0008
/-- AGE_SEL (Table 15.8). -/
def Reg.AGE_SEL : Nat := 0xe0010
/-- AGE_MARGIN (Table 15.8). -/
def Reg.AGE_MARGIN : Nat := 0xe0018
/-- AGE_RATE (Table 15.8). -/
def Reg.AGE_RATE : Nat := 0xe0020
/-- AGE_DAYS (Table 15.8). -/
def Reg.AGE_DAYS : Nat := 0xe0028
/-- AGE_WORST (Table 15.8). -/
def Reg.AGE_WORST : Nat := 0xe0030
/-- AGE_ERR (Table 15.8). -/
def Reg.AGE_ERR : Nat := 0xe0038

/-! ### Fields -/

/-- Registers of block HUB_, part 0. -/
def regsHUB0 : List RegDef := [
  ⟨"HUB_CMD_ID", 0x0, 1, 0,
    [⟨47, 32, .ro, 0x100⟩, ⟨31, 24, .ro, 0x10⟩, ⟨23, 16, .ro, 1⟩, ⟨15, 0, .ro, 0x4843⟩]⟩,
  ⟨"HUB_CMD_CTRL", 0x8, 1, 0,
    [⟨0, 0, .w1s, 0⟩]⟩,
  ⟨"HUB_CMD_STATUS", 0x10, 1, 0,
    [⟨31, 24, .ro, 0⟩, ⟨23, 16, .ro, 0⟩, ⟨15, 12, .ro, 0⟩, ⟨11, 10, .ro, 0⟩, ⟨0, 0, .ro, 0⟩]⟩,
  ⟨"HUB_AQ_SQ_BASE", 0x18, 1, 0,
    [⟨63, 12, .rw, 0⟩]⟩,
  ⟨"HUB_AQ_CQ_BASE", 0x20, 1, 0,
    [⟨63, 12, .rw, 0⟩]⟩,
  ⟨"HUB_AQ_SIZE", 0x28, 1, 0,
    [⟨27, 16, .rw, 0⟩, ⟨11, 0, .rw, 0⟩]⟩]
/-- Registers of block HUB_, part 1. -/
def regsHUB1 : List RegDef := [
  ⟨"HUB_CMD_ERR", 0x30, 1, 0,
    [⟨3, 3, .w1c, 0⟩, ⟨2, 2, .w1c, 0⟩, ⟨1, 1, .w1c, 0⟩, ⟨0, 0, .w1c, 0⟩]⟩,
  ⟨"HUB_SQ_HALT_k", 0x40, 4, 0x8,
    [⟨63, 0, .w1c, 0⟩]⟩,
  ⟨"HUB_SQ_TAIL_n", 0x1000, 256, 0x8,
    [⟨11, 0, .wo, 0⟩]⟩,
  ⟨"HUB_CQ_HEAD_n", 0x1800, 256, 0x8,
    [⟨11, 0, .wo, 0⟩]⟩]
/-- Every register of block HUB_. -/
def regsHUB : List RegDef := regsHUB0 ++ regsHUB1
/-- Registers of block PCI_, part 0. -/
def regsPCI0 : List RegDef := [
  ⟨"PCI_ID", 0x0, 1, 0,
    [⟨31, 24, .ro, 0x40⟩, ⟨23, 16, .ro, 1⟩, ⟨15, 0, .ro, 0x5043⟩]⟩,
  ⟨"PCI_LINK", 0x8, 1, 0,
    [⟨15, 12, .ro, 0⟩, ⟨11, 7, .ro, 0⟩, ⟨6, 6, .ro, 0⟩]⟩,
  ⟨"PCI_BAR2_BASE", 0x10, 1, 0,
    [⟨9, 0, .rw, 0⟩]⟩,
  ⟨"PCI_VF_CFG", 0x18, 1, 0,
    [⟨11, 8, .rw, 1⟩, ⟨3, 0, .rw, 1⟩]⟩,
  ⟨"PCI_HOST_TIME", 0x20, 1, 0,
    [⟨63, 0, .rw, 0⟩]⟩,
  ⟨"PCI_ERR", 0x28, 1, 0,
    [⟨6, 6, .w1c, 0⟩, ⟨5, 5, .w1c, 0⟩, ⟨4, 4, .w1c, 0⟩, ⟨3, 3, .w1c, 0⟩, ⟨2, 2, .w1c, 0⟩, ⟨1, 1, .w1c, 0⟩, ⟨0, 0, .w1c, 0⟩]⟩]
/-- Registers of block PCI_, part 1. -/
def regsPCI1 : List RegDef := [
  ⟨"PCI_VF_XLAT_v", 0x108, 64, 0x8,
    [⟨39, 16, .rw, 0⟩, ⟨0, 0, .rw, 0⟩]⟩]
/-- Every register of block PCI_. -/
def regsPCI : List RegDef := regsPCI0 ++ regsPCI1
/-- Registers of block DMA_, part 0. -/
def regsDMA0 : List RegDef := [
  ⟨"DMA_ID", 0x0, 1, 0,
    [⟨31, 24, .ro, 0x20⟩, ⟨23, 16, .ro, 1⟩, ⟨15, 0, .ro, 0x444d⟩]⟩,
  ⟨"DMA_QUEUES", 0x8, 1, 0,
    [⟨31, 0, .ro, 0⟩]⟩,
  ⟨"DMA_ERR", 0x10, 1, 0,
    [⟨5, 5, .w1c, 0⟩, ⟨4, 4, .w1c, 0⟩, ⟨3, 3, .w1c, 0⟩, ⟨2, 2, .w1c, 0⟩, ⟨1, 1, .w1c, 0⟩]⟩,
  ⟨"DMA_CHAN_CFG_c", 0x1000, 32, 0x20,
    [⟨3, 2, .rw, 0⟩, ⟨1, 0, .rw, 0⟩]⟩,
  ⟨"DMA_CHAN_VALUE_c", 0x1008, 32, 0x20,
    [⟨63, 0, .rw, 0⟩]⟩,
  ⟨"DMA_CHAN_FEED_c", 0x1010, 32, 0x20,
    [⟨31, 0, .wo, 0⟩]⟩]
/-- Registers of block DMA_, part 1. -/
def regsDMA1 : List RegDef := [
  ⟨"DMA_CHAN_STATUS_c", 0x1018, 32, 0x20,
    [⟨14, 8, .ro, 0⟩, ⟨2, 2, .ro, 0⟩, ⟨1, 1, .ro, 0⟩, ⟨0, 0, .ro, 0⟩]⟩]
/-- Every register of block DMA_. -/
def regsDMA : List RegDef := regsDMA0 ++ regsDMA1
/-- Registers of block ITN_, part 0. -/
def regsITN0 : List RegDef := [
  ⟨"ITN_ID", 0x0, 1, 0,
    [⟨47, 32, .ro, 0x400⟩, ⟨23, 16, .ro, 1⟩, ⟨15, 0, .ro, 0x4954⟩]⟩,
  ⟨"ITN_CTRL", 0x8, 1, 0,
    [⟨15, 12, .rw, 3⟩, ⟨7, 7, .wo, 0⟩, ⟨3, 3, .rw, 1⟩, ⟨2, 2, .rw, 1⟩, ⟨1, 1, .rw, 0⟩, ⟨0, 0, .rw, 0⟩]⟩,
  ⟨"ITN_STATUS", 0x10, 1, 0,
    [⟨47, 38, .ro, 0⟩, ⟨37, 33, .ro, 0⟩, ⟨32, 28, .ro, 0⟩, ⟨27, 24, .ro, 0⟩, ⟨7, 0, .ro, 0⟩]⟩,
  ⟨"ITN_IMAGE", 0x18, 1, 0,
    [⟨63, 40, .ro, 0⟩, ⟨39, 16, .ro, 0⟩]⟩,
  ⟨"ITN_BELL", 0x20, 1, 0,
    [⟨47, 0, .ro, 0⟩]⟩,
  ⟨"ITN_IBELL", 0x28, 1, 0,
    [⟨47, 0, .ro, 0⟩]⟩]
/-- Registers of block ITN_, part 1. -/
def regsITN1 : List RegDef := [
  ⟨"ITN_STRETCH", 0x30, 1, 0,
    [⟨30, 24, .rw, 0x10⟩, ⟨22, 16, .ro, 0x10⟩, ⟨14, 8, .ro, 0x10⟩, ⟨6, 0, .ro, 0x10⟩]⟩,
  ⟨"ITN_STOP", 0x38, 1, 0,
    [⟨11, 11, .ro, 0⟩, ⟨10, 10, .ro, 0⟩, ⟨9, 9, .ro, 0⟩, ⟨5, 4, .ro, 0⟩, ⟨1, 0, .ro, 0⟩]⟩,
  ⟨"ITN_WAY", 0x40, 1, 0,
    [⟨63, 48, .ro, 0⟩, ⟨47, 44, .ro, 0⟩, ⟨43, 42, .ro, 0⟩, ⟨39, 0, .ro, 0⟩]⟩,
  ⟨"ITN_CKPT", 0x48, 1, 0,
    [⟨63, 48, .ro, 0⟩, ⟨47, 0, .ro, 0⟩]⟩,
  ⟨"ITN_SHIFT", 0x50, 1, 0,
    [⟨47, 0, .ro, 0⟩]⟩,
  ⟨"ITN_ABORT", 0x58, 1, 0,
    [⟨63, 48, .ro, 0⟩, ⟨47, 44, .ro, 0⟩, ⟨43, 40, .ro, 0⟩, ⟨31, 0, .ro, 0⟩]⟩]
/-- Registers of block ITN_, part 2. -/
def regsITN2 : List RegDef := [
  ⟨"ITN_GATE", 0x60, 1, 0,
    [⟨63, 0, .ro, 0⟩]⟩,
  ⟨"ITN_ERR", 0x68, 1, 0,
    [⟨3, 3, .w1c, 0⟩, ⟨2, 2, .w1c, 0⟩, ⟨1, 1, .w1c, 0⟩, ⟨0, 0, .w1c, 0⟩]⟩]
/-- Every register of block ITN_. -/
def regsITN : List RegDef := regsITN0 ++ regsITN1 ++ regsITN2
/-- Registers of block FAB_, part 0. -/
def regsFAB0 : List RegDef := [
  ⟨"FAB_ID", 0x0, 1, 0,
    [⟨47, 32, .ro, 0x10⟩, ⟨23, 16, .ro, 1⟩, ⟨15, 0, .ro, 0x4642⟩]⟩,
  ⟨"FAB_CTRL", 0x8, 1, 0,
    [⟨7, 7, .wo, 0⟩, ⟨2, 2, .rw, 1⟩, ⟨1, 1, .rw, 1⟩, ⟨0, 0, .rw, 1⟩]⟩,
  ⟨"FAB_SELF", 0x10, 1, 0,
    [⟨11, 11, .ro, 0⟩, ⟨9, 0, .ro, 0⟩]⟩,
  ⟨"FAB_STATUS", 0x18, 1, 0,
    [⟨31, 16, .ro, 0⟩, ⟨15, 12, .ro, 0⟩]⟩,
  ⟨"FAB_MANAGER", 0x20, 1, 0,
    [⟨63, 32, .ro, 0⟩, ⟨11, 11, .ro, 0⟩, ⟨9, 0, .ro, 0⟩]⟩,
  ⟨"FAB_MAP_0", 0x28, 1, 0,
    [⟨63, 0, .ro, 0⟩]⟩]
/-- Registers of block FAB_, part 1. -/
def regsFAB1 : List RegDef := [
  ⟨"FAB_MAP_1", 0x30, 1, 0,
    [⟨63, 0, .ro, 0⟩]⟩,
  ⟨"FAB_CARAVAN_0", 0x38, 1, 0,
    [⟨63, 0, .ro, 0⟩]⟩,
  ⟨"FAB_CARAVAN_1", 0x40, 1, 0,
    [⟨63, 0, .ro, 0⟩]⟩,
  ⟨"FAB_ERR", 0x48, 1, 0,
    [⟨7, 7, .w1c, 0⟩, ⟨6, 6, .w1c, 0⟩, ⟨5, 5, .w1c, 0⟩, ⟨4, 4, .w1c, 0⟩, ⟨3, 3, .w1c, 0⟩, ⟨2, 2, .w1c, 0⟩, ⟨1, 1, .w1c, 0⟩, ⟨0, 0, .w1c, 0⟩]⟩,
  ⟨"FAB_PORT_STATUS_n", 0x100, 16, 0x40,
    [⟨47, 44, .ro, 0⟩, ⟨41, 32, .ro, 0⟩, ⟨31, 24, .ro, 0⟩, ⟨23, 20, .ro, 0⟩, ⟨19, 19, .ro, 0⟩, ⟨18, 18, .ro, 0⟩, ⟨17, 17, .ro, 0⟩]⟩,
  ⟨"FAB_PORT_CFG_n", 0x108, 16, 0x40,
    [⟨3, 3, .ro, 0⟩, ⟨2, 1, .ro, 0⟩, ⟨0, 0, .rw, 1⟩]⟩]
/-- Registers of block FAB_, part 2. -/
def regsFAB2 : List RegDef := [
  ⟨"FAB_PORT_DELAY_n", 0x110, 16, 0x40,
    [⟨31, 16, .ro, 0⟩, ⟨15, 0, .ro, 0⟩]⟩,
  ⟨"FAB_PORT_FEC_n", 0x118, 16, 0x40,
    [⟨63, 32, .ro, 0⟩, ⟨31, 0, .ro, 0⟩]⟩,
  ⟨"FAB_PORT_REPLAY_n", 0x120, 16, 0x40,
    [⟨63, 32, .ro, 0⟩, ⟨31, 0, .ro, 0⟩]⟩,
  ⟨"FAB_PORT_TX_n", 0x128, 16, 0x40,
    [⟨63, 0, .ro, 0⟩]⟩,
  ⟨"FAB_PORT_RX_n", 0x130, 16, 0x40,
    [⟨63, 0, .ro, 0⟩]⟩,
  ⟨"FAB_PORT_DROP_n", 0x138, 16, 0x40,
    [⟨63, 32, .ro, 0⟩, ⟨31, 0, .ro, 0⟩]⟩]
/-- Registers of block FAB_, part 3. -/
def regsFAB3 : List RegDef := [
  ⟨"FAB_ROUTE_d", 0x1000, 1024, 0x8,
    [⟨31, 31, .ro, 0⟩, ⟨30, 27, .ro, 0⟩, ⟨26, 23, .ro, 0⟩, ⟨22, 19, .ro, 0⟩, ⟨18, 15, .ro, 0⟩, ⟨14, 11, .ro, 0⟩, ⟨10, 7, .ro, 0⟩, ⟨6, 1, .ro, 0⟩]⟩,
  ⟨"FAB_PERMIT_i", 0x3000, 16, 0x8,
    [⟨63, 0, .ro, 0⟩]⟩]
/-- Every register of block FAB_. -/
def regsFAB : List RegDef := regsFAB0 ++ regsFAB1 ++ regsFAB2 ++ regsFAB3
/-- Registers of block LDG_, part 0. -/
def regsLDG0 : List RegDef := [
  ⟨"LDG_ID", 0x0, 1, 0,
    [⟨47, 32, .ro, 0x800⟩, ⟨23, 16, .ro, 1⟩, ⟨15, 0, .ro, 0x4c44⟩]⟩,
  ⟨"LDG_CTRL", 0x8, 1, 0,
    [⟨7, 7, .wo, 0⟩, ⟨2, 2, .rw, 0⟩, ⟨1, 1, .rw, 1⟩, ⟨0, 0, .rw, 1⟩]⟩,
  ⟨"LDG_GEOM", 0x10, 1, 0,
    [⟨63, 55, .ro, 0⟩, ⟨54, 48, .ro, 0⟩, ⟨47, 46, .ro, 0⟩, ⟨45, 44, .ro, 0⟩, ⟨43, 33, .ro, 0⟩, ⟨32, 23, .ro, 0⟩, ⟨22, 18, .ro, 0⟩, ⟨17, 16, .ro, 0⟩]⟩,
  ⟨"LDG_FMT", 0x18, 1, 0,
    [⟨63, 48, .ro, 0⟩, ⟨47, 32, .ro, 0⟩, ⟨31, 16, .ro, 0⟩, ⟨0, 0, .ro, 0⟩]⟩,
  ⟨"LDG_COUNT_0", 0x20, 1, 0,
    [⟨53, 32, .ro, 0⟩, ⟨21, 0, .ro, 0⟩]⟩,
  ⟨"LDG_COUNT_1", 0x28, 1, 0,
    [⟨53, 32, .ro, 0⟩, ⟨21, 0, .ro, 0⟩]⟩]
/-- Registers of block LDG_, part 1. -/
def regsLDG1 : List RegDef := [
  ⟨"LDG_COUNT_2", 0x30, 1, 0,
    [⟨53, 32, .ro, 0⟩, ⟨21, 0, .ro, 0⟩]⟩,
  ⟨"LDG_OPS", 0x38, 1, 0,
    [⟨63, 32, .ro, 0⟩, ⟨31, 0, .ro, 0⟩]⟩,
  ⟨"LDG_AREA", 0x40, 1, 0,
    [⟨63, 40, .ro, 0⟩, ⟨39, 16, .ro, 0⟩]⟩,
  ⟨"LDG_ENTRY_SEL", 0x48, 1, 0,
    [⟨20, 0, .rw, 0⟩]⟩,
  ⟨"LDG_ENTRY_LO", 0x50, 1, 0,
    [⟨63, 0, .ro, 0⟩]⟩,
  ⟨"LDG_ENTRY_HI", 0x58, 1, 0,
    [⟨63, 0, .ro, 0⟩]⟩]
/-- Registers of block LDG_, part 2. -/
def regsLDG2 : List RegDef := [
  ⟨"LDG_ERR", 0x60, 1, 0,
    [⟨3, 3, .w1c, 0⟩, ⟨2, 2, .w1c, 0⟩, ⟨1, 1, .w1c, 0⟩, ⟨0, 0, .w1c, 0⟩]⟩]
/-- Every register of block LDG_. -/
def regsLDG : List RegDef := regsLDG0 ++ regsLDG1 ++ regsLDG2
/-- Registers of block PFX_, part 0. -/
def regsPFX0 : List RegDef := [
  ⟨"PFX_ID", 0x0, 1, 0,
    [⟨47, 32, .ro, 0x400⟩, ⟨23, 16, .ro, 1⟩, ⟨15, 0, .ro, 0x5046⟩]⟩,
  ⟨"PFX_CTRL", 0x8, 1, 0,
    [⟨7, 7, .wo, 0⟩, ⟨0, 0, .rw, 0⟩]⟩,
  ⟨"PFX_MODE", 0x10, 1, 0,
    [⟨1, 1, .ro, 0⟩, ⟨0, 0, .ro, 0⟩]⟩,
  ⟨"PFX_SALT_0", 0x18, 1, 0,
    [⟨63, 0, .ro, 0⟩]⟩,
  ⟨"PFX_SALT_1", 0x20, 1, 0,
    [⟨63, 0, .ro, 0⟩]⟩,
  ⟨"PFX_STATUS", 0x28, 1, 0,
    [⟨52, 32, .ro, 0⟩, ⟨17, 0, .ro, 0⟩]⟩]
/-- Registers of block PFX_, part 1. -/
def regsPFX1 : List RegDef := [
  ⟨"PFX_HITS", 0x30, 1, 0,
    [⟨63, 32, .ro, 0⟩, ⟨31, 0, .ro, 0⟩]⟩,
  ⟨"PFX_ERR", 0x38, 1, 0,
    [⟨2, 2, .w1c, 0⟩, ⟨1, 1, .w1c, 0⟩, ⟨0, 0, .w1c, 0⟩]⟩]
/-- Every register of block PFX_. -/
def regsPFX : List RegDef := regsPFX0 ++ regsPFX1
/-- Registers of block SMP_, part 0. -/
def regsSMP0 : List RegDef := [
  ⟨"SMP_ID", 0x0, 1, 0,
    [⟨47, 32, .ro, 0x1000⟩, ⟨31, 24, .ro, 8⟩, ⟨23, 16, .ro, 1⟩, ⟨15, 0, .ro, 0x534d⟩]⟩,
  ⟨"SMP_CTRL", 0x8, 1, 0,
    [⟨7, 7, .wo, 0⟩, ⟨2, 2, .rw, 0⟩, ⟨1, 1, .rw, 1⟩, ⟨0, 0, .rw, 0⟩]⟩,
  ⟨"SMP_STATUS", 0x10, 1, 0,
    [⟨44, 32, .ro, 0⟩, ⟨31, 24, .ro, 0⟩, ⟨23, 20, .ro, 0⟩]⟩,
  ⟨"SMP_VOCAB", 0x18, 1, 0,
    [⟨44, 32, .ro, 0⟩, ⟨18, 0, .ro, 0⟩]⟩,
  ⟨"SMP_SLOTS", 0x20, 1, 0,
    [⟨44, 32, .ro, 0⟩, ⟨12, 0, .ro, 0⟩]⟩,
  ⟨"SMP_STEP", 0x28, 1, 0,
    [⟨63, 0, .ro, 0⟩]⟩]
/-- Registers of block SMP_, part 1. -/
def regsSMP1 : List RegDef := [
  ⟨"SMP_COUNT", 0x30, 1, 0,
    [⟨63, 32, .ro, 0⟩, ⟨31, 0, .ro, 0⟩]⟩,
  ⟨"SMP_SEL", 0x38, 1, 0,
    [⟨43, 32, .rw, 0⟩, ⟨15, 8, .rw, 0⟩, ⟨7, 0, .rw, 0⟩]⟩,
  ⟨"SMP_SLOT", 0x40, 1, 0,
    [⟨63, 43, .ro, 0⟩, ⟨42, 27, .ro, 0⟩, ⟨26, 19, .ro, 0⟩, ⟨18, 11, .ro, 0⟩, ⟨10, 10, .ro, 0⟩, ⟨9, 6, .ro, 0⟩, ⟨1, 0, .ro, 0⟩]⟩,
  ⟨"SMP_SLOT_STEP", 0x48, 1, 0,
    [⟨63, 0, .ro, 0⟩]⟩,
  ⟨"SMP_ADAPTER", 0x50, 1, 0,
    [⟨63, 48, .ro, 0⟩, ⟨47, 32, .ro, 0⟩, ⟨31, 24, .ro, 0⟩, ⟨23, 16, .ro, 0⟩, ⟨1, 0, .ro, 0⟩]⟩,
  ⟨"SMP_TENANT", 0x58, 1, 0,
    [⟨1, 1, .ro, 0⟩, ⟨0, 0, .ro, 0⟩]⟩]
/-- Registers of block SMP_, part 2. -/
def regsSMP2 : List RegDef := [
  ⟨"SMP_ERR", 0x60, 1, 0,
    [⟨4, 4, .w1c, 0⟩, ⟨3, 3, .w1c, 0⟩, ⟨2, 2, .w1c, 0⟩, ⟨1, 1, .w1c, 0⟩, ⟨0, 0, .w1c, 0⟩]⟩]
/-- Every register of block SMP_. -/
def regsSMP : List RegDef := regsSMP0 ++ regsSMP1 ++ regsSMP2
/-- Registers of block STN_, part 0. -/
def regsSTN0 : List RegDef := [
  ⟨"STN_ID", 0x0, 1, 0,
    [⟨47, 32, .ro, 0x40⟩, ⟨31, 24, .ro, 4⟩, ⟨23, 16, .ro, 1⟩, ⟨15, 0, .ro, 0x534e⟩]⟩,
  ⟨"STN_CTRL", 0x8, 1, 0,
    [⟨7, 7, .wo, 0⟩, ⟨1, 1, .rw, 0⟩, ⟨0, 0, .rw, 1⟩]⟩,
  ⟨"STN_STATUS", 0x10, 1, 0,
    [⟨63, 48, .ro, 0⟩, ⟨44, 32, .ro, 0⟩, ⟨27, 24, .ro, 0⟩]⟩,
  ⟨"STN_STORE", 0x18, 1, 0,
    [⟨52, 32, .ro, 0⟩, ⟨16, 0, .ro, 0⟩]⟩,
  ⟨"STN_SEL", 0x20, 1, 0,
    [⟨5, 0, .rw, 0⟩]⟩,
  ⟨"STN_GRAMMAR", 0x28, 1, 0,
    [⟨63, 43, .ro, 0⟩, ⟨42, 26, .ro, 0⟩, ⟨1, 1, .ro, 0⟩, ⟨0, 0, .ro, 0⟩]⟩]
/-- Registers of block STN_, part 1. -/
def regsSTN1 : List RegDef := [
  ⟨"STN_COUNT", 0x30, 1, 0,
    [⟨63, 32, .ro, 0⟩, ⟨31, 0, .ro, 0⟩]⟩,
  ⟨"STN_ERR", 0x38, 1, 0,
    [⟨3, 3, .w1c, 0⟩, ⟨2, 2, .w1c, 0⟩, ⟨1, 1, .w1c, 0⟩, ⟨0, 0, .w1c, 0⟩]⟩]
/-- Every register of block STN_. -/
def regsSTN : List RegDef := regsSTN0 ++ regsSTN1
/-- Registers of block DEP_, part 0. -/
def regsDEP0 : List RegDef := [
  ⟨"DEP_ID", 0x0, 1, 0,
    [⟨47, 32, .ro, 0x100⟩, ⟨23, 16, .ro, 1⟩, ⟨15, 0, .ro, 0x4450⟩]⟩,
  ⟨"DEP_CTRL", 0x8, 1, 0,
    [⟨7, 7, .wo, 0⟩, ⟨5, 0, .rw, 0x3b⟩]⟩,
  ⟨"DEP_STATUS", 0x10, 1, 0,
    [⟨48, 32, .ro, 0⟩, ⟨3, 3, .ro, 0⟩, ⟨2, 2, .ro, 0⟩, ⟨1, 1, .ro, 0⟩, ⟨0, 0, .ro, 0⟩]⟩,
  ⟨"DEP_QSEL", 0x18, 1, 0,
    [⟨7, 0, .rw, 0⟩]⟩,
  ⟨"DEP_QSTATUS_n", 0x20, 1, 0,
    [⟨63, 48, .ro, 0⟩, ⟨31, 16, .ro, 0⟩, ⟨15, 0, .ro, 0⟩]⟩,
  ⟨"DEP_QCFG_n", 0x28, 1, 0,
    [⟨31, 31, .wo, 0⟩, ⟨27, 24, .ro, 0⟩, ⟨15, 0, .rw, 0⟩]⟩]
/-- Registers of block DEP_, part 1. -/
def regsDEP1 : List RegDef := [
  ⟨"DEP_QDROP_n", 0x30, 1, 0,
    [⟨63, 40, .ro, 0⟩, ⟨39, 16, .ro, 0⟩, ⟨15, 0, .ro, 0⟩]⟩,
  ⟨"DEP_QTRACE_n", 0x38, 1, 0,
    [⟨63, 32, .ro, 0⟩, ⟨3, 0, .ro, 0⟩]⟩,
  ⟨"DEP_CNT_CFG", 0x40, 1, 0,
    [⟨26, 21, .rw, 0⟩, ⟨20, 0, .rw, 0⟩]⟩,
  ⟨"DEP_CNT_LIST", 0x48, 1, 0,
    [⟨39, 3, .rw, 0⟩]⟩,
  ⟨"DEP_ERR", 0x50, 1, 0,
    [⟨3, 0, .w1c, 0⟩]⟩]
/-- Every register of block DEP_. -/
def regsDEP : List RegDef := regsDEP0 ++ regsDEP1
/-- Registers of block PWR_, part 0. -/
def regsPWR0 : List RegDef := [
  ⟨"PWR_ID", 0x0, 1, 0,
    [⟨23, 16, .ro, 1⟩, ⟨15, 0, .ro, 0x5057⟩]⟩,
  ⟨"PWR_CTRL", 0x8, 1, 0,
    [⟨7, 7, .wo, 0⟩, ⟨1, 1, .rw, 0⟩, ⟨0, 0, .rw, 1⟩]⟩,
  ⟨"PWR_STATE", 0x10, 1, 0,
    [⟨39, 8, .ro, 0⟩, ⟨7, 5, .ro, 0⟩, ⟨3, 3, .ro, 0⟩, ⟨2, 1, .ro, 0⟩, ⟨0, 0, .ro, 0⟩]⟩,
  ⟨"PWR_PRESENT", 0x18, 1, 0,
    [⟨63, 0, .ro, 0⟩]⟩,
  ⟨"PWR_DOMAIN", 0x20, 1, 0,
    [⟨63, 0, .ro, 0⟩]⟩,
  ⟨"PWR_GRANT", 0x28, 1, 0,
    [⟨47, 32, .ro, 0⟩, ⟨31, 16, .ro, 0⟩, ⟨15, 0, .ro, 0⟩]⟩]
/-- Registers of block PWR_, part 1. -/
def regsPWR1 : List RegDef := [
  ⟨"PWR_MEAS", 0x30, 1, 0,
    [⟨47, 32, .ro, 0⟩, ⟨31, 16, .ro, 0⟩, ⟨15, 0, .ro, 0⟩, ⟨63, 48, .ro, 0⟩]⟩,
  ⟨"PWR_BUDGET", 0x38, 1, 0,
    [⟨63, 32, .ro, 0⟩, ⟨14, 8, .ro, 0x10⟩, ⟨0, 0, .ro, 0⟩]⟩,
  ⟨"PWR_ERR", 0x40, 1, 0,
    [⟨0, 0, .w1c, 0⟩]⟩]
/-- Every register of block PWR_. -/
def regsPWR : List RegDef := regsPWR0 ++ regsPWR1
/-- Registers of block THM_, part 0. -/
def regsTHM0 : List RegDef := [
  ⟨"THM_ID", 0x0, 1, 0,
    [⟨23, 16, .ro, 1⟩, ⟨15, 0, .ro, 0x544d⟩]⟩,
  ⟨"THM_CTRL", 0x8, 1, 0,
    [⟨6, 2, .rw, 0x1f⟩]⟩,
  ⟨"THM_STATUS", 0x10, 1, 0,
    [⟨55, 47, .ro, 0⟩, ⟨46, 31, .ro, 0⟩, ⟨30, 24, .ro, 0x10⟩, ⟨14, 14, .ro, 0⟩, ⟨13, 13, .ro, 0⟩, ⟨12, 12, .ro, 0⟩, ⟨11, 0, .ro, 0⟩]⟩,
  ⟨"THM_SEL", 0x18, 1, 0,
    [⟨8, 0, .rw, 0⟩]⟩,
  ⟨"THM_READ", 0x20, 1, 0,
    [⟨47, 32, .ro, 0⟩, ⟨31, 16, .ro, 0⟩, ⟨3, 3, .ro, 0⟩, ⟨2, 2, .ro, 0⟩, ⟨1, 1, .ro, 0⟩]⟩,
  ⟨"THM_TRIP", 0x28, 1, 0,
    [⟨63, 16, .ro, 0⟩, ⟨15, 7, .ro, 0⟩, ⟨6, 4, .ro, 0⟩]⟩]
/-- Registers of block THM_, part 1. -/
def regsTHM1 : List RegDef := [
  ⟨"THM_ERR", 0x30, 1, 0,
    [⟨3, 0, .w1c, 0⟩]⟩]
/-- Every register of block THM_. -/
def regsTHM : List RegDef := regsTHM0 ++ regsTHM1
/-- Registers of block COL_, part 0. -/
def regsCOL0 : List RegDef := [
  ⟨"COL_ID", 0x0, 1, 0,
    [⟨23, 16, .ro, 1⟩, ⟨15, 0, .ro, 0x434c⟩]⟩,
  ⟨"COL_CTRL", 0x8, 1, 0,
    [⟨63, 56, .rw, 0xa⟩, ⟨55, 48, .rw, 0xa⟩, ⟨47, 40, .rw, 0x12⟩, ⟨39, 32, .rw, 0x2d⟩, ⟨31, 24, .rw, 0xa⟩, ⟨23, 16, .rw, 0x14⟩]⟩,
  ⟨"COL_FLOW_CFG", 0x10, 1, 0,
    [⟨34, 32, .rw, 7⟩, ⟨31, 16, .rw, 0x100⟩, ⟨15, 0, .rw, 0x28⟩]⟩,
  ⟨"COL_DEMAND", 0x18, 1, 0,
    [⟨47, 32, .ro, 0⟩, ⟨31, 16, .ro, 0⟩, ⟨9, 0, .ro, 0x3e8⟩]⟩,
  ⟨"COL_FLOW", 0x20, 1, 0,
    [⟨31, 16, .ro, 0⟩, ⟨15, 0, .ro, 0⟩]⟩,
  ⟨"COL_ANNOUNCE", 0x28, 1, 0,
    [⟨63, 48, .rw, 0⟩, ⟨15, 0, .rw, 0⟩]⟩]
/-- Registers of block COL_, part 1. -/
def regsCOL1 : List RegDef := [
  ⟨"COL_ERR", 0x30, 1, 0,
    [⟨3, 0, .w1c, 0⟩]⟩]
/-- Every register of block COL_. -/
def regsCOL : List RegDef := regsCOL0 ++ regsCOL1
/-- Registers of block HLD_, part 0. -/
def regsHLD0 : List RegDef := [
  ⟨"HLD_ID", 0x0, 1, 0,
    [⟨23, 16, .ro, 1⟩, ⟨15, 0, .ro, 0x484c⟩]⟩,
  ⟨"HLD_CTRL", 0x8, 1, 0,
    [⟨1, 0, .rw, 3⟩]⟩,
  ⟨"HLD_STATUS", 0x10, 1, 0,
    [⟨47, 32, .ro, 0⟩, ⟨31, 16, .ro, 0⟩, ⟨4, 2, .ro, 0⟩]⟩,
  ⟨"HLD_LAST", 0x18, 1, 0,
    [⟨7, 4, .ro, 0⟩, ⟨3, 0, .ro, 0⟩]⟩,
  ⟨"HLD_ERR", 0x20, 1, 0,
    [⟨1, 0, .w1c, 0⟩]⟩]
/-- Every register of block HLD_. -/
def regsHLD : List RegDef := regsHLD0
/-- Registers of block AGE_, part 0. -/
def regsAGE0 : List RegDef := [
  ⟨"AGE_ID", 0x0, 1, 0,
    [⟨47, 32, .ro, 0xc7⟩, ⟨23, 16, .ro, 1⟩, ⟨15, 0, .ro, 0x4147⟩]⟩,
  ⟨"AGE_CTRL", 0x8, 1, 0,
    [⟨31, 16, .rw, 0xb4⟩, ⟨1, 0, .rw, 1⟩]⟩,
  ⟨"AGE_SEL", 0x10, 1, 0,
    [⟨15, 12, .rw, 1⟩, ⟨7, 0, .rw, 0⟩]⟩,
  ⟨"AGE_MARGIN", 0x18, 1, 0,
    [⟨63, 48, .ro, 0⟩, ⟨47, 40, .ro, 0⟩, ⟨31, 0, .ro, 0⟩]⟩,
  ⟨"AGE_RATE", 0x20, 1, 0,
    [⟨31, 0, .ro, 0⟩]⟩,
  ⟨"AGE_DAYS", 0x28, 1, 0,
    [⟨63, 48, .ro, 0xffff⟩, ⟨47, 32, .ro, 0xffff⟩, ⟨31, 16, .ro, 0xffff⟩, ⟨0, 0, .ro, 0⟩]⟩]
/-- Registers of block AGE_, part 1. -/
def regsAGE1 : List RegDef := [
  ⟨"AGE_WORST", 0x30, 1, 0,
    [⟨63, 48, .ro, 0xffff⟩, ⟨47, 44, .ro, 0⟩, ⟨43, 36, .ro, 0⟩]⟩,
  ⟨"AGE_ERR", 0x38, 1, 0,
    [⟨1, 0, .w1c, 0⟩]⟩]
/-- Every register of block AGE_. -/
def regsAGE : List RegDef := regsAGE0 ++ regsAGE1
/-- Registers of block SEC_, part 0. -/
def regsSEC0 : List RegDef := [
  ⟨"SEC_ID", 0x0, 1, 0,
    [⟨23, 16, .ro, 1⟩, ⟨15, 0, .ro, 0x5345⟩]⟩,
  ⟨"SEC_CTRL", 0x8, 1, 0,
    [⟨4, 0, .rw, 0x1f⟩]⟩,
  ⟨"SEC_STATUS", 0x10, 1, 0,
    [⟨15, 12, .ro, 0⟩, ⟨11, 8, .ro, 0⟩, ⟨7, 7, .ro, 0⟩, ⟨6, 6, .ro, 0⟩]⟩,
  ⟨"SEC_VERSION", 0x18, 1, 0,
    [⟨63, 32, .ro, 0⟩, ⟨31, 0, .ro, 0⟩]⟩,
  ⟨"SEC_SIGN_NEXT", 0x20, 1, 0,
    [⟨39, 0, .ro, 0⟩]⟩,
  ⟨"SEC_SIGN_END", 0x28, 1, 0,
    [⟨39, 0, .ro, 0⟩]⟩]
/-- Registers of block SEC_, part 1. -/
def regsSEC1 : List RegDef := [
  ⟨"SEC_ERR", 0x30, 1, 0,
    [⟨3, 0, .w1c, 0⟩]⟩,
  ⟨"SEC_RCV_CTRL", 0x100, 1, 0,
    [⟨63, 32, .rw, 0⟩, ⟨1, 0, .wo, 0⟩]⟩,
  ⟨"SEC_RCV_STATUS", 0x108, 1, 0,
    [⟨16, 16, .ro, 0⟩, ⟨15, 0, .ro, 0⟩]⟩]
/-- Every register of block SEC_. -/
def regsSEC : List RegDef := regsSEC0 ++ regsSEC1
/-- Registers of block MOD_, part 0. -/
def regsMOD0 : List RegDef := [
  ⟨"MOD_ID", 0x0, 1, 0,
    [⟨23, 16, .ro, 1⟩, ⟨15, 0, .ro, 0x4d44⟩]⟩,
  ⟨"MOD_PINS", 0x8, 1, 0,
    [⟨10, 8, .ro, 0⟩, ⟨7, 7, .ro, 0⟩, ⟨6, 6, .ro, 0⟩, ⟨5, 5, .ro, 0⟩, ⟨4, 4, .ro, 0⟩, ⟨3, 3, .ro, 0⟩, ⟨2, 2, .ro, 0⟩, ⟨1, 1, .ro, 0⟩]⟩,
  ⟨"MOD_INPUT", 0x10, 1, 0,
    [⟨31, 16, .ro, 0⟩, ⟨15, 0, .ro, 0⟩]⟩,
  ⟨"MOD_SMB", 0x18, 1, 0,
    [⟨2, 1, .ro, 0⟩, ⟨0, 0, .rw, 0⟩]⟩,
  ⟨"MOD_ERR", 0x20, 1, 0,
    [⟨2, 0, .w1c, 0⟩]⟩]
/-- Every register of block MOD_. -/
def regsMOD : List RegDef := regsMOD0
/-- Registers of block ARY_, part 0. -/
def regsARY0 : List RegDef := [
  ⟨"ARY_ID", 0x0, 1, 0,
    [⟨47, 32, .ro, 0x60⟩, ⟨31, 24, .ro, 0⟩, ⟨23, 16, .ro, 1⟩, ⟨15, 0, .ro, 0x4159⟩]⟩,
  ⟨"ARY_CTRL", 0x8, 1, 0,
    [⟨7, 7, .wo, 0⟩, ⟨3, 3, .rw, 1⟩, ⟨2, 2, .rw, 1⟩, ⟨1, 1, .rw, 0⟩]⟩,
  ⟨"ARY_WDOG_LIMIT", 0x10, 1, 0,
    [⟨31, 0, .ro, 0x20f58⟩]⟩,
  ⟨"ARY_ECC_CNT", 0x18, 1, 0,
    [⟨63, 32, .ro, 0⟩, ⟨31, 0, .ro, 0⟩]⟩,
  ⟨"ARY_ERR_0", 0x20, 1, 0,
    [⟨63, 0, .w1c, 0⟩]⟩,
  ⟨"ARY_ERR_1", 0x28, 1, 0,
    [⟨31, 0, .w1c, 0⟩]⟩]
/-- Registers of block ARY_, part 1. -/
def regsARY1 : List RegDef := [
  ⟨"ARY_STATUS_n", 0x1000, 96, 0x40,
    [⟨39, 24, .ro, 0⟩, ⟨23, 20, .ro, 1⟩, ⟨19, 16, .ro, 0⟩, ⟨0, 0, .ro, 0⟩]⟩,
  ⟨"ARY_CFGBUF_n", 0x1008, 96, 0x40,
    [⟨47, 32, .ro, 0⟩, ⟨31, 16, .ro, 0⟩, ⟨11, 8, .ro, 0⟩, ⟨7, 0, .ro, 0⟩]⟩,
  ⟨"ARY_TILE_n", 0x1010, 96, 0x40,
    [⟨63, 48, .ro, 0⟩, ⟨47, 0, .ro, 0⟩]⟩,
  ⟨"ARY_FLAGS_n", 0x1018, 96, 0x40,
    [⟨5, 5, .ro, 0⟩, ⟨4, 4, .ro, 0⟩, ⟨3, 3, .ro, 0⟩, ⟨2, 2, .ro, 0⟩, ⟨1, 1, .ro, 0⟩, ⟨0, 0, .ro, 0⟩]⟩,
  ⟨"ARY_ISSUE_n", 0x1020, 96, 0x40,
    [⟨63, 0, .ro, 0⟩]⟩,
  ⟨"ARY_BUBBLE_n", 0x1028, 96, 0x40,
    [⟨63, 0, .ro, 0⟩]⟩]
/-- Registers of block ARY_, part 2. -/
def regsARY2 : List RegDef := [
  ⟨"ARY_STALL_n", 0x1030, 96, 0x40,
    [⟨63, 32, .ro, 0⟩, ⟨31, 0, .ro, 0⟩]⟩,
  ⟨"ARY_WDOG_n", 0x1038, 96, 0x40,
    [⟨63, 48, .ro, 0⟩, ⟨47, 0, .ro, 0⟩]⟩]
/-- Every register of block ARY_. -/
def regsARY : List RegDef := regsARY0 ++ regsARY1 ++ regsARY2
/-- Registers of block SCD_, part 0. -/
def regsSCD0 : List RegDef := [
  ⟨"SCD_ID", 0x0, 1, 0,
    [⟨47, 32, .ro, 4⟩, ⟨31, 24, .ro, 0⟩, ⟨23, 16, .ro, 1⟩, ⟨15, 0, .ro, 0x5343⟩]⟩,
  ⟨"SCD_CTRL", 0x8, 1, 0,
    [⟨7, 7, .wo, 0⟩, ⟨2, 2, .rw, 1⟩, ⟨1, 1, .rw, 0⟩, ⟨0, 0, .rw, 1⟩]⟩,
  ⟨"SCD_MAINT", 0x10, 1, 0,
    [⟨3, 0, .wo, 0⟩]⟩,
  ⟨"SCD_MAINT_RANGE", 0x18, 1, 0,
    [⟨63, 40, .rw, 0⟩, ⟨39, 16, .rw, 0⟩]⟩,
  ⟨"SCD_MAINT_STATUS", 0x20, 1, 0,
    [⟨63, 32, .ro, 0⟩, ⟨0, 0, .ro, 0⟩]⟩,
  ⟨"SCD_ECC_CNT", 0x28, 1, 0,
    [⟨63, 32, .ro, 0⟩, ⟨31, 0, .ro, 0⟩]⟩]
/-- Registers of block SCD_, part 1. -/
def regsSCD1 : List RegDef := [
  ⟨"SCD_ERR", 0x30, 1, 0,
    [⟨7, 4, .w1c, 0⟩, ⟨3, 3, .w1c, 0⟩, ⟨2, 2, .w1c, 0⟩]⟩,
  ⟨"SCD_SLICE_STATUS_s", 0x1000, 4, 0x40,
    [⟨39, 20, .ro, 0⟩, ⟨19, 11, .ro, 0⟩, ⟨0, 0, .ro, 0⟩]⟩,
  ⟨"SCD_HIT_s", 0x1008, 4, 0x40,
    [⟨63, 0, .ro, 0⟩]⟩,
  ⟨"SCD_MISS_s", 0x1010, 4, 0x40,
    [⟨63, 0, .ro, 0⟩]⟩,
  ⟨"SCD_WB_s", 0x1018, 4, 0x40,
    [⟨63, 0, .ro, 0⟩]⟩,
  ⟨"SCD_LAST_DISCARD_s", 0x1020, 4, 0x40,
    [⟨63, 0, .ro, 0⟩]⟩]
/-- Registers of block SCD_, part 2. -/
def regsSCD2 : List RegDef := [
  ⟨"SCD_ATOM_s", 0x1028, 4, 0x40,
    [⟨63, 0, .ro, 0⟩]⟩,
  ⟨"SCD_BP_s", 0x1030, 4, 0x40,
    [⟨63, 0, .ro, 0⟩]⟩]
/-- Every register of block SCD_. -/
def regsSCD : List RegDef := regsSCD0 ++ regsSCD1 ++ regsSCD2
/-- Registers of block SKM_, part 0. -/
def regsSKM0 : List RegDef := [
  ⟨"SKM_ID", 0x0, 1, 0,
    [⟨31, 24, .ro, 0⟩, ⟨23, 16, .ro, 1⟩, ⟨15, 0, .ro, 0x534b⟩]⟩,
  ⟨"SKM_CTRL", 0x8, 1, 0,
    [⟨7, 7, .wo, 0⟩, ⟨0, 0, .rw, 0⟩]⟩,
  ⟨"SKM_ERR", 0x10, 1, 0,
    [⟨1, 1, .w1c, 0⟩, ⟨0, 0, .w1c, 0⟩]⟩,
  ⟨"SKM_FRONT_s", 0x1000, 4, 0x20,
    [⟨17, 9, .ro, 0⟩, ⟨8, 0, .ro, 0⟩]⟩,
  ⟨"SKM_READ_s", 0x1008, 4, 0x20,
    [⟨63, 0, .ro, 0⟩]⟩,
  ⟨"SKM_WRITE_s", 0x1010, 4, 0x20,
    [⟨63, 0, .ro, 0⟩]⟩]
/-- Registers of block SKM_, part 1. -/
def regsSKM1 : List RegDef := [
  ⟨"SKM_BP_s", 0x1018, 4, 0x20,
    [⟨63, 0, .ro, 0⟩]⟩,
  ⟨"SKM_CHAN_k", 0x2000, 6, 0x8,
    [⟨15, 11, .ro, 0⟩, ⟨4, 0, .ro, 0⟩]⟩]
/-- Every register of block SKM_. -/
def regsSKM : List RegDef := regsSKM0 ++ regsSKM1
/-- Registers of block STK_, part 0. -/
def regsSTK0 : List RegDef := [
  ⟨"STK_ID", 0x0, 1, 0,
    [⟨47, 32, .ro, 0x14⟩, ⟨31, 24, .ro, 0⟩, ⟨23, 16, .ro, 1⟩, ⟨15, 0, .ro, 0x5354⟩]⟩,
  ⟨"STK_CTRL", 0x8, 1, 0,
    [⟨7, 7, .wo, 0⟩, ⟨3, 3, .rw, 1⟩, ⟨2, 2, .rw, 0⟩, ⟨1, 1, .rw, 0⟩]⟩,
  ⟨"STK_CONFIG", 0x10, 1, 0,
    [⟨15, 12, .ro, 0⟩, ⟨11, 8, .ro, 0⟩, ⟨1, 0, .ro, 0⟩]⟩,
  ⟨"STK_STATUS", 0x18, 1, 0,
    [⟨15, 12, .ro, 0⟩, ⟨11, 11, .ro, 0⟩]⟩,
  ⟨"STK_REFRESH", 0x20, 1, 0,
    [⟨63, 32, .ro, 0⟩, ⟨7, 4, .ro, 0⟩]⟩,
  ⟨"STK_SCRUB_CTRL", 0x28, 1, 0,
    [⟨8, 8, .rw, 1⟩, ⟨7, 0, .rw, 0x18⟩]⟩]
/-- Registers of block STK_, part 1. -/
def regsSTK1 : List RegDef := [
  ⟨"STK_SCRUB_STATUS", 0x30, 1, 0,
    [⟨63, 32, .ro, 0⟩, ⟨31, 16, .ro, 0⟩, ⟨15, 0, .ro, 0⟩]⟩,
  ⟨"STK_CE_CNT", 0x38, 1, 0,
    [⟨63, 0, .ro, 0⟩]⟩,
  ⟨"STK_UE_CNT", 0x40, 1, 0,
    [⟨63, 32, .ro, 0⟩, ⟨31, 0, .ro, 0⟩]⟩,
  ⟨"STK_LAST_UE", 0x48, 1, 0,
    [⟨26, 22, .ro, 0⟩, ⟨21, 16, .ro, 0⟩, ⟨15, 1, .ro, 0⟩, ⟨0, 0, .ro, 0⟩]⟩,
  ⟨"STK_MERGE", 0x50, 1, 0,
    [⟨63, 32, .ro, 0⟩, ⟨31, 16, .ro, 0⟩, ⟨15, 8, .ro, 0⟩, ⟨7, 0, .ro, 0⟩]⟩,
  ⟨"STK_RETIRED", 0x58, 1, 0,
    [⟨31, 16, .ro, 0⟩, ⟨15, 0, .ro, 0⟩]⟩]
/-- Registers of block STK_, part 2. -/
def regsSTK2 : List RegDef := [
  ⟨"STK_ERR", 0x60, 1, 0,
    [⟨4, 4, .w1c, 0⟩, ⟨3, 3, .w1c, 0⟩, ⟨2, 2, .w1c, 0⟩, ⟨1, 1, .w1c, 0⟩, ⟨0, 0, .w1c, 0⟩]⟩]
/-- Every register of block STK_. -/
def regsSTK : List RegDef := regsSTK0 ++ regsSTK1 ++ regsSTK2
/-- Registers of block TRW_, part 0. -/
def regsTRW0 : List RegDef := [
  ⟨"TRW_ID", 0x0, 1, 0,
    [⟨31, 22, .ro, 0⟩, ⟨21, 21, .ro, 0⟩, ⟨19, 16, .ro, 1⟩, ⟨15, 0, .ro, 0x5457⟩]⟩,
  ⟨"TRW_CTRL", 0x4, 1, 0,
    [⟨15, 8, .rw, 0⟩, ⟨3, 3, .rw, 0⟩, ⟨2, 2, .wo, 0⟩, ⟨1, 1, .wo, 0⟩, ⟨0, 0, .wo, 0⟩]⟩,
  ⟨"TRW_STATUS", 0x8, 1, 0,
    [⟨31, 28, .ro, 0⟩, ⟨27, 24, .ro, 0⟩, ⟨23, 16, .ro, 0⟩, ⟨3, 3, .ro, 1⟩, ⟨2, 2, .ro, 1⟩, ⟨1, 1, .ro, 0⟩, ⟨0, 0, .ro, 0⟩]⟩,
  ⟨"TRW_SPAN", 0xc, 1, 0,
    [⟨11, 0, .rw, 0⟩]⟩,
  -- a descriptor's bits [15:10] read zero in a register (Table 2.2)
  ⟨"TRW_FMT", 0x10, 1, 0,
    [⟨25, 16, .rw, 0⟩, ⟨9, 0, .rw, 0⟩]⟩,
  ⟨"TRW_QFMT", 0x14, 1, 0,
    [⟨9, 0, .rw, 0⟩]⟩]
/-- Registers of block TRW_, part 1. -/
def regsTRW1 : List RegDef := [
  ⟨"TRW_SEED_LO", 0x18, 1, 0,
    [⟨31, 0, .rw, 0⟩]⟩,
  ⟨"TRW_SEED_HI", 0x1c, 1, 0,
    [⟨31, 0, .rw, 0⟩]⟩,
  ⟨"TRW_SEQ", 0x20, 1, 0,
    [⟨31, 0, .rw, 0⟩]⟩,
  ⟨"TRW_TAG", 0x24, 1, 0,
    [⟨31, 0, .rw, 0⟩]⟩,
  ⟨"TRW_FLAGS", 0x28, 1, 0,
    [⟨6, 6, .ro, 0⟩, ⟨5, 0, .ro, 0⟩]⟩,
  ⟨"TRW_ERR", 0x2c, 1, 0,
    [⟨5, 5, .w1c, 0⟩, ⟨4, 4, .w1c, 0⟩, ⟨3, 3, .w1c, 0⟩, ⟨2, 2, .w1c, 0⟩, ⟨1, 1, .w1c, 0⟩, ⟨0, 0, .w1c, 0⟩]⟩]
/-- Registers of block TRW_, part 2. -/
def regsTRW2 : List RegDef := [
  ⟨"TRW_RUNS", 0x30, 1, 0,
    [⟨31, 0, .ro, 0⟩]⟩,
  ⟨"TRW_KILLS", 0x34, 1, 0,
    [⟨31, 0, .ro, 0⟩]⟩,
  ⟨"TRW_REFRESH", 0x38, 1, 0,
    [⟨31, 8, .ro, 0⟩, ⟨7, 4, .ro, 0⟩, ⟨3, 0, .ro, 0⟩]⟩,
  ⟨"TRW_DEFER", 0x3c, 1, 0,
    [⟨9, 0, .ro, 0⟩]⟩,
  ⟨"TRW_PARAM_i", 0x40, 16, 0x4,
    [⟨15, 0, .rw, 0⟩]⟩]
/-- Every register of block TRW_. -/
def regsTRW : List RegDef := regsTRW0 ++ regsTRW1 ++ regsTRW2
/-- Registers of block RDC_, part 0. -/
def regsRDC0 : List RegDef := [
  ⟨"STK_RDC_JOB", 0x0, 1, 0,
    [⟨63, 60, .wo, 0⟩, ⟨59, 54, .wo, 0⟩, ⟨53, 48, .wo, 0⟩, ⟨47, 42, .wo, 0⟩, ⟨41, 41, .wo, 0⟩, ⟨40, 32, .wo, 0⟩, ⟨31, 16, .wo, 0⟩]⟩,
  ⟨"STK_RDC_STATUS", 0x8, 1, 0,
    [⟨47, 16, .ro, 0⟩, ⟨12, 8, .ro, 0⟩, ⟨3, 0, .ro, 0⟩]⟩,
  ⟨"STK_RDC_SLOTS", 0x10, 1, 0,
    [⟨63, 0, .ro, 0⟩]⟩,
  ⟨"STK_RDC_PARAM", 0x18, 1, 0,
    [⟨63, 32, .rw, 0⟩, ⟨31, 0, .rw, 0⟩]⟩,
  ⟨"STK_RDC_ERR", 0x20, 1, 0,
    [⟨2, 2, .w1c, 0⟩, ⟨1, 1, .w1c, 0⟩, ⟨0, 0, .w1c, 0⟩]⟩]
/-- Every register of block RDC_. -/
def regsRDC : List RegDef := regsRDC0

/-- The block of an address: its registers and the offset in it. -/
def blockAt (a : Nat) : List RegDef × Nat :=
  if a < 0x110000 then
    let o := a % 0x10000
    match a / 0x10000 with
    | 0 => (regsHUB, o) | 1 => (regsPCI, o) | 2 => (regsDMA, o) | 3 => (regsITN, o) | 4 => (regsFAB, o)
    | 5 => (regsLDG, o) | 6 => (regsPFX, o) | 7 => (regsSMP, o) | 8 => (regsSTN, o) | 9 => (regsDEP, o)
    | 10 => (regsPWR, o) | 11 => (regsTHM, o) | 12 => (regsCOL, o) | 13 => (regsHLD, o)
    | 14 => (regsAGE, o) | 15 => (regsSEC, o) | _ => (regsMOD, o)
  else if 0x200000 ≤ a ∧ a < 0x220000 then (regsARY, a % 0x10000)
  else if 0x220000 ≤ a ∧ a < 0x240000 then (regsSCD, a % 0x10000)
  else if 0x240000 ≤ a ∧ a < 0x260000 then (regsSKM, a % 0x10000)
  else if 0xF000000000 ≤ a then
    let o := (a - 0xF000000000) % 0x100000000
    if o < 0x10000 then (regsSTK, o)
    else if 0x1000000 ≤ o ∧ o < 0x1000000 + 640 * 0x1000 then (regsTRW, o % 0x1000)
    else if 0x2000000 ≤ o ∧ o < 0x2008000 then (regsRDC, o - 0x2000000)
    else ([], o)
  else ([], a)

/-- Whether offset `o` is an instance of a register. -/
def RegDef.at? (d : RegDef) (o : Nat) : Bool :=
  if d.n ≤ 1 then o == d.off
  else decide (d.off ≤ o) && (o - d.off) % d.stride == 0 && decide ((o - d.off) / d.stride < d.n)

/-- The register at an address; none where no register lies there (R13). -/
def regAt (a : Nat) : Option RegDef :=
  let b := blockAt a
  b.1.find? fun d => d.at? b.2

/-- The bits of a field as a mask. -/
def RField.mask (f : RField) : Nat := (2 ^ (f.hi + 1 - f.lo) - 1) * 2 ^ f.lo
/-- The mask of every field with an access code. -/
def RegDef.mask (d : RegDef) (a : Acc) : Nat :=
  d.fields.foldl (fun m f => if f.acc = a then m ||| f.mask else m) 0
/-- The mask of every defined field. -/
def RegDef.defined (d : RegDef) : Nat := d.fields.foldl (fun m f => m ||| f.mask) 0
/-- The value given by the Reset column. -/
def RegDef.resetVal (d : RegDef) : Nat := d.fields.foldl (fun m f => m ||| (f.reset * 2 ^ f.lo)) 0

/-- What a write leaves in a register under its access codes (R11): RW bits take the written value, W1C bits
are cleared by 1, W1S bits set by 1, RO and reserved bits keep theirs, WO bits read zero. -/
def RegDef.afterWrite (d : RegDef) (old v : Nat) : Nat :=
  let rw := d.mask .rw
  let kept := (old ^^^ (old &&& rw)) ||| (v &&& rw)
  let cleared := kept ^^^ (kept &&& v &&& d.mask .w1c)
  cleared ||| (v &&& d.mask .w1s)

/-- Whether a written value has a nonzero reserved bit. -/
def RegDef.reservedSet (d : RegDef) (v : Nat) : Bool := v &&& d.defined != v

end Sys2Proof.Machine
end

