-- ==== Sys2Proof/Machine/Ops.lean ====
section
/-!
DEFINITION. The named operations over the state that every family shares: registers, free values, the
depot's operations and its producers (log records, alarms), events, and status replies.
-/
namespace Sys2Proof.Machine

/-! ### Registers (R11, R13, R14) -/

/-- The reset value of a register, with the columns that the tables give by name: the die, stack and trowel
indices, the variant's figures, the check sets' initial values. -/
def regReset (v : Variant) (a : Nat) : Nat :=
  let o := (a - 0xF000000000) % 0x100000000
  let k := (a - 0xF000000000) / 0x100000000
  let d := match regAt a with | some d => d.resetVal | none => 0
  if a = Reg.ARY_ID 1 ∨ a = Reg.SCD_ID 1 ∨ a = Reg.SKM_ID 1 then setBits d 24 8 1
  else if a = Reg.PWR_PRESENT then (match v with | .pm960 => 0xFFFFFFFFFFFFFFFF | .pm480 => 0xFF000FFFFFFFFFFF)
  else if 0x021000 ≤ a ∧ a < 0x021400 ∧ (a - 0x021000) % 0x20 = 8 then 0xFFFFFFFF
  else if 0xF000000000 ≤ a then
    if o = 0 then setBits d 24 8 k
    else if o = 0x10 then (match v with | .pm960 => 0x1C00 | .pm480 => 0x2600)
    else if 0x1000000 ≤ o ∧ o < 0x1000000 + 640 * 0x1000 ∧ o % 0x1000 = 0 then setBits d 22 10 ((o - 0x1000000) / 0x1000)
    else d
  else d

/-- The stored value of a register. -/
def reg (s : State) (a : Nat) : Nat := (mgetD (BitVec.ofNat 64 (regReset s.variant a)) s.regs a).toNat

/-- A register given a value. -/
def setReg (s : State) (a v : Nat) : State :=
  { s with regs := mput (BitVec.ofNat 64 (regReset s.variant a)) s.regs a (BitVec.ofNat 64 v) }

/-- A field of a register. -/
def regField (s : State) (a lo w : Nat) : Nat := bitsOf (reg s a) lo w
/-- A register with a field replaced. -/
def setField (s : State) (a lo w v : Nat) : State := setReg s a (setBits (reg s a) lo w v)
/-- A bit of a register. -/
def regBit (s : State) (a i : Nat) : Bool := bitAt (reg s a) i
/-- A bit of a register set: how a block records an error (W1C clears it). -/
def setRegBit (s : State) (a i : Nat) : State := setField s a i 1 1
/-- A counter field advanced, saturating. -/
def bump (s : State) (a lo w n : Nat) : State := setField s a lo w (min (regField s a lo w + n) (2 ^ w - 1))
/-- A high-water field raised. -/
def raiseTo (s : State) (a lo w n : Nat) : State := setField s a lo w (max (regField s a lo w) (min n (2 ^ w - 1)))
/-- A write under the access codes and reserved-field rule of R11 and R13. -/
def plainWrite (s : State) (a v : Nat) : State :=
  match regAt a with
  | some d => setReg s a (d.afterWrite (reg s a) v)
  | none => s

/-- Several registers zeroed. -/
def zeroRegs (s : State) (as : List Nat) : State := as.foldl (fun s a => setReg s a 0) s

/-! ### What leaves the module -/

/-- A message, value or level leaves the module. -/
def emit (s : State) (o : Out) : State := { s with outbox := o :: s.outbox }

/-- A free value: the next value that the spec leaves undefined. -/
def freeVal (s : State) : Nat × State := ((Config.freeWord s.freeCtr).toNat, { s with freeCtr := s.freeCtr + 1 })

/-- `n` free bytes. -/
def freeBytes (s : State) : Nat → List Byte × State
  | 0 => ([], s)
  | n + 1 =>
    let r := freeVal s
    let t := freeBytes r.2 n
    (BitVec.ofNat 8 r.1 :: t.1, t.2)

/-! ### Shared engines (R25) -/

/-- The rank to serve next in a round: the lowest above the last one served, else the lowest of the next round; before
the first service the lowest. -/
def nextInRound (last : Option Nat) (ranks : List Nat) : Option Nat :=
  let more := match last with
    | some l => (ranks.filter fun i => l < i).min?
    | none => none
  match more with
  | some i => some i
  | none => ranks.min?

/-- The rank of a request within a round: ascending issuer index, and among the hub requesters, from issuer 192, the
requests that slots own first, in slot order (R25, R148). DEDUCED: the place of the slots' requests before the other
hub requesters' is the model's reading of "within the hub range". -/
def rankOf (issuer : Nat) (slot : Option Nat) : Nat :=
  match slot with
  | some n => 192 * 4096 + n % 4096
  | none => issuer * 4096 + 4095

/-- The last rank served by a shared engine's queue. -/
def servedAt (s : State) (key : Nat) : Option Nat := mget s.scr.served key
/-- A rank served. -/
def setServed (s : State) (key r : Nat) : State := { s with scr := { s.scr with served := mset s.scr.served key r } }

/-! ### Stacks and geometry -/

/-- The number of stacks (Table 0.1). -/
def stackCount (s : State) : Nat := s.variant.stks

/-- Stack k's own state. -/
def stackAt (s : State) (k : Nat) : Stack := nth s.mem.stks k Stack.reset

/-- Stack k changed. -/
def modStack (s : State) (k : Nat) (f : Stack → Stack) : State :=
  { s with mem := { s.mem with stks := s.mem.stks.modify k f } }

/-! ### Depot operations (Table 15.1) -/

/-- The limits of Table 15.2. The quartermaster's internal queues share 7,680 cells as firmware sets them:
DESIGN CHOICE, all to queue 0x32. -/
def queueLimit0 (q : Nat) : Nat :=
  if q = 0 then 2048
  else if 0x08 ≤ q ∧ q ≤ 0x0F then 512
  else if 0x10 ≤ q ∧ q ≤ 0x17 then 4096
  else if 0x20 ≤ q ∧ q ≤ 0x27 then 2048
  else if q = 0x30 then 2048
  else if q = 0x31 then 512
  else if q = 0x32 then 7680
  else 0

/-- DEP_QCFG.policy: 0 ALARM, 1 WAIT, 2 LOG, 3 TRACE (Table 15.2). -/
def queuePolicy (q : Nat) : Nat :=
  if q = 0 then 0
  else if 0x08 ≤ q ∧ q ≤ 0x0F then 1
  else if 0x10 ≤ q ∧ q ≤ 0x17 ∨ q = 0x30 ∨ q = 0x31 then 2
  else if 0x20 ≤ q ∧ q ≤ 0x27 then 3
  else if 0x32 ≤ q then 1
  else 0

/-- A queue after reset. -/
def queue0 (q : Nat) : DQueue :=
  { cells := [], limit := queueLimit0 q, epoch := 0, hwm := 0, dropWords := 0, dropRecords := 0, parityFails := 0,
    generated := 0, s := 0, bodyLeft := 0, owed := 0, owedFlush := false, dropping := false }

/-- Depot queue q. -/
def queueAt (s : State) (q : Nat) : DQueue := mgetD (queue0 q) s.dep.queues q
/-- Depot queue q replaced. -/
def setQueue (s : State) (q : Nat) (d : DQueue) : State :=
  { s with dep := { s.dep with queues := mput (queue0 q) s.dep.queues q d } }

/-- Even parity of a word, its valid tag and its poison tag (R581). -/
def cellParity (w : W32) (valid poison : Bool) : Bool :=
  ((List.range 32).foldl (fun p i => p != w.getLsbD i) false) != (valid != poison)

/-- A cell as PUSH writes it. -/
def mkCell (w : Nat) (poison : Bool) : DCell :=
  { word := BitVec.ofNat 32 w, valid := true, poison := poison, parity := cellParity (BitVec.ofNat 32 w) true poison }

/-- What a PUSH answers. -/
inductive PushResult where
  | ok | stale | full
  deriving DecidableEq, Repr

/-- Append cells without any check, keeping the high-water mark. -/
def appendCells (d : DQueue) (cs : List DCell) : DQueue :=
  let cells := d.cells ++ cs
  { d with cells := cells, hwm := max d.hwm cells.length }

/-- PUSH (Table 15.1): one cell, only when the epoch is the queue's and the depth is below the limit. -/
def depPush (s : State) (q w : Nat) (poison : Bool) (epoch : Nat) : PushResult × State :=
  let d := queueAt s q
  if epoch ≠ d.epoch then (.stale, s)
  else if s.dep.fault ∨ d.limit ≤ d.cells.length then (.full, s)
  else (.ok, setQueue s q (appendCells d [mkCell w poison]))

/-- POP (Table 15.1, R581): the head cell's word, valid tag and poison tag; a cell that fails its parity check
delivers its word poisoned. -/
def depPop (s : State) (q : Nat) : (Nat × Bool × Bool) × State :=
  let d := queueAt s q
  match d.cells with
  | [] => ((0, false, false), s)
  | c :: cs =>
    if c.parity = cellParity c.word c.valid c.poison then
      ((c.word.toNat, c.valid, c.poison), setQueue s q { d with cells := cs })
    else
      ((c.word.toNat, c.valid, true),
       setRegBit (setQueue s q { d with cells := cs, parityFails := min (d.parityFails + 1) 0xFFFF }) Reg.DEP_ERR 1)

/-- FLUSH (Table 15.1): every cell back to the free list, the flush epoch advanced. -/
def depFlush (s : State) (q : Nat) : State :=
  let d := queueAt s q
  setQueue s q { d with cells := [], epoch := (d.epoch + 1) % 2 ^ 16, owedFlush := true }

/-- The record header word (Table 15.3). -/
def recHeader (type source kind aux len : Nat) : Nat :=
  type * 2 ^ 28 + (source % 256) * 2 ^ 20 + (kind % 256) * 2 ^ 12 + (aux % 16) * 2 ^ 8 + len % 256

/-- The gap word (R592). -/
def gapWord (flush : Bool) (records : Nat) : Nat :=
  0x40000000 + b2n flush * 2 ^ 27 + min records 0x7FFFF * 2 ^ 8

/-! ### Status replies (R454, R455, R460 to R462) -/

/-- Submission queue n. -/
def sqAt (s : State) (n : Nat) : Option SQueue := mget s.cmd.sqs n
/-- Completion queue n. -/
def cqAt (s : State) (n : Nat) : Option CQueue := mget s.cmd.cqs n
/-- Submission queue n replaced. -/
def setSq (s : State) (n : Nat) (q : SQueue) : State := { s with cmd := { s.cmd with sqs := mset s.cmd.sqs n q } }
/-- Completion queue n replaced. -/
def setCq (s : State) (n : Nat) (q : CQueue) : State := { s with cmd := { s.cmd with cqs := mset s.cmd.cqs n q } }

/-- The 32 bytes of a reply (Table 12.2). -/
def replyBytes (r : Reply) (phase : Bool) (sqHead : Nat) : List Byte :=
  leBytes 4 r.tag.toNat ++ leBytes 2 r.status
  ++ leBytes 2 (b2n phase * 2 ^ 15 + b2n r.poison * 2 ^ 14 + r.flags.bits * 2 ^ 8 + r.sq % 256)
  ++ leBytes 8 r.result ++ leBytes 2 (sqHead % 2 ^ 12) ++ leBytes 2 r.c3
  ++ leBytes 4 r.c0 ++ leBytes 4 r.c1 ++ leBytes 4 r.c2

/-- The message of a vector sent, with the address and data of its table entry. -/
def emitMsix (s : State) (fn vec : Nat) : State :=
  let k := (fn * 256 + vec) * 2
  emit s (.msix fn vec (mgetD 0 s.pci.msixMsg k) ((mgetD 0 s.pci.msixMsg (k + 1)).setWidth 32))

/-- An MSI-X message of a function's vector: sent, or held in its pending bit while masked (R523). -/
def sendMsix (s : State) (fn vec : Nat) : State :=
  if s.pci.msixMask.contains (fn * 256 + vec) then
    { s with pci := { s.pci with msixPend := if s.pci.msixPend.contains (fn * 256 + vec) then s.pci.msixPend
                                              else s.pci.msixPend ++ [fn * 256 + vec] } }
  else emitMsix s fn vec

/-- Unread replies of a completion queue, whose indices run below its size. -/
def cqUnread (q : CQueue) : Nat := (q.widx + q.size - q.head) % q.size

/-- Whether a completion queue is full (R454). -/
def cqFull (q : CQueue) : Bool := decide (q.size - 1 ≤ cqUnread q)

/-- Write one reply into the next entry of a queue that has room; the phase inverts at the wrap (R455). -/
def writeReply (s : State) (n : Nat) (q : CQueue) (r : Reply) : State :=
  let head := match sqAt s r.sq with | some x => x.head | none => 0
  let wraps := q.widx + 1 = q.size
  let q' := { q with widx := if wraps then 0 else q.widx + 1, phase := if wraps then !q.phase else q.phase, last := some r }
  let s1 := setCq s n q'
  let s2 := emit s1 (.reply n q.widx (q.base + 32 * q.widx) (replyBytes r q.phase head))
  if r.quiet then s2 else sendMsix s2 q.fn q.vector

/-- Post a reply into a completion queue: written at once, or kept in order behind a full or failed queue. -/
def postReply (s : State) (n : Nat) (r : Reply) : State :=
  match cqAt s n with
  | none => s
  | some q =>
    if q.failed || !q.waiting.isEmpty || cqFull q then setCq s n { q with waiting := q.waiting ++ [r] }
    else writeReply s n q r

/-- Write waiting replies while the queue has room. -/
def drainReplies : Nat → State → Nat → State
  | 0, s, _ => s
  | k + 1, s, n =>
    match cqAt s n with
    | none => s
    | some q =>
      match q.waiting with
      | [] => s
      | r :: rs =>
        if q.failed || cqFull q then s
        else drainReplies k (writeReply s n { q with waiting := rs } r) n

/-- The completion queue that a submission queue is bound to. -/
def cqOf (s : State) (sq : Nat) : Nat := match sqAt s sq with | some q => q.cq | none => 0

/-! ### Events (R504, R505) -/

/-- Status DONE (Table 12.3). -/
def stDone : Nat := 0x0000

/-- A reply with a status and counts for a packet, no flags and no result. -/
def plainReply (p : Packet) (status c0 c1 c2 c3 : Nat) : Reply :=
  { sq := p.sq, tag := p.tag, status := status, flags := .none, poison := false, result := 0,
    c0 := c0, c1 := c1, c2 := c2, c3 := c3, quiet := bitAt p.flags.toNat 13 }

/-- Status DONE_LATE (Table 12.3). -/
def stDoneLate : Nat := 0x0001

/-- Whether a packet's deadline has passed (R458). -/
def pastDeadline (s : State) (p : Packet) : Bool :=
  let d := p.deadline.toNat
  d != 0 && (if bitAt p.flags.toNat 14 then decide (d < reg s Reg.PCI_HOST_TIME) else decide (d < s.bell))

/-- Deliver the oldest pending entry of a function to its oldest EVENT_WAIT, if both exist; it completes as any command
does past its deadline (R458). -/
def deliverEvent (s : State) (fn : Nat) : State :=
  match s.cmd.events.find? (fun e => e.fn = fn), s.cmd.inProg.find? (fun c => c.op = 0x0701 ∧ c.fn = fn) with
  | some e, some c =>
    let s1 := { s with cmd := { s.cmd with events := s.cmd.events.erase e, inProg := s.cmd.inProg.erase c } }
    postReply s1 (cqOf s1 c.pkt.sq) (plainReply c.pkt (if pastDeadline s c.pkt then stDoneLate else stDone) e.code e.inst e.count 0)
  | _, _ => s

/-- An occurrence of an event at one function: a new entry, or one more count of the pending one (R505). -/
def eventAt (s : State) (fn code inst : Nat) : State :=
  let es := s.cmd.events
  let es' :=
    if es.any (fun e => e.fn = fn ∧ e.code = code) then
      es.map fun e => if e.fn = fn ∧ e.code = code then { e with count := min (e.count + 1) (2 ^ 32 - 1) } else e
    else es ++ [{ fn := fn, code := code, inst := inst % 2 ^ 32, count := 1 }]
  deliverEvent { s with cmd := { s.cmd with events := es' } } fn

/-- An event for the physical function (R504). -/
def raiseEvent (s : State) (code inst : Nat) : State := eventAt s 0 code inst

/-- An event that names a context or queue also reaches the function that owns it (R504). -/
def raiseEventOwned (s : State) (owner code inst : Nat) : State :=
  let s1 := raiseEvent s code inst
  if owner = 0 then s1 else eventAt s1 owner code inst

/-- An event raised under an enable bit of a register. -/
def raiseIf (s : State) (a bit code inst : Nat) : State := if regBit s a bit then raiseEvent s code inst else s

/-- The work state changed, with its event (Table 12.7). -/
def workCode : Work → Nat
  | .cold => 0 | .configured => 1 | .loaded => 2 | .serving => 3 | .caravanLocked => 4 | .quiesced => 5
  | .maintenance => 6 | .fault => 7

/-- A change of HUB_CMD_STATUS.state raises STATE_CHANGED. -/
def setWork (s : State) (w : Work) : State :=
  if s.cmd.work = w then s
  else raiseEvent { s with cmd := { s.cmd with work := w } } 0x0003 (workCode w)

/-! ### Record producers (R590 to R592, R598, R599) -/

/-- Push one whole record of a LOG queue, with the gap word owed, or drop it whole (R590, R598). -/
def pushRecord (s : State) (q : Nat) (words : List Nat) : State :=
  let d := queueAt s q
  let gap := if d.owed ≠ 0 ∨ d.owedFlush then [gapWord d.owedFlush d.owed] else []
  let room := if s.dep.fault then 0 else d.limit - d.cells.length
  if words.length + gap.length ≤ room then
    setQueue s q (appendCells { d with owed := 0, owedFlush := false, dropping := false }
      ((gap ++ words).map fun w => mkCell w false))
  else
    let s1 := setQueue s q { d with owed := d.owed + 1, dropping := true,
                                    dropRecords := min (d.dropRecords + 1) 0xFFFFFF,
                                    dropWords := min (d.dropWords + words.length) 0xFFFFFF }
    if d.dropping then s1 else raiseIf s1 Reg.DEP_CTRL 1 0x00C1 q

/-- A log record with a body of four words (R677). -/
def logCond (s : State) (q source code inst detail : Nat) : State :=
  pushRecord s q [recHeader 1 source code 0 4, inst % 2 ^ 32, s.bell % 2 ^ 32, s.bell / 2 ^ 32 % 2 ^ 16, detail]

/-- An alarm is latched: a repeat of a latched pair, a new entry, or a wait while the latch is full (R593). It is
dated by its first occurrence: DEDUCED from the order in which the collector pushes the entries. -/
def raiseAlarm (s : State) (kind inst : Nat) : State :=
  if s.dep.latch.any (fun a => a.kind = kind ∧ a.inst = inst) then
    { s with dep := { s.dep with latch := s.dep.latch.map fun a =>
        if a.kind = kind ∧ a.inst = inst then { a with repeats := min (a.repeats + 1) 0xFFFF } else a } }
  else if s.dep.latch.length < 64 then
    { s with dep := { s.dep with latch := s.dep.latch ++ [{ kind := kind, inst := inst, repeats := 0, bell := s.bell }] } }
  else { s with dep := { s.dep with latchWait := s.dep.latchWait ++ [{ kind := kind, inst := inst, repeats := 0, bell := s.bell }] } }

/-- Words of the incident ring added, the oldest overwritten. After an alarm only so many more are kept until the ring
freezes (R595). -/
def ringPush (s : State) (ws : List Nat) : State :=
  let left := match s.dep.countdown with | some (t, b) => if b = 0 then 0 else t | none => ws.length
  if s.dep.frozen then s
  else
    let r := s.dep.ring ++ (ws.take left).map (BitVec.ofNat 32)
    { s with dep := { s.dep with ring := r.drop (r.length - 8192),
                                 countdown := s.dep.countdown.map fun c => (c.1 - ws.length, c.2) } }

/-- Decimation of a trace queue after its depth changed from `before` (R599). -/
def decimate (s : State) (q before : Nat) : State :=
  let d := queueAt s q
  let now := d.cells.length
  if 3 * d.limit < 4 * now ∧ ¬ 3 * d.limit < 4 * before ∧ d.s < 15 then
    raiseIf (setQueue s q { d with s := d.s + 1 }) Reg.DEP_CTRL 2 0x00C2 (q * 16 + (d.s + 1))
  else if 4 * now < d.limit ∧ ¬ 4 * before < d.limit ∧ 0 < d.s then
    raiseIf (setQueue s q { d with s := d.s - 1 }) Reg.DEP_CTRL 2 0x00C2 (q * 16 + (d.s - 1))
  else s

end Sys2Proof.Machine
end

