-- ==== Sys2Proof/Machine/Memory.lean ====
section
/-!
DEFINITION. The memory stacks (chapter 5): the interleave and private windows, bank reads and writes with
the check codes of both variants, error records, poison, quarantine, retirement, the merge buffer and the
write hold.
-/
namespace Sys2Proof.Machine

/-! ### Geometry (R170 to R182) -/

/-- A byte's place in the stacks. -/
structure Loc where
  stack : Nat
  die : Nat
  bank : Nat
  row : Nat
  byte : Nat
  deriving DecidableEq, Repr

/-- The channel of bank b of die d (R170). -/
def channelOf (d b : Nat) : Nat := (b + 8 * d) % 32

/-- Interleaved banks per channel (R176). -/
def nbOf (p : Nat) : Nat := 40 - 5 * p

/-- The banks of a channel in slot order: lower banks on dies 0 to 19, then upper ones, private ones
skipped (R176). -/
def slotBanks (ch p : Nat) : List (Nat × Nat) :=
  ([0, 1].flatMap fun h => (List.range 20).map fun d => (d, (ch + 160 - 8 * d) % 32 + 32 * h)).filter
    fun db => db.2 < 64 - 8 * p

/-- The top of the interleaved region (R177). -/
def interTop (st p : Nat) : Nat := 0x80000000 * (st * nbOf p)
/-- The end of the private window: the whole memory (§5.3). -/
def memTop (st : Nat) : Nat := 0x40000000 * (st * 80)
/-- The start of control space. -/
def ctlBase : Nat := 0xF000000000

/-- The location of an interleaved or private DPA (R176, R180, R181); none at and above the memory's top. -/
def locate (st p dpa : Nat) : Option Loc :=
  if dpa < interTop st p then
    let n := dpa / 0x10000
    let k := n % st
    let g := n / st
    let stack := k % 2 * (st / 2) + k / 2
    let ch := dpa / 256 % 32
    let byte := dpa / 0x2000 % 8 * 256 + dpa % 256
    let db := nth (slotBanks ch p) (g % nbOf p) (0, 0)
    some ⟨stack, db.1, db.2, g / nbOf p, byte⟩
  else if dpa < memTop st then
    let o := dpa - interTop st p
    let idx := o / 0x4000000
    let kd := idx / (8 * p)
    some ⟨kd / 20, kd % 20, 64 - 8 * p + idx % (8 * p), o / 2048 % 32768, o % 2048⟩
  else none

/-- The DPA of a location (the inverse of R176; R180, R181). -/
def dpaOf (st p : Nat) (l : Loc) : Nat :=
  if l.bank < 64 - 8 * p then
    let ch := channelOf l.die l.bank
    let slot := ((slotBanks ch p).findIdx? fun db => db = (l.die, l.bank)).getD 0
    let g := l.row * nbOf p + slot
    let k := 2 * (l.stack % (st / 2)) + l.stack / (st / 2)
    0x10000 * (g * st + k) + 0x2000 * (l.byte / 256) + 256 * ch + l.byte % 256
  else
    interTop st p + 0x4000000 * ((l.stack * 20 + l.die) * (8 * p) + (l.bank - (64 - 8 * p))) + 2048 * l.row + l.byte

/-- The physical byte address: stack, die, bank, row, byte. -/
def physOf (l : Loc) : Nat := 0x4000000 * ((l.stack * 20 + l.die) * 64 + l.bank) + 2048 * l.row + l.byte
/-- The location of a physical byte address. -/
def locOf (a : Nat) : Loc :=
  let b := a / 0x4000000
  ⟨b / 1280, b / 64 % 20, b % 64, a / 2048 % 32768, a % 2048⟩

/-- The location of a DPA in the present configuration. -/
def locateS (s : State) (dpa : Nat) : Option Loc := locate (stackCount s) s.mem.p dpa

/-- What a DPA names. -/
inductive Region where
  | interleaved | privateWin | unmapped | control | reservedCtl
  deriving DecidableEq, Repr

/-- The region of a DPA (R177, R180, R182, R183). -/
def regionOf (s : State) (dpa : Nat) : Region :=
  if dpa < interTop (stackCount s) s.mem.p then .interleaved
  else if dpa < memTop (stackCount s) then .privateWin
  else if dpa < ctlBase then .unmapped
  else if dpa < ctlBase + 0x100000000 * stackCount s then .control
  else .reservedCtl

/-- Whether a range of DPA is memory throughout (interleaved or private). -/
def memRange (s : State) (dpa len : Nat) : Bool := decide (dpa + len ≤ memTop (stackCount s))

/-! ### Check codes (R185, R186, R188, R190) -/

/-- Data bytes covered by one check field: 1 (Prasum 960) or 32 (Prasum 480). -/
def granuleBytes : Variant → Nat
  | .pm960 => 1 | .pm480 => 32
/-- Bits c of a check field: 4 or 9; the parity bit p lies above them. -/
def codeBits : Variant → Nat
  | .pm960 => 4 | .pm480 => 9
/-- Data bits covered by one check field. -/
def dataBits (v : Variant) : Nat := 8 * granuleBytes v

/-- Code position of data bit j: the (j+1)-th position from 3 that is no power of two. -/
def bitPos (j : Nat) : Nat :=
  (((List.range 13).map (· + j + 2)).find? fun p => p - p.log2 - 2 = j ∧ 2 ^ p.log2 ≠ p).getD 0

/-- Parity of the bits of a number below 2^16. -/
def parity16 (n : Nat) : Bool := (List.range 16).foldl (fun p i => p != n.testBit i) false

/-- The poison pattern XORed onto the correct check field (R190). -/
def poisonDiff : Variant → Nat
  | .pm960 => 0x1F | .pm480 => 0x1FF

/-- How flipping data bit j of a granule changes the XOR of the stored and the correct check field. -/
def dataFlipDiff (v : Variant) (j : Nat) : Nat :=
  let p := bitPos j
  p + (if parity16 p then 0 else 2 ^ codeBits v)

/-- The class of a check (Table 5.5). -/
inductive CheckClass where
  | clean
  /-- the check bit or parity bit is in error; `bit` as in R203 -/
  | checkBit (bit : Nat)
  /-- data bit j is inverted -/
  | dataBit (j : Nat)
  | stored
  | uncorrectable
  deriving DecidableEq, Repr

/-- Classify a check from the XOR of its stored and correct check fields: S is its c part, and the overall
parity differs exactly when its number of ones is odd. -/
def classify (v : Variant) (diff : Nat) : CheckClass :=
  let cb := codeBits v
  let sy := diff % 2 ^ cb
  let odd := parity16 diff
  let top := dataBits v + cb
  if sy = 0 then (if odd then .checkBit (dataBits v + cb) else .clean)
  else if !odd then .uncorrectable
  else if 2 ^ sy.log2 = sy then .checkBit (dataBits v + sy.log2)
  else if sy = 2 ^ cb - 1 then .stored
  else if sy ≤ top then .dataBit (sy - sy.log2 - 2)
  else .uncorrectable

/-- The syndrome field of an error record: [9] parity differs, [8:0] S (Table 5.7). -/
def syndromeField (v : Variant) (diff : Nat) : Nat :=
  diff % 2 ^ codeBits v + (if parity16 diff then 2 ^ 9 else 0)

/-! ### The stored bytes -/

/-- The stored data byte at a physical address. -/
def rawByte (s : State) (a : Nat) : Byte := mgetD 0 s.mem.dram a
/-- Store a data byte, keeping the canonical form. -/
def setRawByte (s : State) (a : Nat) (b : Byte) : State :=
  { s with mem := { s.mem with dram := mput 0 s.mem.dram a b } }
/-- The check difference of a granule number. -/
def chkDiff (s : State) (g : Nat) : Nat := mgetD 0 s.mem.chk g
/-- Store the check difference of a granule. -/
def setChk (s : State) (g d : Nat) : State := { s with mem := { s.mem with chk := mput 0 s.mem.chk g d } }
/-- Store consecutive data bytes. -/
def setRawBytes (s : State) (a : Nat) : List Byte → State
  | [] => s
  | b :: bs => setRawBytes (setRawByte s a b) (a + 1) bs

/-- A physical event: one stored bit flips. -/
def flipBit (s : State) (f : Flip) : State :=
  let v := s.variant
  let g := f.addr / granuleBytes v
  if f.check then setChk s g (Nat.xor (chkDiff s g) (2 ^ (f.bit % (codeBits v + 1))))
  else
    let j := f.addr % granuleBytes v * 8 + f.bit % 8
    setChk (setRawByte s f.addr (rawByte s f.addr ^^^ (1 <<< (f.bit % 8)))) g (Nat.xor (chkDiff s g) (dataFlipDiff v j))

/-- The bit flips that have happened before an access. -/
def flipBits (s : State) (fs : List Flip) : State := fs.foldl flipBit s

/-! ### Error records (R203, R204) -/

/-- The eight words of a stack error record after its header (Table 5.7). -/
def stackRecord (s : State) (kind source : Nat) (l : Loc) (syndrome count bit : Nat) : List Nat :=
  let dpa := dpaOf (stackCount s) s.mem.p l
  [recHeader 1 0x01 kind 0 8,
   kind * 2 ^ 28 + source * 2 ^ 24 + l.stack * 2 ^ 20 + l.die * 2 ^ 15 + l.bank * 2 ^ 9,
   l.row * 2 ^ 17 + l.byte * 2 ^ 6,
   syndrome * 2 ^ 22 + min count 0xFFFF,
   s.bell % 2 ^ 32, s.bell / 2 ^ 32 % 2 ^ 16,
   dpa % 2 ^ 32, 2 ^ 8 + dpa / 2 ^ 32, bit * 2 ^ 23]

/-- Write an error record, or only count it where its location was logged within 1,024 bells (R204). DESIGN CHOICE:
an error exactly 1,024 bells after the record is no longer within them and is logged. -/
def logStack (s : State) (kind source : Nat) (l : Loc) (syndrome bit : Nat) : State :=
  let rs := (stackAt s l.stack).remembered
  let mine : Remembered := ⟨l.die, l.bank, l.row, s.bell, 0⟩
  let same := fun (r : Remembered) => r.die == l.die && r.bank == l.bank && r.row == l.row
  match rs.find? same with
  | some r =>
    if s.bell < r.bell + 1024 then
      let more := fun (r : Remembered) => if same r then { r with suppressed := r.suppressed + 1 } else r
      modStack s l.stack fun k => { k with remembered := k.remembered.map more }
    else
      let s1 := pushRecord s 0x10 (stackRecord s kind source l syndrome (r.suppressed + 1) bit)
      let others := fun (k : Stack) => k.remembered.filter fun r => !same r
      modStack s1 l.stack fun k => { k with remembered := others k ++ [mine] }
  | none =>
    let s1 := pushRecord s 0x10 (stackRecord s kind source l syndrome 1 bit)
    let last := fun (k : Stack) => (k.remembered ++ [mine]).drop (k.remembered.length + 1 - 64)
    modStack s1 l.stack fun k => { k with remembered := last k }

/-! ### Quarantine (R618, R620, R622) -/

/-- A caravan member tells its lead of a granule: event code 0xE2 for one placed in quarantine, 0xE3 for one cleared
(R620). -/
def noticeLead (s : State) (code g : Nat) : State :=
  match s.itn.caravan with
  | some c => if c.index = 0 then s else { s with flt := { s.flt with notices := s.flt.notices ++ [(code, g)] } }
  | none => s

/-- A new uncorrectable error in the interleaved region places its granule in quarantine. -/
def quarantine (s : State) (dpa : Nat) : State :=
  let g := dpa / 0x10000
  if s.flt.quarantine.contains g then s
  else if s.flt.quarantine.length < 256 then
    let s1 := { s with flt := { s.flt with quarantine := s.flt.quarantine ++ [g] } }
    noticeLead (raiseEvent (raiseAlarm s1 0x04 g) 0x00E2 g) 0xE2 g
  else if s.flt.overflow then s
  else raiseEvent { s with flt := { s.flt with overflow := true } } 0x00E5 0

/-- What keeps STEP and ITIN_RUN from beginning, as count 0 of their BUSY: the lowest quarantined granule, of the
caravan's list too at its lead, or an overflow (R619, R620, R622). -/
def quarantined (s : State) : Option Nat :=
  if s.flt.overflow then some 0xFFFFFFFF else (s.flt.quarantine ++ s.flt.caravan.map (·.2)).min?

/-! ### Retirement (R205, R206) -/

/-- Whether a retirement entry covers a bank row. -/
def Retire.covers (r : Retire) (stack die bank row : Nat) : Bool :=
  r.stack == stack && r.die == die && r.bank == bank &&
    (match r.page with | none => true | some m => row / 32 == m)

/-- Whether a row lies in a retired range. -/
def isRetired (s : State) (l : Loc) : Bool := s.mem.retired.any fun r => r.covers l.stack l.die l.bank l.row

/-- An access reached a retired range: recorded under R204, STK_ERR.retired_access set (R206). -/
def noteRetired (s : State) (source : Nat) (l : Loc) : State :=
  setRegBit (logStack s 0x4 source l 0 0) (Reg.STK_ERR l.stack) 1

/-! ### One trowel -/

/-- The key of trowel t of stack k. -/
def trwKey (k t : Nat) : Nat := k * 640 + t
/-- The key of a site. -/
def tKey (x : TSite) : Nat := trwKey x.stack x.trowel
/-- A trowel after reset. -/
def Trowel.reset : Trowel := { state := .idle, outcome := .none, pc := 0, cmd := none, rerun := none, starts := none, drain := (0, 0) }
/-- A trowel. -/
def trowelAt (s : State) (x : TSite) : Trowel := mgetD Trowel.reset s.trowels (tKey x)
/-- A trowel replaced. -/
def setTrowel (s : State) (x : TSite) (t : Trowel) : State :=
  { s with trowels := mput Trowel.reset s.trowels (tKey x) t }
/-- Its running command changed. -/
def modCmd (s : State) (x : TSite) (f : TrwCmd → TrwCmd) : State :=
  let t := trowelAt s x
  setTrowel s x { t with cmd := t.cmd.map f }
/-- Whether a trowel exists on this module. -/
def trowelExists (s : State) (x : TSite) : Bool := decide (x.stack < stackCount s) && decide (x.trowel < 640)

/-- The DRAM die and pair of a trowel (R171). -/
def tDie (x : TSite) : Nat := x.trowel / 32
/-- Bank 2q + b of a trowel. -/
def tBank (x : TSite) (b : Nat) : Nat := 2 * (x.trowel % 32) + b
/-- The trowel at the edge of a bank. -/
def trowelOf (stack die bank : Nat) : TSite := ⟨stack, 32 * die + bank / 2⟩

/-- Whether both busy bits of a trowel are set (R250): a command is on it, or a bank operation of a killed one has not
ended (R245). -/
def trowelBusy (s : State) (x : TSite) : Bool :=
  (match (trowelAt s x).state with | .run => true | .commit => true | .held => true | _ => false)
    || (trowelAt s x).drain != (0, 0)

/-! ### Channel windows (R252, R253) -/

/-- The first cycle from `c` at which a bank operation of `len` cycles ends before the next channel window
(R252). -/
def openSlot (c len : Nat) : Nat := if c % 720 + len ≤ 680 then c else (c / 720 + 1) * 720

/-- The cycle at which the next channel window from cycle `c` starts an access: its cycle 680, or cycle `c` where that is
one of 680 to 682 (R252). -/
def windowStart (c : Nat) : Nat :=
  if c % 720 ≤ 680 then c / 720 * 720 + 680 else if c % 720 ≤ 682 then c else (c / 720 + 1) * 720 + 680

/-- The cycles that a channel access at the head of a bank's queue is deferred: to the channel window of a running
command, or until the bank operations of a killed one have ended. -/
def deferral (t : Trowel) (bank : Nat) : Nat :=
  match t.cmd with
  | some c => windowStart c.now - c.now
  | none => if bank % 2 = 0 then t.drain.1 else t.drain.2

/-- Advance TRW_DEFER, the longest deferral (R253). -/
def noteDefer (s : State) (x : TSite) (n : Nat) : State := raiseTo s (Reg.TRW_DEFER x.stack x.trowel) 0 10 n

/-- A channel access by source `source` that the model performs within one command at a bank whose trowel runs: it is
served at the next channel window, which falls inside the command, and its deferral is counted (R252, R253). Trowels
and scrub use no channel. -/
def deferInline (s : State) (source : Nat) (l : Loc) : State :=
  let x := trowelOf l.stack l.die l.bank
  if source = 2 ∨ source = 5 ∨ trowelBusy s x = false then s else noteDefer s x (deferral (trowelAt s x) l.bank)

/-! ### Reading a bank with check decode and correction (R186 to R196) -/

/-- Whether a stack serves accesses: ACTIVE or WRITE_HOLD. In any other state a read returns poison and a
write is discarded (R610 for FAULT; PRESUMED for OFF and SELF_REFRESH). -/
def stackServes (s : State) (k : Nat) : Bool :=
  match (stackAt s k).state with
  | .active => true | .writeHold => true | _ => false

/-- What a check finds, recorded: the counters, the record, the corrected write-back, the alarm and the
quarantine (R195, R196, R202). -/
def noteCheck (s : State) (source : Nat) (l : Loc) (c : CheckClass) (diff : Nat) (mergeUe : Bool) : State :=
  let v := s.variant
  let g := physOf l / granuleBytes v
  let a := Reg.STK_CTRL l.stack
  let syn := syndromeField v diff
  match c with
  | .clean => s
  | .checkBit b =>
    let s1 := bump (setChk s g 0) (Reg.STK_CE_CNT l.stack) 0 64 1
    raiseIf (logStack s1 0x1 source l syn b) a 2 0x0031 l.stack
  | .dataBit j =>
    let at_ := g * granuleBytes v + j / 8
    let s1 := setChk (setRawByte s at_ (rawByte s at_ ^^^ (1 <<< (j % 8)))) g 0
    let s2 := bump s1 (Reg.STK_CE_CNT l.stack) 0 64 1
    raiseIf (logStack s2 0x1 source l syn j) a 2 0x0031 l.stack
  | .stored =>
    let s1 := bump s (Reg.STK_UE_CNT l.stack) 32 32 1
    if source = 5 then s1 else logStack s1 0x3 source l syn 0
  | .uncorrectable =>
    let s1 := bump s (Reg.STK_UE_CNT l.stack) 0 32 1
    let s2 := setReg s1 (Reg.STK_LAST_UE l.stack) (l.die * 2 ^ 22 + l.bank * 2 ^ 16 + l.row * 2 + 1)
    let s3 := setRegBit s2 (Reg.STK_ERR l.stack) 2
    let s4 := logStack s3 (if mergeUe then 0x5 else 0x2) source l syn 0
    let s5 := raiseAlarm s4 0x05 l.stack
    let s6 := raiseIf s5 a 3 0x0030 l.stack
    if l.bank < 64 - 8 * s.mem.p then quarantine s6 (dpaOf (stackCount s) s.mem.p l) else s6

/-- Where an error lies within its granule: at the byte of a corrected data bit, else at the granule's first byte. DESIGN
CHOICE: R203 does not say which byte of a sector is the first affected. -/
def errorByte (v : Variant) (base : Nat) (c : CheckClass) : Nat :=
  match c with
  | .dataBit j => base / granuleBytes v * granuleBytes v + j / 8
  | _ => base

/-- Read one granule: its bytes corrected, whether it is poisoned, and the state with the finding recorded. -/
def readGranule (s : State) (source : Nat) (g : Nat) (mergeUe : Bool) : List Byte × Bool × State :=
  let v := s.variant
  let diff := chkDiff s g
  let base := g * granuleBytes v
  let c := classify v diff
  let s1 := noteCheck s source (locOf (errorByte v base c)) c diff mergeUe
  ((List.range (granuleBytes v)).map fun i => rawByte s1 (base + i),
   (match c with | .stored => true | .uncorrectable => true | _ => false), s1)

/-- The open merge-buffer entry of a sector (R193). -/
def mergeEntry (s : State) (sector : Nat) : Option MergeEnt :=
  (stackAt s (locOf (sector * 32)).stack).merge.find? fun e => e.sector = sector

/-- A granule as a reader sees it: the bank's corrected bytes overlaid with the open entry's (R193). -/
def viewGranule (s : State) (source g : Nat) : List PByte × State :=
  let r := readGranule s source g false
  match s.variant with
  | .pm960 => (r.1.map fun b => ⟨b, r.2.1⟩, r.2.2)
  | .pm480 =>
    match mergeEntry s g with
    | none => (r.1.map fun b => ⟨b, r.2.1⟩, r.2.2)
    | some e => (r.1.mapIdx fun i b => ⟨(mget e.bytes i).getD b, r.2.1 || e.poison⟩, r.2.2)

/-- Read granules g to g+n-1. -/
def viewGranules (s : State) (source g : Nat) : Nat → List PByte × State
  | 0 => ([], s)
  | n + 1 =>
    let a := viewGranule s source g
    let b := viewGranules a.2 source (g + 1) n
    (a.1 ++ b.1, b.2)

/-- Spread poison over every aligned 8-byte word that a poisoned byte touches; `o` is the address of the
first byte. -/
def spreadWords (o : Nat) (bs : List PByte) : List PByte :=
  bs.mapIdx fun i x =>
    let w := (o + i) / 8
    ⟨x.b, (List.range 8).any fun k => let j := w * 8 + k
      decide (o ≤ j) && ((bs[j - o]?).map (·.poison)).getD false⟩

/-- Poisoned zero bytes. -/
def poisonBytes (n : Nat) : List PByte := List.replicate n ⟨0, true⟩

/-- Read `n` bytes of one bank row at a location (R186 to R196, R206, R610). A Prasum 960 reads whole aligned 8-byte
words (Table 16.3), a Prasum 480 whole sectors. -/
def bankRead (s : State) (source : Nat) (l : Loc) (n : Nat) : List PByte × State :=
  if !stackServes s l.stack then (poisonBytes n, s)
  else if isRetired s l then (poisonBytes n, noteRetired s source l)
  else
    let gb := granuleBytes s.variant
    let unit := max gb 8
    let a := physOf l
    let u0 := a / unit
    let r := viewGranules s source (u0 * (unit / gb)) (((a + n + unit - 1) / unit - u0) * (unit / gb))
    (((spreadWords (u0 * unit) r.1).drop (a - u0 * unit)).take n, r.2)

/-! ### Writing a bank (R187, R189 to R192, R197) -/

/-- Write a whole granule, clean or as poison. -/
def writeGranule (s : State) (g : Nat) (bs : List Byte) (poison : Bool) : State :=
  setChk (setRawBytes s (g * granuleBytes s.variant) bs) g (if poison then poisonDiff s.variant else 0)

/-- The read-modify-write close of an open entry (R192, Table 5.6): the bank's corrected sector overlaid with
the entry's bytes; a sector whose read is uncorrectable is written as poison, and a poisoned sector or a
poisoned entry stays poison (R197). A full mask is written with no read. A retired sector is not written (R206). -/
def closeEntry (s : State) (e : MergeEnt) : State :=
  let k := (locOf (e.sector * 32)).stack
  let s0 := modStack s k fun x => { x with merge := x.merge.filter fun y => y.sector ≠ e.sector }
  if isRetired s (locOf (e.sector * 32)) then noteRetired s0 6 (locOf (e.sector * 32))
  else if e.bytes.length = 32 then writeGranule s0 e.sector (e.bytes.map (·.2)) e.poison
  else
    let lost := classify s0.variant (chkDiff s0 e.sector) = .uncorrectable
    let r := readGranule s0 6 e.sector true
    let s1 := bump r.2.2 (Reg.STK_MERGE k) 32 32 1
    let bs := r.1.mapIdx fun i b => (mget e.bytes i).getD b
    writeGranule s1 e.sector (if lost then r.1 else bs) (r.2.1 || e.poison)

/-- Close every open entry of a stack in order of opening (R674). -/
def closeAll (s : State) (k : Nat) : State := (stackAt s k).merge.foldl closeEntry s

/-- A write narrower than a sector enters the merge buffer (R191, R192). -/
def mergeWrite (s : State) (sector : Nat) (bytes : List (Nat × Byte)) (poison : Bool) : State :=
  let k := (locOf (sector * 32)).stack
  match mergeEntry s sector with
  | some e =>
    let e' := { e with bytes := bytes.foldl (fun m b => mset m b.1 b.2) e.bytes, poison := e.poison || poison }
    if e'.bytes.length = 32 then
      let s1 := modStack s k fun x => { x with merge := x.merge.map fun y => if y.sector = sector then e' else y }
      closeEntry s1 e'
    else modStack s k fun x => { x with merge := x.merge.map fun y => if y.sector = sector then e' else y }
  | none =>
    let st := stackAt s k
    let s1 := if 128 ≤ st.merge.length then
        match st.merge with
        | old :: _ => bump (closeEntry s old) (Reg.STK_MERGE k) 16 16 1
        | [] => s
      else s
    let s2 := modStack s1 k fun x => { x with mergeSeq := x.mergeSeq + 1, merge := x.merge ++
      [{ sector := sector, bytes := bytes.foldl (fun m b => mset m b.1 b.2) [], poison := poison, opened := x.mergeSeq }] }
    raiseTo s2 (Reg.STK_MERGE k) 8 8 (stackAt s2 k).merge.length

/-- Write consecutive bytes of a row on a Prasum 960: each byte's own check field (R187). -/
def writeBytes960 (s : State) (a : Nat) (poison : Bool) : List Byte → State
  | [] => s
  | b :: bs => writeBytes960 (writeGranule s a [b] poison) (a + 1) poison bs

/-- Write bytes into sectors on a Prasum 480: a full sector directly, closing an open entry unwritten; any
other through the merge buffer (R189, R191). -/
def writeSectors (s : State) (a : Nat) (bs : List Byte) (poison : Bool) : State :=
  let g0 := a / 32
  loopN ((a + bs.length + 31) / 32 - g0) s fun i s =>
    let g := g0 + i
    let mine := (List.range 32).filterMap fun j =>
      let x := g * 32 + j
      if a ≤ x ∧ x < a + bs.length then some (j, nth bs (x - a) 0) else none
    if mine.length = 32 then
      let k := (locOf (g * 32)).stack
      writeGranule (modStack s k fun x => { x with merge := x.merge.filter fun y => y.sector ≠ g }) g (mine.map (·.2)) poison
    else mergeWrite s g mine poison

/-- Perform a write at the bank, whatever hold there is. -/
def bankStore (s : State) (a : Nat) (bs : List Byte) (poison : Bool) : State :=
  match s.variant with
  | .pm960 => writeBytes960 s a poison bs
  | .pm480 => writeSectors s a bs poison

/-- Whether a stack holds writes (R199). -/
def stackHolds (s : State) (k : Nat) : Bool := (stackAt s k).state = .writeHold

/-- Write bytes of one bank row (R187 to R191, R206, R610): discarded in a retired range or an unserving stack.
The callers keep it back while the stack holds writes (R199). -/
def bankWrite (s : State) (source : Nat) (l : Loc) (bs : List Byte) (poison : Bool) : State :=
  if !stackServes s l.stack then s
  else if isRetired s l then noteRetired s source l
  else bankStore s (physOf l) bs poison

/-! ### Access by DPA at the bank: cut at rows -/

/-- One piece of a read, within a 256-byte line and so within one row; what no stack holds reads as poison. -/
def pieceRead (s : State) (source dpa n : Nat) : List PByte × State :=
  match locateS s dpa with
  | none => (poisonBytes n, s)
  | some l => bankRead (deferInline s source l) source l n

/-- Read by DPA directly at the bank; a piece never crosses a 256-byte boundary, and pieces lie in one row. -/
def dpaRead (s : State) (source : Nat) : Nat → Nat → Nat → List PByte × State
  | 0, _, _ => ([], s)
  | fuel + 1, dpa, n =>
    if n = 0 then ([], s)
    else
      let m := min n (256 - dpa % 256)
      let a := pieceRead s source dpa m
      let r := dpaRead a.2 source fuel (dpa + m) (n - m)
      (a.1 ++ r.1, r.2)

/-- Write by DPA directly at the bank. -/
def dpaWrite (s : State) (source : Nat) (poison : Bool) : Nat → Nat → List Byte → State
  | 0, _, _ => s
  | fuel + 1, dpa, bs =>
    if bs.isEmpty then s
    else
      let m := min bs.length (256 - dpa % 256)
      let s1 := match locateS s dpa with
        | none => s
        | some l => bankWrite (deferInline s source l) source l (bs.take m) poison
      dpaWrite s1 source poison fuel (dpa + m) (bs.drop m)

/-- Whether a range of DPA meets a retired range. -/
def rangeRetired (s : State) (dpa n : Nat) : Bool :=
  (List.range (n / 256 + 2)).any fun i =>
    let x := (dpa / 256 + i) * 256
    x < dpa + n && (match locateS s x with | some l => isRetired s l | none => false)

end Sys2Proof.Machine
end

