-- ==== Sys2Proof/Machine/Screed.lean ====
section
/-!
DEFINITION. The screed (chapter 4): home slices, lines, the hint table, eviction, atomics, maintenance and the
skim path, as operations that other families use, and the commands of the family.
-/
namespace Sys2Proof.Machine

/-! ### Home slice (R135) -/

/-- The compute die near a stack. -/
def nearDie (s : State) (stack : Nat) : Nat := if stack < stackCount s / 2 then 0 else 1

/-- The home slice of a DPA, numbered die * 4 + slice (R135); slice 0 where the DPA is no memory. -/
def homeSlice (s : State) (dpa : Nat) : Nat :=
  let die := match locateS s dpa with | some l => nearDie s l.stack | none => 0
  die * 4 + Nat.xor (dpa / 64 % 4) (dpa / 0x2000 % 4)

/-- Sets of a slice (R134). -/
def sliceSets : Nat := 40960
/-- The set of a DPA. -/
def setOf (dpa : Nat) : Nat := dpa / 256 % sliceSets
/-- The tag of a DPA. -/
def tagOf (dpa : Nat) : Nat := dpa / 256 / sliceSets

/-- The key of a way. -/
def wayKey (slice set way : Nat) : Nat := (slice * sliceSets + set) * 16 + way

/-- The DPA of the line held in a way. -/
def lineDpa (key : Nat) (ln : Line) : Nat :=
  let slice := key / 16 / sliceSets
  let hi := ln.tag * sliceSets + key / 16 % sliceSets
  let base := hi * 256
  base + Nat.xor (slice % 4) (base / 0x2000 % 4) * 64

/-- The way that holds a DPA's line, with its key. -/
def findLine (s : State) (dpa : Nat) : Option (Nat × Line) :=
  let sl := homeSlice s dpa
  (List.range 16).findSome? fun w =>
    match mget s.scr.lines (wayKey sl (setOf dpa) w) with
    | some ln => if ln.tag = tagOf dpa then some (wayKey sl (setOf dpa) w, ln) else none
    | none => none

/-- A line stored in its way; a line with no valid byte is invalid and not listed (R137). -/
def putLine (s : State) (key : Nat) (ln : Line) : State :=
  { s with scr := { s.scr with lines := if ln.valid = 0 then mdel s.scr.lines key else mset s.scr.lines key ln } }

/-! ### Bytes of a line -/

/-- Byte i of a line. -/
def Line.byte (ln : Line) (i : Nat) : Byte := ln.data.extractLsb' (8 * i) 8
/-- A mask of bytes o to o+n-1. -/
def byteMask (o n : Nat) : BitVec 64 := BitVec.ofNat 64 ((2 ^ n - 1) * 2 ^ o)
/-- Number of ones of a mask. -/
def popcount (m : BitVec 64) : Nat := ((List.range 64).filter fun i => m.getLsbD i).length
/-- A line's data with consecutive bytes replaced. -/
def putData (d : BitVec 512) (o : Nat) (bs : List Byte) : BitVec 512 :=
  let m := BitVec.ofNat 512 ((2 ^ (8 * bs.length) - 1) * 2 ^ (8 * o))
  (d &&& ~~~m) ||| BitVec.ofNat 512 (ofLe bs * 2 ^ (8 * o))

/-- Bytes o to o+n-1 of a line with the poison of their words. -/
def Line.view (ln : Line) (o n : Nat) : List PByte :=
  (List.range n).map fun i => ⟨ln.byte (o + i), ln.poison.getLsbD ((o + i) / 8)⟩

/-- The line with fetched bytes merged into its invalid bytes only (R138); a merged poisoned byte poisons its
word. -/
def Line.fill (ln : Line) (bs : List PByte) : Line :=
  let data := (List.range 64).foldl (fun d i =>
    if ln.valid.getLsbD i then d else putData d i [(bs.getD i ⟨0, false⟩).b]) ln.data
  let poison := (List.range 8).foldl (fun p w =>
    if (List.range 8).any (fun k => !ln.valid.getLsbD (8 * w + k) && (bs.getD (8 * w + k) ⟨0, false⟩).poison)
    then p ||| BitVec.ofNat 8 (2 ^ w) else p) ln.poison
  { ln with data := data, poison := poison, valid := BitVec.allOnes 64 }

/-- The line after a write of bytes at o: they are valid, dirty as told; a poisoned write poisons the words it
touches, a clean write clears the poison of the words it covers whole (R197 by words). -/
def Line.written (ln : Line) (o : Nat) (bs : List Byte) (dirty poison : Bool) : Line :=
  let m := byteMask o bs.length
  let pz := (List.range 8).foldl (fun p w =>
    let touched := decide (8 * w < o + bs.length) && decide (o < 8 * w + 8)
    let whole := decide (o ≤ 8 * w) && decide (8 * w + 8 ≤ o + bs.length)
    if touched && poison then p ||| BitVec.ofNat 8 (2 ^ w)
    else if whole then p &&& ~~~ BitVec.ofNat 8 (2 ^ w) else p) ln.poison
  { ln with data := putData ln.data o bs, valid := ln.valid ||| m,
            dirty := if dirty then ln.dirty ||| m else ln.dirty &&& ~~~m, poison := pz }

/-- An empty line for a tag. -/
def Line.empty (tag : Nat) : Line :=
  { tag := tag, data := 0, valid := 0, dirty := 0, poison := 0, keep := false, stamp := 0 }

/-! ### Counters of a slice (Table 4.7) -/

/-- Advance a 64-bit count of slice `sl`. -/
def bumpSlice (s : State) (f : Nat → Nat → Nat) (sl n : Nat) : State := bump s (f (sl / 4) (sl % 4)) 0 64 n

/-- Whether a slice is in FAULT (R143). -/
def sliceFault (s : State) (sl : Nat) : Bool := s.scr.fault.getLsbD sl

/-! ### Writeback and eviction (R139 to R141) -/

/-- Write the dirty bytes of word w of a line to the stack, a poisoned word with the stack's poison (R139). -/
def writebackWord (s : State) (dpa : Nat) (ln : Line) (w : Nat) : State :=
  let bytes := (List.range 8).filter fun k => ln.dirty.getLsbD (8 * w + k)
  if bytes.length = 8 then
    dpaWrite s 1 (ln.poison.getLsbD w) 2 (dpa + 8 * w) ((List.range 8).map fun k => ln.byte (8 * w + k))
  else bytes.foldl (fun s k => dpaWrite s 1 (ln.poison.getLsbD w) 2 (dpa + 8 * w + k) [ln.byte (8 * w + k)]) s

/-- Write the dirty bytes of half h of a line: on a Prasum 480 a wholly dirty sector is one write, poisoned where a
word of it is (R189, R190); any other bytes go word by word. -/
def writebackHalf (s : State) (dpa : Nat) (ln : Line) (h : Nat) : State :=
  let m := byteMask (32 * h) 32
  if s.variant = .pm480 ∧ ln.dirty &&& m = m then
    dpaWrite s 1 ((List.range 4).any fun w => ln.poison.getLsbD (4 * h + w)) 2 (dpa + 32 * h)
      ((List.range 32).map fun k => ln.byte (32 * h + k))
  else (List.range 4).foldl (fun s w => writebackWord s dpa ln (4 * h + w)) s

/-- Write the dirty bytes of a line to the stack (R139). -/
def writebackLine (s : State) (dpa : Nat) (ln : Line) : State :=
  bumpSlice (writebackHalf (writebackHalf s dpa ln 0) dpa ln 1) Reg.SCD_WB (homeSlice s dpa) 1

/-- Whether the stack of a DPA holds writes. -/
def dpaHeld (s : State) (dpa : Nat) : Bool :=
  match locateS s dpa with | some l => stackHolds s l.stack | none => false

/-- The lines of a DPA in the victim buffer, oldest first. -/
def victimsOf (s : State) (dpa : Nat) : List Victim := s.scr.victims.filter fun v => v.dpa / 64 == dpa / 64

/-- A victim's writeback completes, unless its stack holds writes (R141, R559). -/
def finishVictim (s : State) (v : Victim) : State :=
  if dpaHeld s v.dpa then s
  else writebackLine { s with scr := { s.scr with victims := s.scr.victims.erase v } } v.dpa v.line

/-- Complete the writebacks of a line that an access needs (R141, R146). -/
def settleVictim (s : State) (dpa : Nat) : State := (victimsOf s dpa).foldl finishVictim s

/-! ### Accesses that wait for a write hold to end (R199, R141, R272) -/

/-- The accesses that wait at the stack of a DPA. -/
def heldAt (s : State) (dpa : Nat) : List HeldAcc :=
  match locateS s dpa with | some l => (stackAt s l.stack).held | none => []

/-- Whether an access must wait for the hold of its stack to end: a write that goes to the stack (`through`), an access
to a line whose writeback waits (R141), or one behind an earlier waiting access of its issuer to the line, one of the
two a write (R272). -/
def waitsHeld (s : State) (issuer tag : Nat) (write through : Bool) (dpa : Nat) : Bool :=
  dpaHeld s dpa && ((write && through) || !(victimsOf s dpa).isEmpty ||
    (heldAt s dpa).any fun h => h.issuer == issuer && h.tag == tag && h.dpa / 64 == dpa / 64 && (h.write || write))

/-- An access joins those that wait at its stack. -/
def joinHeld (s : State) (h : HeldAcc) : State :=
  match locateS s h.dpa with
  | some l => modStack s l.stack fun k => { k with held := k.held ++ [h] }
  | none => s

/-- Whether a write under a hint goes through to the stack (Table 4.1, R136). -/
def writesThrough (s : State) (hint : Hint) (dpa : Nat) : Bool :=
  decide (regionOf s dpa ≠ .interleaved) || hint == .stream || hint == .last

/-- Whether a write of `n` bytes under a hint would wait at a stack in one of its lines (R199). -/
def rangeWaits (s : State) (issuer : Nat) (hint : Hint) (dpa n : Nat) : Bool :=
  (List.range ((dpa % 64 + n + 63) / 64)).any fun i =>
    let a := dpa / 64 * 64 + 64 * i
    !sliceFault s (homeSlice s a) && waitsHeld s issuer 0 true (writesThrough s hint a) a

/-- The victim way of a set (R140). -/
def victimWay (s : State) (sl set : Nat) : Nat :=
  let ways := (List.range 16).map fun w => (w, mget s.scr.lines (wayKey sl set w))
  match ways.find? fun x => x.2.isNone with
  | some x => x.1
  | none =>
    let best := fun (p : Line → Bool) => ways.foldl (fun (b : Option (Nat × Nat)) x =>
      match x.2 with
      | some ln => if p ln && (match b with | some y => decide (ln.stamp < y.2) | none => true)
                   then some (x.1, ln.stamp) else b
      | none => b) none
    match best fun ln => !ln.keep with
    | some x => x.1
    | none => ((best fun _ => true).map (·.1)).getD 0

/-- Allocate a way for a line: a dirty line in it moves to the victim buffer. -/
def allocate (s : State) (dpa : Nat) : Nat × State :=
  let sl := homeSlice s dpa
  let key := wayKey sl (setOf dpa) (victimWay s sl (setOf dpa))
  match mget s.scr.lines key with
  | none => (key, s)
  | some ln =>
    let s1 := { s with scr := { s.scr with lines := mdel s.scr.lines key } }
    if ln.dirty = 0 then (key, s1)
    else
      let v : Victim := ⟨sl, lineDpa key ln, ln⟩
      (key, { s1 with scr := { s1.scr with victims := s1.scr.victims ++ [v] } })

/-- The kept lines of a set, with their keys. -/
def keptWays (s : State) (key : Nat) : List (Nat × Line) :=
  (List.range 16).filterMap fun w =>
    let k := key / 16 * 16 + w
    match mget s.scr.lines k with
    | some ln => if ln.keep then some (k, ln) else none
    | none => none

/-- Make a line most recent, and give it the keep bit where asked; at most 12 ways of a set carry it (R140). -/
def touchLine (s : State) (key : Nat) (ln : Line) (keep : Bool) : State :=
  let kept := (keptWays s key).filter fun x => x.1 ≠ key
  let s1 :=
    if keep && !ln.keep && decide (12 ≤ kept.length) then
      match kept.foldl (fun (b : Option (Nat × Line)) x => match b with
          | some y => if x.2.stamp < y.2.stamp then some x else b
          | none => some x) none with
      | some x => putLine s x.1 { x.2 with keep := false }
      | none => s
    else s
  putLine { s1 with scr := { s1.scr with stamp := s1.scr.stamp + 1 } } key
    { ln with keep := ln.keep || keep, stamp := s1.scr.stamp }

/-- Invalidate a line, its dirty bytes discarded and counted (R145). -/
def discardLine (s : State) (key : Nat) (ln : Line) : State :=
  let sl := key / 16 / sliceSets
  let n := popcount ln.dirty
  let s1 := { s with scr := { s.scr with lines := mdel s.scr.lines key } }
  if n = 0 then s1
  else raiseIf (bumpSlice s1 Reg.SCD_LAST_DISCARD sl n) (Reg.SCD_CTRL (sl / 4)) 1 0x0021 sl

/-! ### Accesses within one line (R138, R142, R143, R144) -/

/-- The bank's bytes overlaid with the valid bytes of the line, if present (R138). -/
def overlay (ln : Option Line) (o : Nat) (bs : List PByte) : List PByte :=
  match ln with
  | none => bs
  | some ln => bs.mapIdx fun i b =>
      if ln.valid.getLsbD (o + i) then ⟨ln.byte (o + i), ln.poison.getLsbD ((o + i) / 8)⟩ else b

/-- Count a skim read or write of a slice and record its errors (R165, R168). -/
def noteSkim (s : State) (sl : Nat) (write retired poison : Bool) : State :=
  let s1 := bumpSlice s (if write then Reg.SKM_WRITE else Reg.SKM_READ) sl 1
  let s2 := if retired then setRegBit s1 (Reg.SKM_ERR (sl / 4)) 1 else s1
  if poison && !write then setRegBit s2 (Reg.SKM_ERR (sl / 4)) 0 else s2

/-- A skim read that returned poison without reaching the bank sets SKM_ERR.uncorr (Table 4.12). -/
def noteSkimPoison (s : State) (sl : Nat) (bs : List PByte) : State :=
  if bs.any (·.poison) then setRegBit s (Reg.SKM_ERR (sl / 4)) 0 else s

/-- One poison bit for all bytes of a skim read (R165). -/
def onePoison (bs : List PByte) : List PByte := bs.map fun b => ⟨b.b, bs.any (·.poison)⟩

/-- Entries of a slice's skim front queue. -/
def frontDepth (s : State) (sl : Nat) : Nat := (s.scr.front.filter fun q => q.slice = sl).length
/-- Entries of a channel's skim queue. -/
def chanDepth (s : State) (k ch : Nat) : Nat := (s.scr.chan.filter fun q => q.stack = k ∧ q.channel = ch).length

/-- Raise the high-water mark of a slice's front queue. -/
def noteFront (s : State) (sl n : Nat) : State := raiseTo s (Reg.SKM_FRONT (sl / 4) (sl % 4)) 9 9 n

/-- Raise the high-water mark of a near stack's channel queues, which names the busiest channel. -/
def noteChan (s : State) (k ch n : Nat) : State :=
  let a := Reg.SKM_CHAN (nearDie s k) (k % (stackCount s / 2))
  if regField s a 0 5 < n then setField (setField s a 0 5 n) a 11 5 ch else s

/-- A skim request meets the back-pressure of a full front queue (R24); the event when the count passes 2^20. -/
def noteFrontFull (s : State) (sl : Nat) : State :=
  let s1 := bumpSlice s Reg.SKM_BP sl 1
  if regField s1 (Reg.SKM_BP (sl / 4) (sl % 4)) 0 64 = 2 ^ 20 + 1 then raiseIf s1 (Reg.SKM_CTRL (sl / 4)) 0 0x0023 sl else s1

/-- A skim access that one command performs whole passes the front queue and the channel queue within it: their marks
count its entry, and a full front queue its back-pressure (R162). -/
def passSkim (s : State) (sl dpa : Nat) : State :=
  let n := frontDepth s sl
  let s1 := if 256 ≤ n then noteFrontFull s sl else noteFront s sl (n + 1)
  match locateS s dpa with
  | some l => noteChan s1 l.stack (channelOf l.die l.bank) (min 16 (chanDepth s l.stack (channelOf l.die l.bank) + 1))
  | none => s1

/-- Bytes of one line as the stack gives them once the writes of the victim buffer that a hold keeps back are made
(R141, R559). -/
def stackBytes (s : State) (source dpa len : Nat) : List PByte × State :=
  let r := dpaRead s source 2 dpa len
  ((victimsOf s dpa).foldl (fun bs v => overlay (some { v.line with valid := v.line.dirty }) (dpa % 64) bs) r.1, r.2)

/-- Deliver the bytes that a waiting access returns to the one who awaits them. A remote module's answer is a packet,
which `answerAtomic` sends. -/
def deliver (s : State) (who : Waiter) (issuer dpa : Nat) (bs : List PByte) : State :=
  let v : PWord := ⟨BitVec.ofNat 64 (ofLe (bs.map (·.b))), bs.any (·.poison)⟩
  match who with
  | .none => s
  | .ctx arr cell c =>
    { s with arrays := mmod s.arrays arr fun a =>
        { a with ctxs := mmod a.ctxs (cell * 16 + c) fun x =>
            { x with await := match x.await with
                | some (.queued step) => some (.load step v)
                | w => w } } }
  | .host fn =>
    let s1 := emit s (.completion fn (if v.poison then 1 else 0) (bs.map (·.b)))
    if v.poison then setRegBit s1 Reg.PCI_ERR 2 else s1
  | .remote _ _ _ => s
  | .ext => emit s (.readData issuer dpa bs)

/-- A skim access at the bank, with the overlay of the line's valid bytes on a read (R162, R138). A write to a stack
that holds writes waits (R199); the write of a slice in FAULT is not performed and its read returns poison (R143). -/
def performSkim (s : State) (q : SkimReq) : State :=
  let retired := match locateS s q.dpa with | some l => isRetired s l | none => false
  if sliceFault s q.slice then
    if q.write then s else deliver (noteSkimPoison s q.slice (poisonBytes 8)) q.who q.issuer q.dpa (poisonBytes 8)
  else if waitsHeld s q.issuer 0 q.write true q.dpa then
    joinHeld s ⟨q.issuer, 0, 3, q.write, if q.last then .last else .stream, q.dpa, 8, leBytes 8 q.data.toNat, q.poison, q.who⟩
  else if q.write then noteSkim (dpaWrite s 3 q.poison 2 q.dpa (leBytes 8 q.data.toNat)) q.slice true retired false
  else
    let r := stackBytes s 3 q.dpa 8
    let found := if regionOf s q.dpa = .interleaved then findLine s q.dpa else none
    let v := onePoison (overlay (found.map (·.2)) (q.dpa % 64) r.1)
    let s1 := noteSkim r.2 q.slice false retired (v.any (·.poison))
    let s2 := match q.last, found with | true, some (key, ln) => discardLine s1 key ln | _, _ => s1
    deliver s2 q.who q.issuer q.dpa v

/-- The skim access that a bank's queue entry serves. -/
def BankReq.skim? (r : BankReq) : Option SkimReq := match r.work with | .skim q => some q | _ => none

/-- Skim accesses of a line that are queued are ordered before a later access to it (R148, R164): they are performed
first, wherever they wait. -/
def settleSkim (s : State) (dpa : Nat) : State :=
  let mine := fun (q : SkimReq) => q.dpa / 64 == dpa / 64
  let atBank := fun (r : BankReq) => match r.skim? with | some q => mine q | none => false
  let k := match locateS s dpa with | some l => l.stack | none => 0
  let banked := (stackAt s k).bankq.filterMap fun r => r.skim?
  let all := (banked ++ s.scr.chan ++ s.scr.front ++ s.scr.frontWait).filter mine
  if all.isEmpty then s
  else
    let s1 := modStack s k fun x => { x with bankq := x.bankq.filter fun r => !atBank r }
    all.foldl performSkim { s1 with scr := { s1.scr with
      chan := s1.scr.chan.filter fun q => !mine q, front := s1.scr.front.filter fun q => !mine q,
      frontWait := s1.scr.frontWait.filter fun q => !mine q } }

/-- Read bytes at the stack for an access that is not allocated; an aligned 8-byte one takes the skim path
(R161). -/
def uncachedRead (s : State) (source dpa len : Nat) : List PByte × State :=
  let sl := homeSlice s dpa
  let retired := match locateS s dpa with | some l => isRetired s l | none => false
  if len = 8 ∧ dpa % 8 = 0 then
    let r := stackBytes (passSkim s sl dpa) 3 dpa len
    (onePoison r.1, noteSkim r.2 sl false retired (r.1.any (·.poison)))
  else stackBytes s source dpa len

/-- Read within one line under a hint (Table 4.1). -/
def lineRead (s : State) (source : Nat) (hint : Hint) (dpa len : Nat) : List PByte × State :=
  let s := settleSkim s dpa
  let sl := homeSlice s dpa
  let o := dpa % 64
  if sliceFault s sl then (poisonBytes len, s)
  else if regionOf s dpa ≠ .interleaved then uncachedRead s source dpa len
  else
    let s := settleVictim s dpa
    let need := byteMask o len
    let found := findLine s dpa
    let hit := match found with | some x => x.2.valid &&& need == need | none => false
    if hit then
      match found with
      | none => ([], s)
      | some (key, ln) =>
        let s1 := bumpSlice s Reg.SCD_HIT sl 1
        let r := ln.view o len
        match hint with
        | .normal => (r, touchLine s1 key ln false)
        | .keep => (r, touchLine s1 key ln true)
        | .stream => (r, s1)
        | .last => (r, discardLine s1 key ln)
    else
      let s1 := if len = 8 ∧ dpa % 8 = 0 ∧ (hint = .stream ∨ hint = .last) then s else bumpSlice s Reg.SCD_MISS sl 1
      match hint with
      | .stream =>
        let r := uncachedRead s1 source dpa len
        (overlay (found.map (·.2)) o r.1, r.2)
      | .last =>
        let r := uncachedRead s1 source dpa len
        (overlay (found.map (·.2)) o r.1,
         match found with | some (key, ln) => discardLine r.2 key ln | none => r.2)
      | h =>
        let base := dpa / 64 * 64
        let retired := match locateS s dpa with | some l => isRetired s l | none => false
        let f := stackBytes s1 source base 64
        if retired then (poisonBytes len, f.2)
        else
          let a := match found with | some (key, ln) => ((key, ln), f.2)
                                    | none => let a := allocate f.2 dpa; ((a.1, Line.empty (tagOf dpa)), a.2)
          let ln := a.1.2.fill f.1
          (ln.view o len, touchLine a.2 a.1.1 ln (h == .keep))

/-- Write bytes at the stack past the slice; an aligned 8-byte write takes the skim path (R161), any other one counts as
a miss where it lies in the interleaved region. -/
def uncachedWrite (s : State) (source dpa : Nat) (bs : List Byte) (poison : Bool) : State :=
  let sl := homeSlice s dpa
  let retired := match locateS s dpa with | some l => isRetired s l | none => false
  if bs.length = 8 ∧ dpa % 8 = 0 then noteSkim (dpaWrite (passSkim s sl dpa) 3 poison 2 dpa bs) sl true retired false
  else
    let s1 := dpaWrite s source poison 2 dpa bs
    if regionOf s dpa = .interleaved then bumpSlice s1 Reg.SCD_MISS sl 1 else s1

/-- Write within one line under a hint (Table 4.1, R142, R143), by an issuer and its thread `tag`; it waits where the
stack's write hold keeps it back (R199). -/
def lineWriteBy (s : State) (source issuer tag : Nat) (hint : Hint) (dpa : Nat) (bs : List Byte) (poison : Bool) : State :=
  let s := settleSkim s dpa
  let sl := homeSlice s dpa
  let o := dpa % 64
  let retired := match locateS s dpa with | some l => isRetired s l | none => false
  let through := writesThrough s hint dpa
  if sliceFault s sl then s
  else if waitsHeld s issuer tag true through dpa then
    joinHeld s ⟨issuer, tag, source, true, hint, dpa, bs.length, bs, poison, .none⟩
  else if regionOf s dpa ≠ .interleaved then uncachedWrite s source dpa bs poison
  else
    let s := settleVictim s dpa
    match findLine s dpa with
    | some (key, ln) =>
      let s1 := bumpSlice s Reg.SCD_HIT sl 1
      if through then
        dpaWrite (putLine s1 key (ln.written o bs false poison)) (if bs.length = 8 ∧ dpa % 8 = 0 then 3 else source) poison 2 dpa bs
      else touchLine s1 key (ln.written o bs true poison) (hint == .keep)
    | none =>
      if through then uncachedWrite s source dpa bs poison
      else if retired then dpaWrite (bumpSlice s Reg.SCD_MISS sl 1) source poison 2 dpa bs
      else
        let a := allocate (bumpSlice s Reg.SCD_MISS sl 1) dpa
        touchLine a.2 a.1 ((Line.empty (tagOf dpa)).written o bs true poison) (hint == .keep)

/-- Write within one line under a hint by an issuer of one thread. -/
def lineWrite (s : State) (source issuer : Nat) (hint : Hint) (dpa : Nat) (bs : List Byte) (poison : Bool) : State :=
  lineWriteBy s source issuer 0 hint dpa bs poison

/-- Read a range of memory line by line, in address order. -/
def memRead (s : State) (source : Nat) (hint : Hint) : Nat → Nat → Nat → List PByte × State
  | 0, _, _ => ([], s)
  | fuel + 1, dpa, n =>
    if n = 0 then ([], s)
    else
      let m := min n (64 - dpa % 64)
      let a := lineRead s source hint dpa m
      let r := memRead a.2 source hint fuel (dpa + m) (n - m)
      (a.1 ++ r.1, r.2)

/-- Write a range of memory line by line; poison goes with the 8-byte words it marks (R139). -/
def memWrite (s : State) (source issuer : Nat) (hint : Hint) : Nat → Nat → List PByte → State
  | 0, _, _ => s
  | fuel + 1, dpa, bs =>
    if bs.isEmpty then s
    else
      -- clean and poisoned words of a line are written apart
      let p := (bs.headD ⟨0, false⟩).poison
      let m := ((bs.take (64 - dpa % 64)).takeWhile fun b => b.poison == p).length
      memWrite (lineWrite s source issuer hint dpa ((bs.take m).map (·.b)) p) source issuer hint fuel (dpa + m) (bs.drop m)

/-- Bytes read from memory, with enough fuel for any length. -/
def readMem (s : State) (source : Nat) (hint : Hint) (dpa n : Nat) : List PByte × State :=
  memRead s source hint (n + 1) dpa n
/-- Bytes written to memory. -/
def writeMem (s : State) (source issuer : Nat) (hint : Hint) (dpa : Nat) (bs : List PByte) : State :=
  memWrite s source issuer hint (bs.length + 1) dpa bs

/-- The aligned 8-byte word of a narrow access by a hub engine, which behaves as STREAM (R161). -/
def hubWord (s : State) (dpa : Nat) : List PByte × State := lineRead s 3 .stream (dpa / 8 * 8) 8

/-- An access that waited for a hold is performed. -/
def performHeld (s : State) (h : HeldAcc) : State :=
  if h.write then lineWriteBy s h.source h.issuer h.tag h.hint h.dpa h.bytes h.poison
  else
    let r := lineRead s h.source h.hint h.dpa h.len
    deliver r.2 h.who h.issuer h.dpa r.1

/-- The waiting accesses of a stack performed in order once its hold ends (R199). -/
def releaseHeld (s : State) (k : Nat) : State :=
  (stackAt s k).held.foldl performHeld (modStack s k fun x => { x with held := [] })

/-! ### Commit notices (R149) -/

/-- Poison bits of the words that hold a valid byte. -/
def livePoison (valid : BitVec 64) (p : BitVec 8) : BitVec 8 :=
  (List.range 8).foldl (fun p w => if valid &&& byteMask (8 * w) 8 = 0 then p &&& ~~~ BitVec.ofNat 8 (2 ^ w) else p) p

/-- A line without the masked bytes: they are neither valid nor dirty, and a word left with no valid byte carries no
poison. -/
def Line.without (ln : Line) (mask : BitVec 64) : Line :=
  { ln with valid := ln.valid &&& ~~~mask, dirty := ln.dirty &&& ~~~mask, poison := livePoison (ln.valid &&& ~~~mask) ln.poison }

/-- A commit notice for the masked bytes of a line, which takes them from the line wherever the slice holds it: in its
way, or in the victim buffer, so that the committed bytes are the last in line order (R149, Table 4.3). -/
def commitNotice (s : State) (dpa : Nat) (mask : BitVec 64) : State :=
  let take := fun (v : Victim) =>
    if v.dpa / 64 == dpa / 64 then
      if v.line.dirty &&& ~~~mask = 0 then none else some { v with line := v.line.without mask }
    else some v
  let s1 := { s with scr := { s.scr with victims := s.scr.victims.filterMap take } }
  match findLine s1 dpa with
  | some (key, ln) => putLine s1 key (ln.without mask)
  | none => s1

/-! ### Atomics (Table 4.4, R152 to R155) -/

/-- Whether an atomic code is in the catalogue. -/
def aopOk (aop : Nat) : Bool := decide (1 ≤ aop) && decide (aop ≤ 0x13)

/-- An operation on each 32-bit half. -/
def onHalves (f : Nat → Nat → Nat) (m x : Nat) : Nat :=
  f (m % 2 ^ 32) (x % 2 ^ 32) + 2 ^ 32 * f (m / 2 ^ 32) (x / 2 ^ 32)

/-- Exact sum rounded once to BF16 with RNE, overflow to infinity. -/
def bf16Add (a b : Nat) : Nat := (toLay layBf16 .rne true ((layDecode layBf16 a).add (layDecode layBf16 b))).1

/-- An operation on each 16-bit field. -/
def onQuarters (f : Nat → Nat → Nat) (m x : Nat) : Nat :=
  f (m % 2 ^ 16) (x % 2 ^ 16) + 2 ^ 16 * f (bitsOf m 16 16) (bitsOf x 16 16)
    + 2 ^ 32 * f (bitsOf m 32 16) (bitsOf x 32 16) + 2 ^ 48 * f (bitsOf m 48 16) (bitsOf x 48 16)

/-- The lesser and the greater by a signed order of `w` bits. -/
def sMin (w m x : Nat) : Nat := if intDecode w m ≤ intDecode w x then m else x
/-- The greater by a signed order of `w` bits. -/
def sMax (w m x : Nat) : Nat := if intDecode w m ≤ intDecode w x then x else m

/-- The new word of an atomic with operand x (and n of CAS.64 in y) on the word m (Table 4.4). -/
def atomicNew (aop m x y : Nat) : Nat :=
  match aop with
  | 0x01 => (m + x) % 2 ^ 64
  | 0x02 => onHalves (fun a b => (a + b) % 2 ^ 32) m x
  | 0x03 => onHalves f32Add m x
  | 0x04 => onQuarters bf16Add m x
  | 0x05 => sMin 64 m x
  | 0x06 => sMax 64 m x
  | 0x07 => min m x
  | 0x08 => max m x
  | 0x09 => onHalves (sMin 32) m x
  | 0x0A => onHalves (sMax 32) m x
  | 0x0B => onHalves min m x
  | 0x0C => onHalves max m x
  | 0x0D => onHalves f32Min m x
  | 0x0E => onHalves f32Max m x
  | 0x0F => x
  | 0x10 => if m = x then y else m
  | 0x11 => m &&& x
  | 0x12 => m ||| x
  | 0x13 => Nat.xor m x
  | _ => m

/-- The result of an atomic put into its word, which the read before it has brought: into the line, else past the slice at
a private word; one atomic is one access (R168). -/
def writeAtomic (s : State) (issuer : Nat) (a v : Nat) (keep poison : Bool) : State :=
  match (if regionOf s a = .interleaved then findLine s a else none) with
  | some (key, ln) => touchLine s key (ln.written (a % 64) (leBytes 8 v) true poison) keep
  | none => lineWrite s 1 issuer .normal a (leBytes 8 v) poison

/-- An atomic performed at the home slice under the NORMAL rules (R147, R152, R155): the old word with its poison, and
the state after. DEDUCED: with a poisoned operand (`bad`) the result is written as poison, since no hop but a whole
write clears poison (R614), and the old value returns marked as the result of a poisoned source (R97); the rules of
the atomics do not name this case. -/
def performAtomic (s : State) (issuer aop dpa : Nat) (x y : Nat) (keep bad : Bool) : PWord × State :=
  let a := dpa / 8 * 8
  let r := lineRead s 1 (if keep then .keep else .normal) a 8
  let old := ofLe (r.1.map (·.b))
  let s1 := bumpSlice r.2 Reg.SCD_ATOM (homeSlice s a) 1
  if r.1.any (·.poison) then (⟨BitVec.ofNat 64 old, true⟩, s1)
  else (⟨BitVec.ofNat 64 old, bad⟩, writeAtomic s1 issuer a (atomicNew aop old x y) keep bad)

/-! ### Maintenance (R166) -/

/-- Whether a line's DPA lies in a maintenance range. -/
def inMaintRange (range : Nat) (dpa : Nat) : Bool :=
  let len := bitsOf range 40 24
  let base := bitsOf range 16 24
  len == 0 || (decide (base ≤ dpa / 0x10000) && decide (dpa / 0x10000 < base + len))

/-- The walker's visit of one line: 1 WRITEBACK, 2 WB_INVALIDATE, 3 CLEAR_KEEP. -/
def maintLine (s : State) (op : Nat) (kv : Nat × Line) : State :=
  let dpa := lineDpa kv.1 kv.2
  let wb := fun (s : State) => if kv.2.dirty = 0 then s else writebackLine s dpa kv.2
  match op with
  | 1 => putLine (wb s) kv.1 { kv.2 with dirty := 0 }
  | 2 => let s1 := wb s
         { s1 with scr := { s1.scr with lines := mdel s1.scr.lines kv.1 } }
  | 3 => putLine s kv.1 { kv.2 with keep := false }
  | _ => s

/-- The lines of a die that an operation acts on. -/
def maintLines (s : State) (die range : Nat) : List (Nat × Line) :=
  s.scr.lines.filter fun kv =>
    kv.1 / 16 / sliceSets / 4 == die && !sliceFault s (kv.1 / 16 / sliceSets) && inMaintRange range (lineDpa kv.1 kv.2)

/-- A whole pass of the walker over a die: the lines acted on, and the state. Victims in range are written
first. -/
def maintPass (s : State) (die op range : Nat) : Nat × State :=
  let s0 := (s.scr.victims.filter fun v => v.slice / 4 == die && inMaintRange range v.dpa).foldl finishVictim s
  let ls := maintLines s0 die range
  (ls.length, ls.foldl (fun s kv => maintLine s op kv) s0)

/-- Whether an operation must wait because a line it would write lies in a stack that holds writes. -/
def maintHeld (s : State) (die op range : Nat) : Bool :=
  (op == 1 || op == 2) && ((maintLines s die range).any (fun kv => kv.2.dirty != 0 && dpaHeld s (lineDpa kv.1 kv.2))
    || s.scr.victims.any fun v => v.slice / 4 == die && inMaintRange range v.dpa && dpaHeld s v.dpa)

/-- A write of SCD_MAINT: starts the operation, or is ignored while one is busy (R167). -/
def startMaint (s : State) (die op : Nat) : State :=
  if s.scr.maint.any fun m => m.die = die then setRegBit s (Reg.SCD_ERR die) 3
  else if op = 0 ∨ 3 < op then s
  else
    let s1 := { s with scr := { s.scr with maint := s.scr.maint ++ [⟨die, op, BitVec.ofNat 64 (reg s (Reg.SCD_MAINT_RANGE die))⟩] } }
    setReg s1 (Reg.SCD_MAINT_STATUS die) 1

/-- A write of SCD_MAINT_RANGE, ignored while an operation is busy (R167). -/
def writeMaintRange (s : State) (die v : Nat) : State :=
  if s.scr.maint.any fun m => m.die = die then setRegBit s (Reg.SCD_ERR die) 3
  else plainWrite s (Reg.SCD_MAINT_RANGE die) v

/-- Zero the counters of a die's screed (SCD_CTRL.clr_counters). -/
def clearScd (s : State) (die : Nat) : State :=
  let s1 := setReg s (Reg.SCD_ECC_CNT die) 0
  (List.range 4).foldl (fun s i => setField (zeroRegs s
    [Reg.SCD_HIT die i, Reg.SCD_MISS die i, Reg.SCD_WB die i, Reg.SCD_LAST_DISCARD die i, Reg.SCD_ATOM die i,
     Reg.SCD_BP die i]) (Reg.SCD_SLICE_STATUS die i) 11 9 0) s1

/-- Zero the counts and marks of a die's skim block (SKM_CTRL.clr_counters). -/
def clearSkm (s : State) (die : Nat) : State :=
  let s1 := (List.range 4).foldl (fun s i => setField (zeroRegs s
    [Reg.SKM_READ die i, Reg.SKM_WRITE die i, Reg.SKM_BP die i]) (Reg.SKM_FRONT die i) 9 9 0) s
  (List.range 6).foldl (fun s i => setReg s (Reg.SKM_CHAN die i) 0) s1

/-! ### Slice errors (R143) -/

/-- An uncorrectable tag or state error puts a slice in FAULT. -/
def faultSlice (s : State) (sl : Nat) : State :=
  let s1 := { s with scr := { s.scr with fault := s.scr.fault ||| BitVec.ofNat 8 (2 ^ sl) } }
  let s2 := setField (setRegBit s1 (Reg.SCD_ERR (sl / 4)) (4 + sl % 4)) (Reg.SCD_SLICE_STATUS (sl / 4) (sl % 4)) 0 1 1
  raiseIf s2 (Reg.SCD_CTRL (sl / 4)) 2 0x0020 sl

/-- An ECC outcome of the slice's data: corrected ones are counted, an uncorrectable one poisons the word
(R143). -/
def sliceDataEcc (s : State) (e : Ecc) (dpa : Nat) : State :=
  let sl := homeSlice s dpa
  match e with
  | .clean => s
  | .corrected => bump s (Reg.SCD_ECC_CNT (sl / 4)) 0 32 1
  | .uncorrectable =>
    let s1 := match findLine s dpa with
      | some (key, ln) => putLine s key { ln with poison := ln.poison ||| BitVec.ofNat 8 (2 ^ (dpa % 64 / 8)) }
      | none => s
    raiseIf (setRegBit s1 (Reg.SCD_ERR (sl / 4)) 2) (Reg.SCD_CTRL (sl / 4)) 2 0x0020 sl

/-- An ECC outcome of a tag or line state (R143). -/
def sliceTagEcc (s : State) (e : Ecc) (dpa : Nat) : State :=
  let sl := homeSlice s dpa
  match e with
  | .clean => s
  | .corrected => bump s (Reg.SCD_ECC_CNT (sl / 4)) 32 32 1
  | .uncorrectable => faultSlice s sl

/-! ### The commands of the family -/

/-- Move one front-queue entry of a slice whose channel queue has room, in rounds (R25, R162). -/
def advanceFront (s : State) (sl : Nat) : Option State :=
  let mine := s.scr.front.filter fun q => q.slice = sl ∧ chanDepth s q.stack q.channel < 16
  match nextInRound (servedAt s (8 + sl)) (mine.map fun q => rankOf q.issuer q.slot) with
  | none => none
  | some i =>
    match mine.find? fun q => rankOf q.issuer q.slot = i with
    | none => none
    | some q =>
      let s1 := setServed { s with scr := { s.scr with front := s.scr.front.erase q, chan := s.scr.chan ++ [q] } } (8 + sl) i
      some (noteChan s1 q.stack q.channel (chanDepth s1 q.stack q.channel))

/-- Admit one request that waits for room in a slice's front queue, in rounds (R25, R26). -/
def admitFront (s : State) (sl : Nat) : Option State :=
  let mine := s.scr.frontWait.filter fun q => q.slice = sl
  if 256 ≤ frontDepth s sl then none
  else
    match nextInRound (servedAt s (400 + sl)) (mine.map fun q => rankOf q.issuer q.slot) with
    | none => none
    | some i =>
      match mine.find? fun q => rankOf q.issuer q.slot = i with
      | none => none
      | some q =>
        let s1 := setServed { s with scr := { s.scr with frontWait := s.scr.frontWait.erase q, front := s.scr.front ++ [q] } }
          (400 + sl) i
        some (noteFront s1 sl (frontDepth s1 sl))

/-- Move what can move in the skim queues, the slices in ascending order: a front entry whose channel queue has room, then
a waiting request whose front queue has room (R26). -/
def advanceSkim : Nat → State → State
  | 0, s => s
  | fuel + 1, s =>
    match (List.range 8).findSome? (advanceFront s) with
    | some s1 => advanceSkim fuel s1
    | none =>
      match (List.range 8).findSome? (admitFront s) with
      | some s1 => advanceSkim fuel s1
      | none => s

/-- Moves enough to empty every queue into the next. -/
def skimFuel (s : State) : Nat := 2 * (s.scr.front.length + s.scr.frontWait.length) + 2

/-- A skim access that its home slice does not serve enters the front queue, or waits for room in it (R24, R27, R162,
R165). -/
def enterSkim (s : State) (q : SkimReq) : State :=
  let s1 := if 256 ≤ frontDepth s q.slice then noteFrontFull s q.slice else s
  let s2 := { s1 with scr := { s1.scr with frontWait := s1.scr.frontWait ++ [q] } }
  advanceSkim (skimFuel s2) s2

/-- An 8-byte access to an aligned word that takes the skim path on a miss: it checks its home slice; a hit is served
there under its hint, a miss enters the front queue (R161, R162). A slice in FAULT returns poison and performs no write
(R143). -/
def narrowAccess (s : State) (issuer tag : Nat) (slot : Option Nat) (write : Bool) (hint : Hint) (dpa : Nat) (value : W64)
    (poison : Bool) (who : Waiter) : State :=
  let sl := homeSlice s dpa
  match locateS s dpa with
  | none => if write then s else deliver s who issuer dpa (poisonBytes 8)
  | some l =>
    if sliceFault s sl then
      if write then s else deliver (noteSkimPoison s sl (poisonBytes 8)) who issuer dpa (poisonBytes 8)
    else if waitsHeld s issuer tag write true dpa then
      joinHeld s ⟨issuer, tag, 3, write, hint, dpa, 8, leBytes 8 value.toNat, poison, who⟩
    else
      let s := settleVictim s dpa
      let need := byteMask (dpa % 64) 8
      let found := if regionOf s dpa = .interleaved then findLine s dpa else none
      let q : SkimReq := ⟨sl, l.stack, channelOf l.die l.bank, issuer, slot, write, hint == .last && !write, dpa, value, poison, who⟩
      match found, write with
      | some _, true => lineWriteBy s 3 issuer tag hint dpa (leBytes 8 value.toNat) poison
      | some x, false =>
        if x.2.valid &&& need == need then
          let r := lineRead s 3 hint dpa 8
          deliver (noteSkimPoison r.2 sl r.1) who issuer dpa r.1
        else enterSkim s q
      | none, _ => enterSkim s q

/-- A skim access (SKIM_ACCESS), which behaves as STREAM (R161, R162). -/
def skimAccess (issuer : Nat) (slot : Option Nat) (write : Bool) (addr : Nat) (value : W64) (poison : Bool) (s : State) :
    Host.Outcome State Fault Refusal :=
  .next (narrowAccess s issuer 0 slot write .stream (addr / 8 * 8) value poison (if write then .none else .ext))

/-- Whether an access of `len` bytes takes the skim path on a miss (R161): an aligned word that Table 4.1 does not
allocate. -/
def isNarrow (s : State) (hint : Hint) (dpa len : Nat) : Bool :=
  len == 8 && decide (dpa % 8 = 0) && writesThrough s hint dpa

/-- SLICE_ACCESS: an access within one line reaches its home slice and is performed in line order under its
hint (R148); an allocating read that misses waits for its line fill (R138), a narrow one that is not allocated takes the
skim path (R161), and one that a write hold keeps back waits (R199, R141). An access that crosses its line is cut at the
line's end (R281). -/
def execSliceAccess (a : Access) (tag data : Ecc) (s : State) : Host.Outcome State Fault Refusal :=
  let s := sliceDataEcc (sliceTagEcc s tag a.dpa) data a.dpa
  let room := 64 - a.dpa % 64
  let bs := a.data.take room
  let n := if a.write then bs.length else min a.len room
  let who := if a.write then Waiter.none else .ext
  if isNarrow s a.hint a.dpa n then
    .next (narrowAccess s a.issuer 0 a.slot a.write a.hint a.dpa (BitVec.ofNat 64 (ofLe bs)) a.poison who)
  else if a.write then .next (lineWrite s 1 a.issuer a.hint a.dpa bs a.poison)
  else
    let need := byteMask (a.dpa % 64) n
    let hit := match findLine s a.dpa with | some x => x.2.valid &&& need == need | none => false
    if sliceFault s (homeSlice s a.dpa) = false ∧ waitsHeld s a.issuer 0 false false a.dpa = true then
      .next (joinHeld s ⟨a.issuer, 0, 1, false, a.hint, a.dpa, n, [], false, .ext⟩)
    else if !hit && (a.hint == .normal || a.hint == .keep) && regionOf s a.dpa == .interleaved
        && !sliceFault s (homeSlice s a.dpa) then
      .next { s with scr := { s.scr with fills := s.scr.fills ++ [⟨a.dpa, n, a.issuer, a.hint == .keep⟩] } }
    else
      let r := lineRead s 1 a.hint a.dpa n
      .next (emit r.2 (.readData a.issuer a.dpa r.1))

/-- A fill's bytes return from the stack, are merged into the line's invalid bytes, and the read is served (R138). -/
def performFill (s : State) (f : FillReq) : State :=
  let r := lineRead s 1 (if f.keep then .keep else .normal) f.dpa f.len
  emit r.2 (.readData f.issuer f.dpa r.1)

/-- The bank's queue entry of work at a DPA. -/
def bankReqAt (s : State) (dpa source issuer : Nat) (write : Bool) (work : BankWork) : Option (Nat × BankReq) :=
  (locateS s dpa).map fun l => (l.stack, ⟨l.die, l.bank, l.row, l.byte, source, issuer, write, 0, [], false, work, none⟩)

/-- Whether the bank of a DPA is busy: its trowel runs a command (R250). -/
def bankBusy (s : State) (dpa : Nat) : Bool :=
  match locateS s dpa with | some l => trowelBusy s (trowelOf l.stack l.die l.bank) | none => false

/-- The cycle of the command on a bank's trowel. -/
def cmdNow (s : State) (k die bank : Nat) : Nat :=
  match (trowelAt s (trowelOf k die bank)).cmd with | some c => c.now | none => 0

/-- The queue entries of one bank. -/
def bankEntries (s : State) (k die bank : Nat) : List BankReq :=
  (stackAt s k).bankq.filter fun r => r.die == die && r.bank == bank

/-- The entry at the head of a bank's queue: the next in its round (R25, R251). -/
def bankHead (s : State) (k die bank : Nat) : Option BankReq :=
  let mine := bankEntries s k die bank
  match nextInRound (servedAt s (512 + (k * 20 + die) * 64 + bank)) (mine.map fun r => rankOf r.issuer none) with
  | none => none
  | some i => mine.find? fun r => rankOf r.issuer none == i

/-- Note the command's cycle at which an entry reached the head of its bank's queue. -/
def markHead (s : State) (k die bank : Nat) : State :=
  match bankHead s k die bank with
  | some r =>
    if r.since.isSome then s
    else modStack s k fun x => { x with bankq := x.bankq.map fun y => if y = r then { y with since := some (cmdNow s k die bank) } else y }
  | none => s

/-- Work joins the queue of its busy bank (R252). -/
def joinBank (s : State) (k : Nat) (r : BankReq) : State :=
  markHead (modStack s k fun x => { x with bankq := x.bankq ++ [r] }) k r.die r.bank

/-- LINE_FILL: the oldest fill that no write hold keeps back returns from the stack (R138); at a busy bank it waits in
the bank's queue (R252). DESIGN CHOICE: fills return oldest first over all slices and stacks, which no rule orders. -/
def execLineFill (flips : List Flip) (s : State) : Host.Outcome State Fault Refusal :=
  match s.scr.fills.find? fun f => !waitsHeld s f.issuer 0 false false f.dpa with
  | none => .next s
  | some f =>
    let s1 := flipBits { s with scr := { s.scr with fills := s.scr.fills.erase f } } flips
    match bankBusy s1 f.dpa, bankReqAt s1 f.dpa 1 f.issuer false (.fill f) with
    | true, some x => .next (joinBank s1 x.1 x.2)
    | _, _ => .next (performFill s1 f)

/-- WRITEBACK_DONE: the oldest victim of a slice completes its writeback (R141); at a busy bank it waits in the bank's
queue (R252). DESIGN CHOICE: the victims of a slice complete oldest first, which no rule orders. -/
def execWritebackDone (slice : Nat) (s : State) : Host.Outcome State Fault Refusal :=
  match s.scr.victims.find? fun v => v.slice = slice && !dpaHeld s v.dpa with
  | none => .next s
  | some v =>
    match bankBusy s v.dpa, bankReqAt s v.dpa 1 255 true (.victim v) with
    | true, some x =>
      if (stackAt s x.1).bankq.any fun r => r.work == .victim v then .next s else .next (joinBank s x.1 x.2)
    | _, _ => .next (finishVictim s v)

/-- Whether an atomic cannot be performed yet: its stack holds writes, and its word lies past the slice or in a line
whose writeback waits (R199, R141). -/
def atomicWaits (s : State) (q : AtomReq) : Bool :=
  let a := q.dpa / 8 * 8
  waitsHeld s q.issuer 0 true (decide (regionOf s a ≠ .interleaved)) a

/-- The queued atomic that a slice's unit performs next, in rounds (R25, R156), with its rank. -/
def nextAtomic (s : State) (slice : Nat) : Option (AtomReq × Nat) :=
  let mine := s.scr.atoms.filter fun q => q.slice = slice ∧ atomicWaits s q = false
  match nextInRound (servedAt s slice) (mine.map fun q => rankOf q.issuer q.slot) with
  | none => none
  | some i => (mine.find? fun q => rankOf q.issuer q.slot = i).map fun q => (q, i)

/-- A slice's unit performs a queued atomic: the old value, and the state after; a slice in FAULT returns poison and
performs nothing (R143). -/
def takeAtomic (s : State) (slice : Nat) (q : AtomReq) (rank : Nat) : PWord × State :=
  let s1 := setServed { s with scr := { s.scr with atoms := s.scr.atoms.erase q } } slice rank
  if sliceFault s1 slice then (⟨0, true⟩, s1)
  else performAtomic s1 q.issuer q.aop q.dpa q.x.toNat q.y.toNat q.keep q.poison

/-- An atomic enters its home slice's queue of 256, or meets back-pressure and waits outside (R156, R24). -/
def enqueueAtomic (s : State) (q : AtomReq) : Option State :=
  let n := (s.scr.atoms.filter fun x => x.slice = q.slice).length
  if 256 ≤ n then none
  else some (raiseTo { s with scr := { s.scr with atoms := s.scr.atoms ++ [q] } }
    (Reg.SCD_SLICE_STATUS (q.slice / 4) (q.slice % 4)) 11 9 (n + 1))

/-- COMMIT_NOTICE: the oldest notice under way for a line is applied at the line's home slice (R149). -/
def execCommitNotice (dpa : Nat) (s : State) : Host.Outcome State Fault Refusal :=
  match locateS s dpa with
  | none => .next s
  | some l =>
    match (stackAt s l.stack).notices.find? fun n => n.dpa / 64 == dpa / 64 with
    | none => .next s
    | some n => .next (commitNotice (modStack s l.stack fun k => { k with notices := k.notices.erase n }) n.dpa n.mask)

/-- Channel service (SKIM_CHANNEL_SERVICE): a channel performs the queued skim access that is next in its round (R163,
R164); at a busy bank it waits in the bank's queue (R252). -/
def skimService (stack channel : Nat) (flips : List Flip) (s : State) : Host.Outcome State Fault Refusal :=
  let mine := s.scr.chan.filter fun q => q.stack = stack ∧ q.channel = channel
  let key := 16 + stack * 32 + channel
  match nextInRound (servedAt s key) (mine.map fun q => rankOf q.issuer q.slot) with
  | none => .next s
  | some i =>
    match mine.find? fun q => rankOf q.issuer q.slot = i with
    | none => .next s
    | some q =>
      let s1 := flipBits (setServed { s with scr := { s.scr with chan := s.scr.chan.erase q } } key i) flips
      let s2 := match bankBusy s1 q.dpa, bankReqAt s1 q.dpa 3 q.issuer q.write (.skim q) with
        | true, some x => joinBank s1 x.1 x.2
        | _, _ => performSkim s1 q
      .next (advanceSkim (skimFuel s2) s2)

/-- WRITEBACK: the SCD_MAINT operation that writes dirty bytes and keeps the lines clean. -/
def execWriteback (die : Nat) (s : State) : Host.Outcome State Fault Refusal := .next (startMaint s (die % 2) 1)
/-- WB_INVALIDATE: the SCD_MAINT operation that writes dirty bytes and then invalidates the lines. -/
def execWbInvalidate (die : Nat) (s : State) : Host.Outcome State Fault Refusal := .next (startMaint s (die % 2) 2)
/-- CLEAR_KEEP: the SCD_MAINT operation that clears keep bits. -/
def execClearKeep (die : Nat) (s : State) : Host.Outcome State Fault Refusal := .next (startMaint s (die % 2) 3)

/-- MAINT_DONE: the walker's pass over a die's sets is performed and ends, with its event (R166); it waits while
a line it must write lies in a stack that holds writes. -/
def execMaintDone (die : Nat) (s : State) : Host.Outcome State Fault Refusal :=
  match s.scr.maint.find? fun m => m.die = die with
  | none => .next s
  | some m =>
    if maintHeld s die m.op m.range.toNat then .next s
    else
      let s1 := { s with scr := { s.scr with maint := s.scr.maint.erase m } }
      let r := maintPass s1 die m.op m.range.toNat
      .next (raiseIf (setReg r.2 (Reg.SCD_MAINT_STATUS die) (r.1 * 2 ^ 32)) (Reg.SCD_CTRL die) 0 0x0022 die)

/-- SCD_MAINT_RANGE: a write of the maintenance range. -/
def execScdMaintRange (die : Nat) (v : W64) (s : State) : Host.Outcome State Fault Refusal :=
  .next (writeMaintRange s (die % 2) v.toNat)
/-- SCD_CLR_COUNTERS: zeroes the die's screed counters. -/
def execScdClrCounters (die : Nat) (s : State) : Host.Outcome State Fault Refusal := .next (clearScd s (die % 2))
/-- SKM_CLR_COUNTERS: zeroes the die's skim counts and marks. -/
def execSkmClrCounters (die : Nat) (s : State) : Host.Outcome State Fault Refusal := .next (clearSkm s (die % 2))

end Sys2Proof.Machine
end

