-- ==== Sys2Proof/Machine/Trowel.lean ====
section
/-!
DEFINITION. The trowels (chapter 6): launch, the micro-instructions of the three slots with their cycles, commit
and kill, and the sharing of a pair's banks.
-/
namespace Sys2Proof.Machine

/-! ### Items and dependencies -/

/-- Whether an itinerary is loaded (R216). -/
def itinLoaded (s : State) : Bool := s.itn.image.isSome || s.engines.any fun e => e.2.itn.image.isSome

/-- Work of the running segment is lost: an abort cause naming the next waystation owed (R319, R678). -/
def lostWork (s : State) : State :=
  let inSegment := match s.itn.run with
    | .running => true | .stoppedHalt => true | .stoppedPreempt => true | .resuming => true | _ => false
  if inSegment && s.itn.cause == 0 then { s with itn := { s.itn with cause := 2, causeWay := s.itn.way } } else s

/-- An item's dependency is satisfied (Table 8.3). -/
def itemDone (s : State) (i : Option Nat) : State :=
  match i with
  | none => s
  | some n => if s.itn.done.contains n then s else { s with itn := { s.itn with done := s.itn.done ++ [n] } }

/-- The items of the loaded image. -/
def itinItems (s : State) : List Item := match s.itn.image with | some g => g.items | none => []
/-- The rounding seed of the loaded image (R67). -/
def itinSeed (s : State) : Nat := match s.itn.image with | some g => g.seed | none => 0

/-- The hub's plan list for a trowel in the step in progress (R405). -/
def planOf (s : State) (stack trowel : Nat) : List PlanCmd :=
  s.srv.core.plans.filter fun c => c.stack == stack && c.trowel == trowel

/-- Launches already made by an attention item. -/
def planPos (s : State) (i : Nat) : Nat := mgetD 0 s.itn.planAt i

/-- A launch of an item has retired its END: the item is done, an attention item only with the last launch of its
list. -/
def launchDone (s : State) (i : Option Nat) : State :=
  match (itinItems s).find? fun x => some x.id == i with
  | some x =>
    match x.work with
    | .attn l _ => if planPos s x.id < (planOf s l.stack l.trowel).length then s else itemDone s i
    | _ => itemDone s i
  | none => itemDone s i

/-- The run's conversion flags and poison (R75). -/
def runFlags (s : State) (f : Flags) (poison : Bool) : State :=
  { s with itn := { s.itn with flags := s.itn.flags.or f, poisoned := s.itn.poisoned || poison } }

/-! ### Refreshes postponed at a bank (R251, R258) -/

/-- The number of a bank in the module. -/
def bankKey (stack die bank : Nat) : Nat := (stack * 20 + die) * 64 + bank
/-- Refreshes postponed at a bank. -/
def postponed (s : State) (b : Nat) : Nat := mgetD 0 s.mem.postponed b
/-- The postponed count of a bank set, with the stack's high-water mark (R258). -/
def setPostponed (s : State) (stack b n : Nat) : State :=
  raiseTo { s with mem := { s.mem with postponed := mput 0 s.mem.postponed b n } } (Reg.STK_REFRESH stack) 4 4 n
/-- Refreshes taken after their due time are counted (R258). -/
def lateRefresh (s : State) (stack n : Nat) : State := bump s (Reg.STK_REFRESH stack) 32 32 n

/-! ### Channel accesses that wait at a busy bank (R251 to R253) -/

/-- Perform a bank's queue entry, with its answer. A write to a stack that holds writes waits for the hold's end (R199). -/
def serveBank (s : State) (k : Nat) (r : BankReq) : State :=
  let l : Loc := ⟨k, r.die, r.bank, r.row, r.byte⟩
  let dpa := dpaOf (stackCount s) s.mem.p l
  match r.work with
  | .access =>
    if r.write then
      if stackHolds s k then joinHeld s ⟨r.issuer, 0, r.source, true, .stream, dpa, r.data.length, r.data, r.poison, .none⟩
      else bankWrite s r.source l r.data r.poison
    else
      let a := bankRead s r.source l r.len
      emit a.2 (.readData r.issuer dpa a.1)
  | .skim q => performSkim s q
  | .fill f => performFill s f
  | .victim v => if s.scr.victims.contains v then finishVictim s v else s
  | .host fn => { s with pci := { s.pci with granted := s.pci.granted ++ [fn] } }

/-- Take one entry from the head of a bank's queue and perform it: its deferral, up to cycle `start`, is counted
(R253). -/
def serveHead (s : State) (k die bank start : Nat) : Option State :=
  match bankHead s k die bank with
  | none => none
  | some r =>
    let x := trowelOf k die bank
    let s1 := setServed (modStack s k fun y => { y with bankq := y.bankq.erase r }) (512 + bankKey k die bank) (rankOf r.issuer none)
    let s2 := match r.since with | some c => noteDefer s1 x (start - c) | none => s1
    some (serveBank s2 k r)

/-- Serve every entry of a bank's queue in rounds (R251). -/
def serveAll : Nat → State → Nat → Nat → Nat → Nat → State
  | 0, s, _, _, _, _ => s
  | fuel + 1, s, k, die, bank, now =>
    match serveHead s k die bank now with
    | some s1 => serveAll fuel (markHead s1 k die bank) k die bank now
    | none => s

/-- A bank whose busy bit has cleared at cycle `now` of the command that ended: 4 postponed refreshes bring one taken
first, then the queued accesses, then the other postponed refreshes (R251). -/
def serveBankEnd (s : State) (k die bank now : Nat) : State :=
  let b := bankKey k die bank
  let n := postponed s b
  let s1 := serveAll (bankEntries s k die bank).length s k die bank now
  if n = 0 then s1 else lateRefresh (setPostponed s1 k b 0) k n

/-- Serve both banks of a pair once its busy bits have cleared. -/
def servePair (s : State) (x : TSite) (now : Nat) : State :=
  serveBankEnd (serveBankEnd s x.stack (tDie x) (tBank x 0) now) x.stack (tDie x) (tBank x 1) now

/-! ### Launch (R213 to R217) -/

/-- The launch values of Table 6.1. -/
def launchCmd (entry wfmt ofmt qfmt seed seq tag span : Nat) (params : List W16) (item : Option Nat)
    (base : Option Nat) : TrwCmd :=
  { acc := List.replicate 16 (List.replicate 64 ⟨0, false⟩), q := List.replicate 8 (List.replicate 64 ⟨0, false⟩),
    w := List.replicate 64 ⟨0, false⟩, wbuf := List.replicate 128 ⟨0, false⟩, sbuf := List.replicate 64 ⟨0, false⟩,
    l0 := none, l1 := none, ptr := params, loops := [], cbuf := [], cpoison := [], flags := .none,
    storedPoison := false, pc := entry, slot := 0, skip := none, now := 0, count := 0, v0 := 0, v1 := 0, r0 := 0,
    r1 := 0, f0 := 0, f1 := 0, o0 := 0, o1 := 0, base := base, wfmt := wfmt, ofmt := ofmt, qfmt := qfmt, seed := seed, seq := seq, tag := tag,
    span := span, params := params, entry := entry, valid := none, item := item }

/-- The conditions of R217 on the launch values. -/
def launchOk (span wfmt ofmt qfmt : Nat) : Bool :=
  decide (1 ≤ span) && decide (span ≤ 3120) &&
  (match fmtDecode wfmt, fmtDecode ofmt, fmtDecode qfmt with
   | some w, some o, some q =>
     (workForm w.code w.wideFp16).isSome && trowelQueryOk q.code && trowelStoreOk o.code && isInt w.code == isInt q.code
   | _, _, _ => false)

/-- How a command ends other than DONE, as a code of TRW_STATUS.outcome. -/
def raiseTrwDone (s : State) (x : TSite) : State :=
  if regBit s (Reg.TRW_CTRL x.stack x.trowel) 3 then raiseEvent s 0x0034 (tKey x) else s

/-- The state of a trowel once its command has ended. -/
def restState (s : State) (x : TSite) : TrwState :=
  if (stackAt s x.stack).disabled.contains (tDie x) then .disabled else .idle

/-- The cycle at which a command in progress ends with an outcome: for SPAN, the one at which its count reaches the
span. -/
def TrwCmd.endCycle (c : TrwCmd) (o : TrwOutcome) : Nat := match o with | .span => c.now + (c.span - c.count) | _ => c.now

/-- A command ends KILLED, SPAN or FAULT: everything of Table 6.1 is discarded (R219, R221, R245); an itinerary
command is kept for its re-run (R247). The busy bits stay while an OPEN already begun runs to its end. -/
def endKilled (s : State) (x : TSite) (o : TrwOutcome) : State :=
  let t := trowelAt s x
  match t.cmd with
  | none => s
  | some c =>
    let now := c.endCycle o
    let again := match c.item with
      | some _ => some { launchCmd c.entry c.wfmt c.ofmt c.qfmt c.seed c.seq c.tag c.span c.params c.item c.base with valid := c.valid }
      | none => none
    let s1 := setTrowel s x { state := restState s x, outcome := o, pc := c.pc, cmd := none, rerun := again, starts := t.starts,
                              drain := (c.o0 - now, c.o1 - now) }
    let s2 := bump s1 (Reg.TRW_KILLS x.stack x.trowel) 0 32 1
    let s3 := match o with
      | .span => setRegBit s2 (Reg.TRW_ERR x.stack x.trowel) 0
      | .fault => setRegBit s2 (Reg.TRW_ERR x.stack x.trowel) 5
      | _ => s2
    let s4 := raiseTrwDone s3 x
    if trowelBusy s4 x then s4 else servePair s4 x now

/-- The bank operations of killed commands have ended: their busy bits clear and their banks are served (R245). They
last at most 38 cycles, less than a bell. -/
def endDrains (s : State) : State :=
  s.trowels.foldl (fun s kv =>
    if kv.2.drain = (0, 0) then s
    else
      let x : TSite := ⟨kv.1 / 640, kv.1 % 640⟩
      let s1 := setTrowel s x { trowelAt s x with drain := (0, 0) }
      servePair s1 x (max kv.2.drain.1 kv.2.drain.2)) s

/-- END retires (R220). -/
def endDone (s : State) (x : TSite) : State :=
  let t := trowelAt s x
  match t.cmd with
  | none => s
  | some c =>
    let s1 := setTrowel s x { state := restState s x, outcome := .done, pc := c.pc, cmd := none, rerun := none, starts := t.starts, drain := (0, 0) }
    let f := c.flags
    -- TRW_FLAGS holds nrw, rsv, inv, unf, ovf, sat from bit 5 down, and poison in bit 6
    let s2 := setReg s1 (Reg.TRW_FLAGS x.stack x.trowel) (f.bits + 64 * b2n c.storedPoison)
    let s3 := bump s2 (Reg.TRW_RUNS x.stack x.trowel) 0 32 1
    let s4 := match c.item with
      | some _ => runFlags (launchDone s3 c.item) f c.storedPoison
      | none => s3
    servePair (raiseTrwDone s4 x) x c.now

/-- A command starts on an IDLE trowel; on a stack in FAULT it ends FAULT (R610). A bank that an OPEN of a killed
command still occupies is not ready until it ends. -/
def startCmd (s : State) (x : TSite) (c : TrwCmd) : State :=
  let t := trowelAt s x
  let s1 := setTrowel s x { t with state := .run, pc := c.entry, cmd := some { c with r0 := t.drain.1, r1 := t.drain.2 }, rerun := none, drain := (0, 0) }
  if (stackAt s x.stack).state = .fault then endKilled s1 x .fault else s1

/-- A direct launch with the values of the command registers (R215, R217). -/
def directLaunch (s : State) (x : TSite) (entry : Nat) : State :=
  let r := fun (f : Nat → Nat → Nat) => reg s (f x.stack x.trowel)
  let span := bitsOf (r Reg.TRW_SPAN) 0 12
  let fmt := r Reg.TRW_FMT
  let qf := bitsOf (r Reg.TRW_QFMT) 0 16
  if (trowelAt s x).state = .idle && launchOk span (bitsOf fmt 16 16) (bitsOf fmt 0 16) qf then
    let params := (List.range 16).map fun i => BitVec.ofNat 16 (reg s (Reg.TRW_PARAM x.stack x.trowel i))
    startCmd s x (launchCmd entry (bitsOf fmt 16 16) (bitsOf fmt 0 16) qf
      (r Reg.TRW_SEED_LO % 2 ^ 32 + 2 ^ 32 * (r Reg.TRW_SEED_HI % 2 ^ 32)) (r Reg.TRW_SEQ % 2 ^ 32)
      (r Reg.TRW_TAG % 2 ^ 32) span params none none)
  else setRegBit s (Reg.TRW_ERR x.stack x.trowel) 3

/-- Whether new commands to a trowel's banks are held for a retirement (R207). -/
def retireHolds (s : State) (x : TSite) : Bool :=
  s.cmd.inProg.any fun c => c.op == 0x0204 && c.args.take 2 == [x.stack, x.trowel]

/-- A kill request (R223, R244 to R246): it acts in RUN and HELD only. -/
def killCmd (s : State) (x : TSite) : State :=
  match (trowelAt s x).state with
  | .run => endKilled s x .killed
  | .held => endKilled s x .killed
  | _ => s

/-- A write of TRW_CTRL by an agent other than the itinerary (R215, R216, R223): entry and the event enable are
taken, clr_counters acts, kill acts alone when written with start. -/
def writeTrwCtrl (s : State) (x : TSite) (v : Nat) : State :=
  if !trowelExists s x then s
  else if itinLoaded s then setRegBit s (Reg.TRW_ERR x.stack x.trowel) 4
  else
    let s1 := plainWrite s (Reg.TRW_CTRL x.stack x.trowel) v
    let s2 := if bitAt v 2 then
        setField (zeroRegs s1 [Reg.TRW_RUNS x.stack x.trowel, Reg.TRW_KILLS x.stack x.trowel, Reg.TRW_DEFER x.stack x.trowel])
          (Reg.TRW_REFRESH x.stack x.trowel) 8 24 0
      else s1
    if bitAt v 1 then killCmd s2 x
    else if bitAt v 0 then
      if retireHolds s x && (trowelAt s2 x).state == .idle then setTrowel s2 x { trowelAt s2 x with starts := some (bitsOf v 8 8) } else directLaunch s2 x (bitsOf v 8 8)
    else s2

/-! ### Cycles (R219, R225, R229, Table 6.9) -/

/-- Cycles of a wait from `now` to `c` during which a refresh taken under R257, of 224 cycles ending at `f`, occupies the
bank. -/
def refreshWait (now c f : Nat) : Nat := min c f - max now (f - 224)

/-- The first cycle from `c` at which an operation of `len` cycles overlaps no planned refresh slot of its bank: slots
of 224 cycles recur every 3,125 cycles from `phase`, in the itinerary's time, of which the command's cycle 0 is `base`
(R175, R256). -/
def avoidSlot (base phase c len : Nat) : Nat :=
  let p := (base + c + 3125 - phase % 3125) % 3125
  if p < 224 then c + (224 - p) else if p + len ≤ 3125 then c else c + (3125 - p) + 224

/-- The first cycle from `c` at which an operation of `len` cycles ends before the next channel window and, with a
`slot` of the itinerary's time and the bank's phase, overlaps no planned refresh slot (R229). -/
def issueAt : Nat → Option (Nat × Nat) → Nat → Nat → Nat
  | 0, _, c, _ => c
  | fuel + 1, slot, c, len =>
    let w := openSlot c len
    match slot with
    | none => w
    | some (base, phase) =>
      let a := avoidSlot base phase w len
      if a = w then w else issueAt fuel slot a len

/-- A command that issues at cycle `c` and takes `dur` cycles, `stall` of the wait being refresh; none where its
count would pass the span (R219). -/
def charge (k : TrwCmd) (c dur stall : Nat) : Option TrwCmd :=
  let n := k.count + (c - k.now) - stall + dur
  if k.span < n then none else some { k with now := c + dur, count := n }

/-- The instruction word at the program counter. -/
def fetchMicro (s : State) (x : TSite) (c : TrwCmd) : Nat := (mgetD 0 s.ustore ((tKey x) * 256 + c.pc)).toNat

/-- Where issue continues after the instruction at index i, with the loops left open (R226). -/
def afterIndex : Nat → Nat → List LoopEnt → Nat × List LoopEnt
  | 0, i, ls => (i + 1, ls)
  | fuel + 1, i, ls =>
    match ls.find? fun l => l.stop = i with
    | none => (i + 1, ls)
    | some l =>
      if 1 < l.left then (l.start, ls.map fun m => if m = l then { m with left := m.left - 1 } else m)
      else afterIndex fuel i (ls.erase l)

/-- The index that issues next. -/
def nextIndex (c : TrwCmd) : Nat × List LoopEnt := afterIndex 3 (c.skip.getD c.pc) c.loops

/-- The cycle from which bank b is ready. -/
def TrwCmd.ready (c : TrwCmd) (b : Nat) : Nat := if b = 0 then c.r0 else c.r1

/-- A refresh taken on bank b of a pair at a micro-operation boundary of its command, where the bank is ready, if it ends
before the next channel window or no access waits for the bank (R257). -/
def takeRefresh (s : State) (x : TSite) (b : Nat) : Option State :=
  match (trowelAt s x).cmd with
  | none => none
  | some c =>
    if c.base.isSome ∨ c.now < c.ready b then none
    else if (bankEntries s x.stack (tDie x) (tBank x b)).isEmpty = false ∧ openSlot c.now 224 ≠ c.now then none
    else
      let fin := c.now + 224
      some (modCmd s x fun c => if b = 0 then { c with r0 := fin, f0 := fin } else { c with r1 := fin, f1 := fin })

/-- A refresh that waits at bank b is taken at this boundary if it may be (R257). -/
def retryRefresh (s : State) (x : TSite) (b : Nat) : State :=
  let k := bankKey x.stack (tDie x) (tBank x b)
  let n := postponed s k
  if n = 0 then s
  else
    match takeRefresh s x b with
    | some s1 => lateRefresh (setPostponed s1 x.stack k (n - 1)) x.stack 1
    | none => s

/-- After the C slot: the next instruction, or FAULT past index 255 (R221); refreshes that wait are taken at the
boundary. -/
def advance (s : State) (x : TSite) : State :=
  match (trowelAt s x).cmd with
  | none => s
  | some c =>
    let n := nextIndex c
    if 255 < n.1 then endKilled s x .fault
    else retryRefresh (retryRefresh (modCmd s x fun c => { c with pc := n.1, loops := n.2, skip := none, slot := 0 }) x 0) x 1

/-- The slot that follows the X slot. -/
def afterX (w : Nat) : Nat := if uWop w = 1 then 1 else 2

/-- An X-slot operation `op` of a running trowel: the present instruction must name it, a reserved code in the
instruction ends the command FAULT (R221), and `act` performs it. -/
def xStep (s : State) (x : TSite) (op : Nat) (act : TrwCmd → Nat → State) : State :=
  let t := trowelAt s x
  match t.state, t.cmd with
  | .run, some c =>
    if c.slot ≠ 0 then s
    else
      let w := fetchMicro s x c
      if uReserved w then endKilled s x .fault
      else if uXop w = op then act c w
      else s
  | .commit, some c =>
    -- after a COMMIT only END issues (R221)
    if c.slot = 0 ∧ op = 6 ∧ uXop (fetchMicro s x c) = 6 then act c (fetchMicro s x c) else s
  | _, _ => s

/-- The command after an X slot, or its end where the span is passed. -/
def commitX (s : State) (x : TSite) (w : Nat) (c : Option TrwCmd) : State :=
  match c with
  | none => endKilled s x .span
  | some c => modCmd s x fun _ => { c with slot := afterX w }

/-- Pointer register p. -/
def TrwCmd.p (c : TrwCmd) (i : Nat) : Nat := (nth c.ptr i 0).toNat
/-- A pointer register set. -/
def TrwCmd.setP (c : TrwCmd) (i v : Nat) : TrwCmd := { c with ptr := c.ptr.set i (BitVec.ofNat 16 v) }

/-- Latch b with the cycle from which it is valid. -/
def TrwCmd.latch (c : TrwCmd) (b : Nat) : Option (List PByte × Nat) :=
  if b = 0 then c.l0.map fun l => (l, c.v0) else c.l1.map fun l => (l, c.v1)
/-- The end of the refresh on bank b. -/
def TrwCmd.refr (c : TrwCmd) (b : Nat) : Nat := if b = 0 then c.f0 else c.f1

/-- The issue cycle and the refresh stall of a bank operation of `len` cycles on bank b of trowel x (R229): inside an
itinerary it overlaps no planned refresh slot of the bank, and the wait counts toward the span (R256). -/
def bankIssue (x : TSite) (c : TrwCmd) (b len : Nat) : Nat × Nat :=
  let slot := c.base.map fun t => (t, Config.refreshPhase (bankKey x.stack (tDie x) (tBank x b)))
  let at_ := issueAt 8 slot (max c.now (c.ready b)) len
  (at_, refreshWait c.now at_ (c.refr b))

/-- Advance TRW_REFRESH.stall (R257). -/
def noteStall (s : State) (x : TSite) (n : Nat) : State := bump s (Reg.TRW_REFRESH x.stack x.trowel) 8 24 n

/-! ### X slot (Table 6.6) -/

/-- An operation of one cycle that changes only the command. -/
def simpleX (s : State) (x : TSite) (op : Nat) (f : TrwCmd → Nat → TrwCmd) : State :=
  xStep s x op fun c w => commitX s x w ((charge c c.now 1 0).map fun c => f c w)

/-- Whether a row holds an uncorrectable error or stored poison. -/
def rowHasUe (s : State) (l : Loc) : Bool :=
  let gb := granuleBytes s.variant
  (List.range (2048 / gb)).any fun i =>
    match classify s.variant (chkDiff s (physOf l / gb + i)) with
    | .stored => true | .uncorrectable => true | _ => false

/-- OPEN (R230 to R232): the whole row into the latch, checked and corrected. -/
def openRow (s : State) (x : TSite) (c : TrwCmd) (w : Nat) : State :=
  let b := uX w 17 1
  let p := uX w 13 4
  let row := c.p p
  if 32768 ≤ row then endKilled s x .fault
  else
    let is := bankIssue x c b 38
    match charge c is.1 1 is.2 with
    | none => endKilled s x .span
    | some c1 =>
      let l : Loc := ⟨x.stack, tDie x, tBank x b, row, 0⟩
      let ret := isRetired s l
      let s1 := if ret then setRegBit s (Reg.TRW_ERR x.stack x.trowel) 2
        else if rowHasUe s l then setRegBit s (Reg.TRW_ERR x.stack x.trowel) 1 else s
      let r := bankRead s1 2 l 2048
      let c2 := c1.setP p (addPtr row (signedOf 8 (uX w 0 8)))
      let c3 := if b = 0 then { c2 with l0 := some r.1, v0 := is.1 + 24, r0 := is.1 + 38, o0 := is.1 + 38 }
                else { c2 with l1 := some r.1, v1 := is.1 + 24, r1 := is.1 + 38, o1 := is.1 + 38 }
      modCmd (noteStall r.2 x is.2) x fun _ => { c3 with slot := afterX w }

/-- A beat of 64 bytes of a latch. -/
def beat (l : List PByte) (i : Nat) : List PByte := (l.drop (64 * i)).take 64

/-- STREAM (Table 6.6): it stalls until its latch is valid; a latch that no OPEN of this command has loaded is
never valid, and the stall runs into the span. -/
def streamBeat (s : State) (x : TSite) (c : TrwCmd) (w : Nat) : State :=
  let p := uX w 13 4
  match c.latch (uX w 17 1) with
  | none => endKilled s x .span
  | some (l, v) =>
    commitX s x w ((charge c (max c.now v) 1 0).map fun c =>
      let bt := beat l (c.p p % 32)
      let c1 := c.setP p (addPtr (c.p p) 1)
      match uX w 11 2 with
      | 0 => { c1 with wbuf := bt ++ c.wbuf.drop 64 }
      | 1 => { c1 with wbuf := c.wbuf.take 64 ++ bt }
      | _ => { c1 with sbuf := bt })

/-- LOADQ cycles by format (R235). -/
def loadqCycles (f : Nat) : Nat := if f = 1 ∨ f = 2 then 4 else if f = 0x0C then 1 else 2

/-- The lanes that LOADQ makes of its source bytes (R235, R84). -/
def loadqLanes (f : Nat) (bs : List PByte) : List QLane × Flags :=
  let n := elemBits f / 8
  let ls := (List.range 64).map fun i =>
    let e := (bs.drop (n * i)).take n
    let v := ofLe (e.map (·.b))
    -- container bits [12:0] of an FP19 value are ignored (R43)
    let r := if f = 1 then narrowQuery v else if f = 2 then narrowQuery (v / 2 ^ 13 * 2 ^ 13)
      else if f = 0x0C then (intEncode 16 (intDecode 8 v), Flags.none) else (v, Flags.none)
    ((⟨BitVec.ofNat 16 r.1, e.any (·.poison)⟩ : QLane), r.2)
  (ls.map (·.1), ls.foldl (fun a l => a.or l.2) .none)

/-- A stack reducer after reset: slots EMPTY, nothing queued; the operand area, undefined until written, reads
zero (DESIGN CHOICE). -/
def Reducer.reset : Reducer := { slots := [], area := [], jobs := [], running := none }
/-- The reducer of a stack. -/
def reducerAt (s : State) (k : Nat) : Reducer := mgetD Reducer.reset s.reducers k
/-- The reducer of a stack replaced. -/
def setReducer (s : State) (k : Nat) (r : Reducer) : State :=
  { s with reducers := mput Reducer.reset s.reducers k r }
/-- Bytes of the operand area. -/
def areaRead (r : Reducer) (o n : Nat) : List PByte := (List.range n).map fun i => mgetD ⟨0, false⟩ r.area (o + i)
/-- Bytes written to the operand area. -/
def areaWrite (r : Reducer) (o : Nat) (bs : List PByte) : Reducer :=
  { r with area := (bs.foldl (fun (a : List (Nat × PByte) × Nat) b => (mput ⟨0, false⟩ a.1 a.2 b, a.2 + 1)) (r.area, o)).1 }

/-- LOADQ (R221, R235). -/
def loadQ (s : State) (x : TSite) (c : TrwCmd) (w : Nat) : State :=
  let f := bitsOf c.qfmt 0 5
  let n := loadqCycles f
  let p := uX w 12 4
  let q := uX w 9 3
  let src := uX w 16 2
  let fill := fun (c : TrwCmd) (bs : List PByte) =>
    let r := loadqLanes f bs
    ({ (c.setP p (addPtr (c.p p) n)) with q := c.q.set q r.1, flags := c.flags.or r.2 } : TrwCmd)
  if src = 2 then
    if 32768 < 64 * (c.p p + n) then endKilled s x .fault
    else commitX s x w ((charge c c.now n 0).map fun c => fill c (areaRead (reducerAt s x.stack) (64 * c.p p) (64 * n)))
  else if 31 < c.p p + n - 1 then endKilled s x .fault
  else
    match c.latch src with
    | none => endKilled s x .span
    | some (l, v) => commitX s x w ((charge c (max c.now v) n 0).map fun c =>
        fill c ((l.drop (64 * c.p p)).take (64 * n)))

/-- The value of an accumulator lane. -/
def accVal (int : Bool) (v : Nat) : FVal := if int then .ofInt (intDecode 32 v) else f32 v

/-- STORE (R236): lanes 0 to n-1 of an accumulator into the commit buffer under ofmt's own rounding, or FAULT (R221). -/
def storeLanes (s : State) (x : TSite) (c : TrwCmd) (w : Nat) : State :=
  let a := uX w 14 4
  let p := uX w 10 4
  let n := uX w 4 6 + 1
  let off := c.p p
  match fmtDecode c.ofmt with
  | none => endKilled s x .fault
  | some o =>
    let eb := elemBits o.code
    let bytes := n * eb / 8
    if off % 8 ≠ 0 ∨ 2048 < off + bytes then endKilled s x .fault
    else
      let int := isInt (bitsOf c.wfmt 0 5)
      let lanes := (nth c.acc a []).take n
      let conv := lanes.mapIdx fun i l =>
        let y := viaFp32 (if int then 0x0A else 1) o.code o.ovf (accVal int l.v.toNat)
        let r := toScalar o.code (modeFor o.round c.seed c.seq c.tag (8 * off / eb + i)) o.ovf y.1
        (r.1, r.2.or y.2)
      let bs := conv.flatMap fun r => leBytes (eb / 8) r.1
      let marks := lanes.flatMap fun l => List.replicate (eb / 8) l.poison
      let buf := (bs.foldl (fun (m : List (Nat × Byte) × Nat) b => (mset m.1 m.2 b, m.2 + 1)) (c.cbuf, off)).1
      let words := (List.range ((bytes + 7) / 8)).map fun i => off / 8 + i
      let bad := fun k => (List.range 8).any fun j => marks.getD (8 * k + j - off) false && decide (off ≤ 8 * k + j)
      let whole := fun k => decide (off ≤ 8 * k) && decide (8 * k + 8 ≤ off + bytes)
      let pz := words.foldl (fun ps k =>
        if bad k then (if ps.contains k then ps else ps ++ [k]) else if whole k then ps.erase k else ps) c.cpoison
      commitX s x w ((charge c c.now 1 0).map fun c =>
        { (c.setP p (addPtr off bytes)) with
          cbuf := buf, cpoison := pz, storedPoison := c.storedPoison || words.any bad,
          flags := conv.foldl (fun f r => f.or r.2) c.flags })

/-! ### COMMIT (R237 to R243) -/

/-- Write masked bytes into a row: on a Prasum 960 byte by byte; on a Prasum 480 complete sectors directly and
partial ones through the merge buffer (R239); poisoned words as stored poison (R238). -/
def writeRow (s : State) (base : Nat) (bytes : List (Nat × Byte)) (pz : List Nat) : State :=
  match s.variant with
  | .pm960 => bytes.foldl (fun s b => writeGranule s (base + b.1) [b.2] (pz.contains (b.1 / 8))) s
  | .pm480 => loopN 64 s fun i s =>
      let mine := bytes.filter fun b => b.1 / 32 = i
      if mine.isEmpty then s
      else
        let bad := mine.any fun b => pz.contains (b.1 / 8)
        let g := base / 32 + i
        if mine.length = 32 then
          let k := (locOf base).stack
          writeGranule (modStack s k fun y => { y with merge := y.merge.filter fun e => e.sector ≠ g }) g (mine.map (·.2)) bad
        else mergeWrite s g (mine.map fun b => (b.1 % 32, b.2)) bad

/-- The commit notices of a row write (R149, R240) join those under way: each line of an interleaved bank with the bytes
committed. -/
def rowNotices (s : State) (l : Loc) (t : Nat) (bytes : List (Nat × Byte)) : State :=
  if 64 - 8 * s.mem.p ≤ l.bank then s
  else loopN 32 s fun i s =>
    let mine := bytes.filter fun b => b.1 / 64 = i
    if mine.isEmpty then s
    else
      let m := mine.foldl (fun (m : BitVec 64) b => m ||| BitVec.ofNat 64 (2 ^ (b.1 % 64))) 0
      let n : Notice := ⟨t, dpaOf (stackCount s) s.mem.p { l with byte := 64 * i }, m⟩
      modStack s l.stack fun k => { k with notices := k.notices ++ [n] }

/-- The commit proper: the row write or the slot fill, and the state COMMIT. -/
def doCommit (s : State) (x : TSite) (c : TrwCmd) (w : Nat) : State :=
  let pv := c.p (uX w 12 4)
  let t := trowelAt s x
  let s0 := setTrowel s x { t with state := .commit, cmd := some { c with slot := afterX w } }
  if uX w 17 1 = 1 then
    let r := reducerAt s0 x.stack
    let bs := (List.range 256).map fun i => (⟨(mget c.cbuf i).getD 0, c.cpoison.contains (i / 8)⟩ : PByte)
    setReducer s0 x.stack { r with slots := mset r.slots pv ⟨bs, bitsOf c.ofmt 0 5, c.valid⟩ }
  else
    let l : Loc := ⟨x.stack, tDie x, tBank x (uX w 16 1), pv, 0⟩
    if isRetired s0 l then
      setRegBit (if c.cbuf.isEmpty then s0 else noteRetired s0 2 l) (Reg.TRW_ERR x.stack x.trowel) 2
    else if c.cbuf.isEmpty then s0
    else if !stackServes s0 x.stack then s0
    else rowNotices (writeRow s0 (physOf l) c.cbuf c.cpoison) l x.trowel c.cbuf

/-- The slots that a job descriptor writes (Table 6.16): its output slot and, for SOFTMAX and MERGE, the next. -/
def rOutSlots (w : Nat) : List Nat :=
  if bitAt w 41 then (if bitsOf w 60 4 = 3 ∨ bitsOf w 60 4 = 4 then [bitsOf w 32 9, bitsOf w 32 9 + 1] else [bitsOf w 32 9]) else []

/-- Whether a COMMIT must wait in HELD (R242, R243): for a slot that is FULL, or that a running job is about to fill, so
that a FULL slot is never overwritten (R263); or for a write hold. -/
def commitHeld (s : State) (x : TSite) (c : TrwCmd) (w : Nat) : Bool :=
  if uX w 17 1 = 1 then
    let r := reducerAt s x.stack
    (r.slots.any fun e => e.1 == c.p (uX w 12 4)) ||
      (match r.running with | some j => (rOutSlots j.w.toNat).contains (c.p (uX w 12 4)) | none => false)
  else stackHolds s x.stack

/-- COMMIT: its faults (R221), then HELD or the commit. -/
def commitOp (s : State) (x : TSite) (c : TrwCmd) (w : Nat) : State :=
  let toSlot := uX w 17 1 = 1
  let pv := c.p (uX w 12 4)
  let nxt := nextIndex c
  let follow := fetchMicro s x { c with pc := nxt.1 }
  -- a reserved code in the END, or a part of the COMMIT's own W slot that the format reserves, is seen before the
  -- COMMIT begins, which nothing ends any more (R246)
  let bad := uXop follow ≠ 6 ∨ uReserved follow = true ∨ 255 < nxt.1 ∨
    (uWop w = 1 ∧ partOk (bitsOf c.wfmt 0 5) (uPart w) = false) ∨
    (if toSlot then 63 < pv ∨ (c.cbuf.any fun b => decide (255 < b.1)) ∨ reducerSlotOk (bitsOf c.ofmt 0 5) = false
     else 32768 ≤ pv)
  if bad then endKilled s x .fault
  else
    let is := if toSlot then (c.now, 0) else bankIssue x c (uX w 16 1) 36
    let dur := if toSlot then 4 + (c.cbuf.length + 63) / 64 else 36
    -- the span is compared at the issue: a COMMIT that has begun completes (R219)
    match charge c is.1 1 is.2 with
    | none => endKilled s x .span
    | some c1 =>
      let c2 := { c1 with now := is.1 + dur, count := c1.count + dur - 1 }
      let s1 := noteStall s x is.2
      if commitHeld s x c w then
        let t := trowelAt s1 x
        setTrowel s1 x { t with state := .held, cmd := some c2 }
      else doCommit s1 x c2 w

/-- A held COMMIT begins once its hold has ended (R243). -/
def heldResume (s : State) (x : TSite) : State :=
  let t := trowelAt s x
  match t.state, t.cmd with
  | .held, some c =>
    let w := fetchMicro s x c
    if commitHeld s x c w then s else doCommit s x c w
  | _, _ => s

/-- LOOP (R221, R226). -/
def loopOp (s : State) (x : TSite) (c : TrwCmd) (w : Nat) : State :=
  let n := c.p (uX w 14 4)
  let e := uX w 0 8
  if n ≠ 0 ∧ 2 ≤ c.loops.length then endKilled s x .fault
  else commitX s x w ((charge c c.now 1 0).map fun c =>
    if n = 0 then { c with skip := some e }
    else { c with loops := ⟨c.pc + 1, e, n⟩ :: c.loops })

/-! ### W slot (R233, R234) -/

/-- The widened lanes of a part with their flags. -/
def widenPart (c : TrwCmd) (part base : Nat) : List QLane × Flags :=
  let d := c.wfmt
  let code := bitsOf d 0 5
  let eb := elemBits code
  let stream := (c.wbuf.drop (part * wBytes code)).take (wBytes code)
  let num := ofLe (stream.map (·.b))
  let ls := (List.range 64).map fun i =>
    let j := (base % 64 + i / blockLen code) % 64
    let sc := nth c.sbuf j ⟨0, false⟩
    let v := bitsOf num (i * eb) eb
    let r := widenElem code (bitAt d 5) (bitAt d 9) v (if isBlock code then sc.b.toNat else 0)
    let lo := i * eb / 8
    let hi := (i * eb + eb - 1) / 8
    let pz := ((stream.drop lo).take (hi + 1 - lo)).any (·.poison) || (isBlock code && sc.poison)
    ((⟨BitVec.ofNat 16 r.1, pz⟩ : QLane), r.2)
  (ls.map (·.1), ls.foldl (fun a l => a.or l.2) .none)

/-- WIDEN. -/
def widenOp (s : State) (x : TSite) : State :=
  let t := trowelAt s x
  match t.cmd with
  | none => s
  | some c =>
    let w := fetchMicro s x c
    let code := bitsOf c.wfmt 0 5
    if c.slot ≠ 1 ∨ (t.state ≠ .run ∧ t.state ≠ .commit) then s
    else if !partOk code (uPart w) then endKilled s x .fault
    else
      let sp := uScale w
      let r := widenPart c (uPart w) (c.p sp)
      modCmd s x fun c => { (c.setP sp (addPtr (c.p sp) (wScales code))) with w := r.1, flags := c.flags.or r.2, slot := 2 }

/-! ### C slot (Table 6.7) -/

/-- The greater of two INT32 values. -/
def i32Max (a b : Nat) : Nat := if intDecode 32 a ≤ intDecode 32 b then b else a

/-- An exact integer into INT32 with saturation (R50). -/
def satI32 (i : Int) : Nat × Flags :=
  if i > 2147483647 then (0x7FFFFFFF, .onlySat)
  else if i < -2147483648 then (0x80000000, .onlySat) else (intEncode 32 i, .none)

/-- Rounding shift of an integer, to nearest even. -/
def rneShift (i : Int) (n : Nat) : Int :=
  let m : Int := roundRat .rne i.natAbs (2 ^ n)
  if i < 0 then -m else m

/-- SHIFT of one lane. -/
def shiftLane (int : Bool) (v : Nat) (n : Int) : Nat × Flags :=
  if int then
    if n < 0 then satI32 (rneShift (intDecode 32 v) n.natAbs) else satI32 (intDecode 32 v * (2 ^ n.natAbs : Nat))
  else (toF32 ((f32 v).scale n), .none)

/-- The value of a working operand: INT16, or BF16 or FP16 by its form. -/
def workVal (form v : Nat) : FVal :=
  if form = 0x0B then .ofInt (intDecode 16 v) else layDecode (if form = 4 then layFp16 else layBf16) v

/-- An accumulator plus an exact value, rounded once (R227) or saturated (R50). -/
def accAdd (int : Bool) (a : Nat) (x : FVal) : Nat × Flags :=
  if int then
    match x with
    | .fin n m e => satI32 (intDecode 32 a + (FVal.fin n m e).numAt 0)
    | _ => (a, .none)
  else (toF32 ((f32 a).add x), .none)

/-- The working forms of W and Q (R79, R83, R235). -/
def wForm (c : TrwCmd) : Nat := (workForm (bitsOf c.wfmt 0 5) (bitAt c.wfmt 9)).getD 3
/-- The working form of Q. -/
def qForm (c : TrwCmd) : Nat :=
  let f := bitsOf c.qfmt 0 5
  if f = 0x0B ∨ f = 0x0C then 0x0B else if f = 4 then 4 else 3

/-- Whether the accumulators are INT32 (R214). -/
def accInt (c : TrwCmd) : Bool := isInt (bitsOf c.wfmt 0 5)

/-- The lane that MACS and MACB name (Table 6.8). -/
def cLane (c : TrwCmd) (w : Nat) : Nat := if bitAt w 12 then c.p (bitsOf w 8 4) % 64 else bitsOf w 13 6

/-- A C-slot operation `op` of a running trowel: `f` gives the command after it. -/
def cStep (s : State) (x : TSite) (op : Nat) (f : TrwCmd → Nat → TrwCmd) : State :=
  let t := trowelAt s x
  match t.cmd with
  | none => s
  | some c =>
    let w := fetchMicro s x c
    if c.slot ≠ 2 ∨ (t.state ≠ .run ∧ t.state ≠ .commit) ∨ uCop w ≠ op then s
    else
      -- linc adds 1 to the lane pointer after an operation
      advance (modCmd s x fun c =>
        let c1 := f c w
        if op ≠ 0 ∧ bitAt w 7 then c1.setP (bitsOf w 8 4) (addPtr (c1.p (bitsOf w 8 4)) 1) else c1) x

/-- A C-slot operation lane by lane on accumulator a. -/
def lanesOp (c : TrwCmd) (w : Nat) (f : Nat → ALane → (Nat × Flags) × Bool) : TrwCmd :=
  let r := (nth c.acc (uA w) []).mapIdx fun i l => f i l
  { c with acc := c.acc.set (uA w) (r.map fun y => ⟨BitVec.ofNat 32 y.1.1, y.2⟩),
           flags := r.foldl (fun g y => g.or y.1.2) c.flags }

/-- Lane i of W and of Q register q. -/
def wLane (c : TrwCmd) (i : Nat) : QLane := nth c.w i ⟨0, false⟩
/-- A Q lane. -/
def qLane (c : TrwCmd) (q i : Nat) : QLane := nth (nth c.q q []) i ⟨0, false⟩

/-- The exact product of two working lanes. -/
def workMul (c : TrwCmd) (a b : QLane) : FVal := (workVal (wForm c) a.v.toNat).mul (workVal (qForm c) b.v.toNat)

/-- MAC. -/
def macOp (c : TrwCmd) (w : Nat) : TrwCmd :=
  lanesOp c w fun i l =>
    let a := wLane c i
    let b := qLane c (uQ w) i
    (accAdd (accInt c) l.v.toNat (workMul c a b), l.poison || a.poison || b.poison)

/-- MACB: the broadcast operand is lane L of Q. -/
def macbOp (c : TrwCmd) (w : Nat) : TrwCmd :=
  let b := qLane c (uQ w) (cLane c w)
  lanesOp c w fun i l =>
    let a := wLane c i
    (accAdd (accInt c) l.v.toNat (workMul c a b), l.poison || a.poison || b.poison)

/-- MACS: the exact sum of 64 products added to lane L with one rounding. -/
def macsOp (c : TrwCmd) (w : Nat) : TrwCmd :=
  let ps := (List.range 64).map fun i => (wLane c i, qLane c (uQ w) i)
  let sum := FVal.sum (ps.map fun y => workMul c y.1 y.2)
  let bad := ps.any fun y => y.1.poison || y.2.poison
  let L := cLane c w
  lanesOp c w fun i l =>
    if i = L then (accAdd (accInt c) l.v.toNat sum, l.poison || bad) else ((l.v.toNat, .none), l.poison)

/-- Lane i of accumulator b. -/
def bLane (c : TrwCmd) (w i : Nat) : ALane := nth (nth c.acc (uB w) []) i ⟨0, false⟩

/-! ### The commands: launch, kill and counters -/

/-- TRW_START: a write of TRW_CTRL with start set. -/
def execTrwStart (t : TSite) (v : W32) (s : State) : Host.Outcome State Fault Refusal :=
  .next (writeTrwCtrl s t (v ||| 1).toNat)
/-- TRW_KILL: a write of TRW_CTRL with kill set. -/
def execTrwKill (t : TSite) (v : W32) (s : State) : Host.Outcome State Fault Refusal :=
  .next (writeTrwCtrl s t (v ||| 2).toNat)
/-- TRW_CLR_COUNTERS: a write of TRW_CTRL with clr_counters set. -/
def execTrwClrCounters (t : TSite) (v : W32) (s : State) : Host.Outcome State Fault Refusal :=
  .next (writeTrwCtrl s t (v ||| 4).toNat)

/-- A waystation of the variant in use. -/
def planWay (s : State) (i : Nat) : Option WayEnt := match s.itn.image with | some g => (nth g.ways s.itn.variant [])[i]? | none => none

/-- Whether a waystation has been released at this module: an ARRIVAL by its own release, another one once the
waystation worked toward lies past it. -/
def wayReleased (s : State) (i : Nat) : Bool :=
  match planWay s i with
  | some w => if w.kind = 1 then s.itn.arrivals.contains i else decide (i < s.itn.way)
  | none => false

/-- Whether a dependency is satisfied: an item, or waystation d - 2^32 (Table 8.3). -/
def depMet (s : State) (d : Nat) : Bool := if d < 2 ^ 32 then s.itn.done.contains d else wayReleased s (d - 2 ^ 32)

/-- Whether an item of the running variant may begin: its planned start has come, its dependencies are satisfied, and
the caravan-wide waystation worked toward is not planned before it (R300, R317). -/
def itemReady (s : State) (i : Item) : Bool :=
  s.itn.run == .running && i.variant == s.itn.variant && !s.itn.begun.contains i.id &&
  (match s.itn.startAt with
   | some b => decide (i.start ≤ (s.bell - b - s.itn.shift) * 64 + 63) && decide (b + s.itn.shift ≤ s.bell)
   | none => false) &&
  (match planWay s s.itn.way with | some w => decide (i.start < 64 * w.release) | none => true) &&
  i.deps.all (depMet s)

/-- An item begins. -/
def beginItem (s : State) (i : Item) : State := { s with itn := { s.itn with begun := s.itn.begun ++ [i.id] } }

/-! ### The commands: X slot -/

/-- X_NOP. -/
def execTrwXNop (t : TSite) (s : State) : Host.Outcome State Fault Refusal := .next (simpleX s t 0 fun c _ => c)
/-- OPEN; `flips` are the stored bits that have flipped by the time of the read. -/
def execTrwOpen (t : TSite) (flips : List Flip) (s : State) : Host.Outcome State Fault Refusal :=
  let s1 := flipBits s flips
  .next (xStep s1 t 1 fun c w => openRow s1 t c w)
/-- STREAM. -/
def execTrwStream (t : TSite) (s : State) : Host.Outcome State Fault Refusal :=
  .next (xStep s t 2 fun c w => streamBeat s t c w)
/-- LOADQ. -/
def execTrwLoadq (t : TSite) (s : State) : Host.Outcome State Fault Refusal := .next (xStep s t 3 fun c w => loadQ s t c w)
/-- STORE. -/
def execTrwStore (t : TSite) (s : State) : Host.Outcome State Fault Refusal :=
  .next (xStep s t 4 fun c w => storeLanes s t c w)
/-- COMMIT. -/
def execTrwCommit (t : TSite) (s : State) : Host.Outcome State Fault Refusal :=
  .next (xStep s t 5 fun c w => commitOp s t c w)
/-- END (R220): the command ends DONE, once every bank operation it started has finished and every notice of its COMMIT
has been applied (R149, R240); in RUN the wait and its own cycle count toward the span. DESIGN CHOICE: the command has
ended with its X slot, so that the W and C slots of the END instruction do nothing, which no rule says. -/
def execTrwEnd (t : TSite) (s : State) : Host.Outcome State Fault Refusal :=
  .next (xStep s t 6 fun c _ =>
    if (stackAt s t.stack).notices.any fun n => n.trowel == t.trowel then s
    else
      let fin := max c.now (max c.o0 c.o1)
      match charge c fin 1 0 with
      | some c1 => endDone (modCmd s t fun _ => c1) t
      | none => if (trowelAt s t).state = .run then endKilled s t .span else endDone (modCmd s t fun c => { c with now := fin + 1 }) t)
/-- SETP. -/
def execTrwSetp (t : TSite) (s : State) : Host.Outcome State Fault Refusal :=
  .next (simpleX s t 8 fun c w => c.setP (uX w 14 4) (nth c.params (uX w 10 4) 0).toNat)
/-- ADDP. -/
def execTrwAddp (t : TSite) (s : State) : Host.Outcome State Fault Refusal :=
  .next (simpleX s t 9 fun c w => c.setP (uX w 14 4) (addPtr (c.p (uX w 14 4)) (signedOf 14 (uX w 0 14))))
/-- LOOP. -/
def execTrwLoop (t : TSite) (s : State) : Host.Outcome State Fault Refusal := .next (xStep s t 0x0A fun c w => loopOp s t c w)

/-! ### The commands: W and C slots -/

/-- WIDEN. -/
def execTrwWiden (t : TSite) (s : State) : Host.Outcome State Fault Refusal := .next (widenOp s t)
/-- C_NOP. -/
def execTrwCNop (t : TSite) (s : State) : Host.Outcome State Fault Refusal := .next (cStep s t 0 fun c _ => c)
/-- MAC. -/
def execTrwMac (t : TSite) (s : State) : Host.Outcome State Fault Refusal := .next (cStep s t 1 macOp)
/-- MACS. -/
def execTrwMacs (t : TSite) (s : State) : Host.Outcome State Fault Refusal := .next (cStep s t 2 macsOp)
/-- MACB. -/
def execTrwMacb (t : TSite) (s : State) : Host.Outcome State Fault Refusal := .next (cStep s t 3 macbOp)
/-- SHIFT. -/
def execTrwShift (t : TSite) (s : State) : Host.Outcome State Fault Refusal :=
  .next (cStep s t 4 fun c w => lanesOp c w fun _ l =>
    (shiftLane (accInt c) l.v.toNat (signedOf 6 (bitsOf w 1 6)), l.poison))
/-- MAX. -/
def execTrwCMax (t : TSite) (s : State) : Host.Outcome State Fault Refusal :=
  .next (cStep s t 5 fun c w => lanesOp c w fun i l =>
    let b := bLane c w i
    ((if accInt c then i32Max l.v.toNat b.v.toNat else f32Max l.v.toNat b.v.toNat, .none), l.poison || b.poison))
/-- ADD. -/
def execTrwCAdd (t : TSite) (s : State) : Host.Outcome State Fault Refusal :=
  .next (cStep s t 6 fun c w => lanesOp c w fun i l =>
    let b := bLane c w i
    (accAdd (accInt c) l.v.toNat (accVal (accInt c) b.v.toNat), l.poison || b.poison))
/-- ZERO: +0 or 0, with neg = 1 the negative extreme. -/
def execTrwZero (t : TSite) (s : State) : Host.Outcome State Fault Refusal :=
  .next (cStep s t 7 fun c w => lanesOp c w fun _ _ =>
    ((if bitAt w 0 then (if accInt c then 0x80000000 else 0xFF800000) else 0, .none), false))
/-- MOVA. -/
def execTrwMova (t : TSite) (s : State) : Host.Outcome State Fault Refusal :=
  .next (cStep s t 8 fun c w => lanesOp c w fun i _ => let b := bLane c w i; ((b.v.toNat, .none), b.poison))

/-! ### The commands: span, hold, window and cluster -/

/-- SPAN_EXPIRY: the count of a command in RUN or HELD has reached its span, and it is killed (R219). A command
whose count is below its span has not expired, and nothing happens. -/
def execSpanExpiry (t : TSite) (s : State) : Host.Outcome State Fault Refusal :=
  let x := trowelAt s t
  match x.state, x.cmd with
  | .run, some c => .next (if c.span ≤ c.count then endKilled s t .span else s)
  | _, _ => .next s

/-- HELD_RESUME. -/
def execHeldResume (t : TSite) (s : State) : Host.Outcome State Fault Refusal := .next (heldResume s t)

/-- CHANNEL_WINDOW: the window of bank 2q + b opens while a command runs, and the access at the head of the
bank's queue starts (R252, R253), after a refresh that delays the window; the bank is not ready until the window has
ended (R250). -/
def execChannelWindow (t : TSite) (b : Nat) (s : State) : Host.Outcome State Fault Refusal :=
  match trowelBusy s t, (trowelAt s t).cmd with
  | true, some c =>
    let bank := tBank t (b % 2)
    let start := max (windowStart c.now) (c.refr (b % 2))
    match serveHead s t.stack (tDie t) bank start with
    | none => .next s
    | some s1 =>
      let fin := (start / 720 + 1) * 720
      let s2 := modCmd s1 t fun c => if b % 2 = 0 then { c with r0 := max c.r0 fin } else { c with r1 := max c.r1 fin }
      .next (markHead s2 t.stack (tDie t) bank)
  | _, _ => .next s

/-- A trowel of a disabled cluster: its command in RUN or HELD ends FAULT; an idle one is DISABLED at once. -/
def disableTrowel (x : TSite) (s : State) : State :=
  match (trowelAt s x).state with
  | .run => endKilled s x .fault
  | .held => endKilled s x .fault
  | .idle => setTrowel s x { trowelAt s x with state := .disabled }
  | _ => s

/-- Whether the running variant still owes work to the trowels of a DRAM die. -/
def dieOwed (s : State) (stack die : Nat) : Bool :=
  (itinItems s).any fun i => match i.work with
    | .trowel l => i.variant == s.itn.variant && l.stack == stack && l.trowel / 32 == die && !s.itn.done.contains i.id
    | .attn l _ => i.variant == s.itn.variant && l.stack == stack && l.trowel / 32 == die && !s.itn.done.contains i.id
    | _ => false

/-- TROWEL_CLUSTER_DISABLE: commands in RUN or HELD on the die's 32 trowels end FAULT, and each trowel enters
DISABLED once its command has ended; the segment that owes them work has lost it (R221). -/
def execTrowelClusterDisable (stack die : Nat) (s : State) : Host.Outcome State Fault Refusal :=
  if stackCount s ≤ stack ∨ 20 ≤ die then .next s
  else
    let s1 := modStack s stack fun k => { k with disabled := if k.disabled.contains die then k.disabled else k.disabled ++ [die] }
    let s2 := loopN 32 s1 fun q s => disableTrowel ⟨stack, 32 * die + q⟩ s
    .next (if dieOwed s2 stack die then lostWork s2 else s2)

end Sys2Proof.Machine
end

