-- ==== Sys2Proof/Machine/Stacks.lean ====
section
/-!
DEFINITION. The sequencer's own work on a stack (chapter 5, §6.9 and §6.10): channel accesses at a bank, refresh,
merge-buffer windows, patrol scrub, and the stack's FAULT.
-/
namespace Sys2Proof.Machine

/-! ### Refresh (R174, R251, R256 to R258) -/

/-- Whether a channel access waits for a bank. -/
def bankPending (s : State) (stack die bank : Nat) : Bool :=
  ((stackAt s stack).bankq.any fun r => r.die == die && r.bank == bank) ||
  s.scr.chan.any fun q => q.stack == stack &&
    (match locateS s q.dpa with | some l => l.die == die && l.bank == bank | none => false)

/-- Whether the stack performs refreshes: its DRAM is neither off nor in self-refresh. -/
def refreshes (s : State) (k : Nat) : Bool := stackServes s k

/-- A refresh that cannot be taken now waits, unless 4 wait already (R251). -/
def postpone (s : State) (stack b : Nat) : State :=
  if postponed s b < 4 then setPostponed s stack b (postponed s b + 1) else lateRefresh s stack 1

/-- REFRESH: a refresh of a bank falls due. It is taken, late ones first, or postponed behind channel accesses,
at most 4 at once (R251); inside an itinerary it takes its planned slot (R256); during a command outside one it
is taken at a micro-operation boundary under R257. -/
def execRefresh (stack die bank : Nat) (s : State) : Host.Outcome State Fault Refusal :=
  if stackCount s ≤ stack ∨ 20 ≤ die ∨ 64 ≤ bank ∨ refreshes s stack = false then .next s
  else
    let b := bankKey stack die bank
    let x := trowelOf stack die bank
    if s.itn.run = .running then .next s
    else if trowelBusy s x then
      match takeRefresh s x (bank % 2) with
      | some s1 => .next s1
      | none => .next (postpone s stack b)
    else if bankPending s stack die bank then .next (postpone s stack b)
    else .next (lateRefresh (setPostponed s stack b 0) stack (postponed s b))

/-! ### Channel accesses (R251 to R254) -/

/-- BANK_ACCESS: a channel access at a bank. While the bank's trowel runs it waits for a channel window; otherwise
the sequencer serves it with check decode and correction. It lies within one row of its bank. A write to a stack
that holds writes waits (R199). -/
def execBankAccess (source issuer : Nat) (write : Bool) (dpa len : Nat) (data : List Byte) (poison : Bool)
    (flips : List Flip) (s : State) : Host.Outcome State Fault Refusal :=
  match locateS s dpa with
  | none => .next s
  | some l =>
    let room := 256 - dpa % 256
    let d := data.take room
    let n := min len room
    let s1 := flipBits s flips
    let x := trowelOf l.stack l.die l.bank
    let r : BankReq := ⟨l.die, l.bank, l.row, l.byte, source, issuer, write, n, d, poison, .access, none⟩
    if trowelBusy s1 x && !(write && stackHolds s1 l.stack) then .next (joinBank s1 l.stack r)
    else .next (serveBank s1 l.stack r)

/-! ### Merge buffer (R192) -/

/-- MERGE_WINDOW_CLOSE: the 80 ns of the stack's oldest entry have passed and it closes by read-modify-write,
unless the stack holds writes (R199) or does not serve. -/
def execMergeWindowClose (stack : Nat) (flips : List Flip) (s : State) : Host.Outcome State Fault Refusal :=
  let s1 := flipBits s flips
  if (stackAt s1 stack).state ≠ .active then .next s1
  else
    match (stackAt s1 stack).merge with
    | [] => .next s1
    | e :: _ => .next (closeEntry s1 e)

/-! ### Patrol scrub (R200 to R202, R212) -/

/-- Row visits of a pass over one stack. -/
def scrubRows : Nat := 32768 * 20 * 64

/-- Check every granule of a row that is in error, as scrub reads them. -/
def scrubRow (s : State) (l : Loc) : State :=
  let gb := granuleBytes s.variant
  let g0 := physOf l / gb
  let hit := s.mem.chk.filter fun e => decide (g0 ≤ e.1) && decide (e.1 < g0 + 2048 / gb)
  hit.foldl (fun s e =>
    let c := classify s.variant e.2
    noteCheck s 5 (locOf (errorByte s.variant (e.1 * gb) c)) c e.2 false) s

/-- Whether a due visit must wait (R201, R255). -/
def scrubWaits (s : State) (stack die bank : Nat) : Bool :=
  trowelBusy s (trowelOf stack die bank) ||
  (if s.itn.run = .running then (stackAt s stack).hot else bankPending s stack die bank)

/-- One row visit, and the end of the pass after the last: the pass is late where visits that were due wait still
(R201); a new pass begins with none. DESIGN CHOICE: a pass goes row by row, in each row over the dies and in each die
over the banks, an order that no rule gives; every bank has its visits evenly spread (R200). -/
def scrubOne (s : State) (stack : Nat) : State :=
  let pos := (stackAt s stack).scrubPos
  let l : Loc := ⟨stack, pos / 64 % 20, pos % 64, pos / 1280, 0⟩
  let s1 := modStack (if isRetired s l then s else scrubRow s l) stack fun k => { k with scrubLag := k.scrubLag - 1 }
  if pos + 1 < scrubRows then modStack s1 stack fun k => { k with scrubPos := pos + 1 }
  else
    let late := (stackAt s1 stack).scrubLag ≠ 0
    let s2 := modStack s1 stack fun k => { k with scrubPos := 0, scrubLag := 0, scrubPasses := min (k.scrubPasses + 1) (2 ^ 32 - 1) }
    let s3 := if late then setRegBit s2 (Reg.STK_ERR stack) 0 else s2
    raiseIf s3 (Reg.STK_CTRL stack) 1 0x0032 stack

/-- The visits that are due, in order, until one must wait. -/
def scrubDue : Nat → State → Nat → State
  | 0, s, _ => s
  | fuel + 1, s, stack =>
    let k := stackAt s stack
    if k.scrubLag = 0 ∨ scrubWaits s stack (k.scrubPos / 64 % 20) (k.scrubPos % 64) = true then s
    else scrubDue fuel (scrubOne s stack) stack

/-- SCRUB_VISIT: the next row visit of a stack's patrol scrub falls due; it and those that have waited are made where
their banks are free (R201). `scrubLag` counts the visits that are due and not made. `flips` are stored bits that have
flipped by the time of the read. -/
def execScrubVisit (stack : Nat) (flips : List Flip) (s : State) : Host.Outcome State Fault Refusal :=
  let s := flipBits s flips
  if stackCount s ≤ stack ∨ stackServes s stack = false ∨ regBit s (Reg.STK_SCRUB_CTRL stack) 8 = false then .next s
  else
    let s1 := modStack s stack fun k => { k with scrubLag := k.scrubLag + 1 }
    .next (scrubDue (stackAt s1 stack).scrubLag s1 stack)

/-- Minutes that the current pass is behind its even spread (R201): a visit falls due every interval_h hours over the
visits of a pass. -/
def scrubLagMin (s : State) (stack : Nat) : Nat :=
  (stackAt s stack).scrubLag * (regField s (Reg.STK_SCRUB_CTRL stack) 0 8 * 60) / scrubRows

/-- A write of STK_SCRUB_CTRL (R212). -/
def writeScrubCtrl (s : State) (k v : Nat) : State :=
  let h := bitsOf v 0 8
  if h = 0 ∨ 168 < h then setRegBit s (Reg.STK_ERR k) 4 else plainWrite s (Reg.STK_SCRUB_CTRL k) v

/-- STK_SCRUB_CTRL: a write of the scrub interval and enable. -/
def execStkScrubCtrl (stack : Nat) (v : W64) (s : State) : Host.Outcome State Fault Refusal :=
  if stackCount s ≤ stack then .next s else .next (writeScrubCtrl s stack v.toNat)

/-- The counters that STK_CTRL.clr_counters zeroes (Table 5.9). -/
def clearStk (s : State) (k : Nat) : State :=
  setField (zeroRegs s [Reg.STK_CE_CNT k, Reg.STK_UE_CNT k, Reg.STK_REFRESH k]) (Reg.STK_MERGE k) 16 48 0

/-- A write of STK_CTRL. -/
def writeStkCtrl (s : State) (k v : Nat) : State :=
  let s1 := plainWrite s (Reg.STK_CTRL k) v
  if bitAt v 7 then clearStk s1 k else s1

/-- STK_CLR_COUNTERS: a write of STK_CTRL with clr_counters set. -/
def execStkClrCounters (stack : Nat) (v : W64) (s : State) : Host.Outcome State Fault Refusal :=
  if stackCount s ≤ stack then .next s else .next (writeStkCtrl s stack (v ||| 0x80).toNat)

/-! ### The stack's FAULT (R610) -/

/-- Every trowel command of a stack ends with an outcome. -/
def endStackCmds (s : State) (stack : Nat) (o : TrwOutcome) : State :=
  s.trowels.foldl (fun s kv => if kv.1 / 640 = stack then endKilled s ⟨stack, kv.1 % 640⟩ o else s) s

/-- A stack enters FAULT: its DRAM goes to self-refresh, its commands end FAULT, STK_ERR.fault is set and the
event raised. -/
def faultStack (s : State) (k : Nat) : State :=
  let s1 := modStack s k fun x => { x with state := .fault }
  raiseEvent (setRegBit (endStackCmds s1 k .fault) (Reg.STK_ERR k) 3) 0x00E4 k

/-- STACK_FAULT: a PLL, sequencer or retrain failure of a stack. -/
def execStackFault (stack : Nat) (s : State) : Host.Outcome State Fault Refusal :=
  if stackCount s ≤ stack then .next s else .next (faultStack s stack)

end Sys2Proof.Machine
end

