-- ==== Sys2Proof/Machine/Reducer.lean ====
section
/-!
DEFINITION. The stack reducers (§6.11): the job queue, the conditions of a start, the six job kinds and their
outputs.
-/
namespace Sys2Proof.Machine

/-! ### Job descriptors (Table 6.16) -/

/-- Job kind. -/
def rKind (w : Nat) : Nat := bitsOf w 60 4
/-- First input slot. -/
def rFirst (w : Nat) : Nat := bitsOf w 54 6
/-- Input slots c. -/
def rCount (w : Nat) : Nat := bitsOf w 48 6 + 1
/-- Lanes n. -/
def rLanes (w : Nat) : Nat := bitsOf w 42 6 + 1
/-- The descriptor with n lanes. -/
def setLanes (w n : Nat) : Nat := setBits w 42 6 (n - 1)
/-- Whether the output goes to a slot. -/
def rToSlot (w : Nat) : Bool := bitAt w 41
/-- Output unit or slot. -/
def rOut (w : Nat) : Nat := bitsOf w 32 9
/-- Output format code. -/
def rFmt (w : Nat) : Nat := bitsOf w 16 5

/-- Whether the job writes (m, l) after its lanes. -/
def rHasMl (w : Nat) : Bool := rKind w == 3 || rKind w == 4
/-- Output lanes: one for RMS. -/
def rOutLanes (w : Nat) : Nat := if rKind w = 6 then 1 else rLanes w
/-- Output bytes of the e, O or result lanes. -/
def rOutBytes (w : Nat) : Nat := rOutLanes w * elemBits (rFmt w) / 8
/-- 64-byte units of that output. -/
def rUnits (w : Nat) : Nat := (rOutBytes w + 63) / 64

/-- Whether a count is one that the kind allows (Table 6.14). -/
def rCountOk (w : Nat) : Bool :=
  match rKind w with
  | 3 => rCount w == 1
  | 4 => rCount w % 2 == 0
  | 5 => rCount w == 2
  | _ => true

/-- The conditions of R263 and R264. -/
def jobOk (w : Nat) : Bool :=
  decide (1 ≤ rKind w) && decide (rKind w ≤ 6) && bitsOf w 0 16 == 0 &&
  (match fmtDecode (bitsOf w 16 16) with
   | some f => (f.code == 1 || f.code == 3 || f.code == 4) && f.round != .stochastic
   | none => false) &&
  decide (rFirst w + rCount w ≤ 64) && rCountOk w &&
  (if rToSlot w then decide (rOut w + b2n (rHasMl w) ≤ 63) else decide (rOut w + rUnits w + b2n (rHasMl w) ≤ 512))

/-- The slots that a job reads. -/
def rInSlots (w : Nat) : List Nat := (List.range (rCount w)).map fun i => rFirst w + i

/-- Whether a slot is FULL. -/
def slotFull (r : Reducer) (i : Nat) : Bool := (mget r.slots i).isSome

/-- Whether a job may start (R260, R263). -/
def jobReady (r : Reducer) (w : Nat) : Bool :=
  (rInSlots w).all (slotFull r) && (rOutSlots w).all fun i => !slotFull r i

/-! ### Inputs -/

/-- An FP32 lane with its poison. -/
structure FLane where
  v : Nat
  poison : Bool
  deriving DecidableEq, Repr

/-- Lane i of a slot as FP32 (R259). -/
def slotLane (r : Reducer) (slot i : Nat) : FLane :=
  match mget r.slots slot with
  | none => ⟨0, false⟩
  | some t =>
    let n := elemBits t.fmt / 8
    let bs := (t.bytes.drop (n * i)).take n
    let v := ofLe (bs.map (·.b))
    ⟨if t.fmt = 1 then v else toF32 (elemDecode t.fmt false v 0).1, bs.any (·.poison)⟩

/-- Lanes 0 to n-1 of a slot. -/
def slotLanes (r : Reducer) (slot n : Nat) : List FLane := (List.range n).map fun i => slotLane r slot i
/-- Lane 0 or 1 of the (m, l) slot of a NORM, always FP32 (R263). -/
def slotF32 (r : Reducer) (slot i : Nat) : FLane :=
  match mget r.slots slot with
  | none => ⟨0, false⟩
  | some t => let bs := (t.bytes.drop (4 * i)).take 4; ⟨ofLe (bs.map (·.b)), bs.any (·.poison)⟩

/-- The reducer's exponential (R80). -/
def rExp (a : Nat) : Nat := f32Exp (fun v => Config.expUp (BitVec.ofNat 32 v)) a

/-- A lane-wise fold over the slots of a job in ascending order. -/
def foldSlots (r : Reducer) (w : Nat) (f : Nat → Nat → Nat) : List FLane :=
  (List.range (rLanes w)).map fun i =>
    match (rInSlots w).map fun k => slotLane r k i with
    | [] => ⟨0, false⟩
    | x :: xs => xs.foldl (fun a b => ⟨f a.v b.v, a.poison || b.poison⟩) x

/-- A left fold of FP32 values from the first one. -/
def fold1 (f : Nat → Nat → Nat) : List Nat → Nat
  | [] => 0
  | x :: xs => xs.foldl f x

/-- 1 / sqrt(S * scale + eps) with an error below 1 ulp (Table 6.14); the specials as FP32 gives them. -/
def rmsValue (sum scale eps : Nat) : Nat :=
  match ((f32 sum).mul (f32 scale)).add (f32 eps) with
  | .fin false m e =>
    if m = 0 then 0x7F800000
    else
      let s := ratOf m e
      ratRsqrt (Config.rmsUp (BitVec.ofNat 32 sum) (BitVec.ofNat 32 scale) (BitVec.ofNat 32 eps)) s.1 s.2
  | x => f32Rsqrt (fun _ => false) (toF32 x)

/-- The result lanes of a job and, for SOFTMAX and MERGE, (m, l) (Table 6.14, R262). -/
def jobResult (r : Reducer) (w scale eps : Nat) : List FLane × Option (FLane × FLane) :=
  let n := rLanes w
  let f := rFirst w
  match rKind w with
  | 1 => (foldSlots r w f32Add, none)
  | 2 => (foldSlots r w f32Max, none)
  | 3 =>
    let xs := slotLanes r f n
    let bad := xs.any (·.poison)
    let m := fold1 f32Max (xs.map (·.v))
    let es := xs.map fun x => rExp (f32Sub x.v m)
    (es.map fun e => ⟨e, bad⟩, some (⟨m, bad⟩, ⟨fold1 f32Add es, bad⟩))
  | 4 =>
    let js := List.range (rCount w / 2)
    let ml := js.map fun j => (slotLane r (f + 2 * j + 1) 0, slotLane r (f + 2 * j + 1) 1)
    let os := js.map fun j => slotLanes r (f + 2 * j) n
    let bad := (ml.any fun x => x.1.poison || x.2.poison) || os.any fun o => o.any (·.poison)
    let m := fold1 f32Max (ml.map (·.1.v))
    let ws := ml.map fun x => rExp (f32Sub x.1.v m)
    let l := fold1 f32Add ((ml.zip ws).map fun x => f32Mul x.1.2.v x.2)
    let out := (List.range n).map fun i =>
      fold1 f32Add ((os.zip ws).map fun x => f32Mul (nth x.1 i ⟨0, false⟩).v x.2)
    (out.map fun v => ⟨v, bad⟩, some (⟨m, bad⟩, ⟨l, bad⟩))
  | 5 =>
    let l := slotF32 r (f + 1) 1
    ((slotLanes r f n).map fun o => ⟨f32Div o.v l.v, o.poison || l.poison⟩, none)
  | _ =>
    let xs := (rInSlots w).flatMap fun k => slotLanes r k n
    let bad := xs.any (·.poison)
    ([⟨rmsValue (fold1 f32Add (xs.map (·.v))) scale eps, bad⟩], none)

/-! ### Outputs -/

/-- Output lanes in the job's format, with the flags of their conversions (R75). -/
def laneBytes (w : Nat) (ls : List FLane) : List PByte × Flags :=
  match fmtDecode (bitsOf w 16 16) with
  | none => ([], .none)
  | some o =>
    let vs := ls.map fun l => (toScalar o.code (modeFor (convRound o.code o.round) 0 0 0 0) o.ovf (f32 l.v), l.poison)
    (vs.flatMap fun v => (leBytes (elemBits o.code / 8) v.1.1).map fun b => ⟨b, v.2⟩,
     vs.foldl (fun f v => f.or v.1.2) .none)

/-- The (m, l) unit: two FP32 values and zeros (R263). -/
def mlBytes (ml : FLane × FLane) (n : Nat) : List PByte :=
  (leBytes 4 ml.1.v).map (⟨·, ml.1.poison⟩) ++ (leBytes 4 ml.2.v).map (⟨·, ml.2.poison⟩)
    ++ List.replicate (n - 8) ⟨0, false⟩

/-- A slot's 256 bytes. -/
def slotBytes (bs : List PByte) : List PByte := bs.take 256 ++ List.replicate (256 - bs.length) ⟨0, false⟩

/-- The reducer after a job: the output written, its input slots EMPTY (R259, R263); with whether the output holds
poison, whose granule is the lane (R262), and the flags of its conversions. -/
def applyJob (r : Reducer) (w scale eps : Nat) : Reducer × Bool × Flags :=
  let res := jobResult r w scale eps
  let poison := (res.1.any (·.poison)) || (match res.2 with | some ml => ml.1.poison || ml.2.poison | none => false)
  let out := laneBytes w res.1
  let bs := out.1
  let r1 := { r with slots := r.slots.filter fun e => !((rInSlots w).contains e.1), running := none }
  let r2 :=
    if rToSlot w then
      let a := { r1 with slots := mset r1.slots (rOut w) ⟨slotBytes bs, rFmt w, none⟩ }
      match res.2 with
      | some ml => { a with slots := mset a.slots (rOut w + 1) ⟨slotBytes (mlBytes ml 256), 1, none⟩ }
      | none => a
    else
      let a := areaWrite r1 (64 * rOut w) bs
      match res.2 with
      | some ml => areaWrite a (64 * (rOut w + rUnits w)) (mlBytes ml 64)
      | none => a
  (r2, poison, out.2)

/-! ### The commands -/

/-- A write of STK_RDC_JOB (R260, R264): ignored while an itinerary is loaded, refused as a bad job or on a full
queue of 16, else queued. -/
def writeJob (s : State) (k w : Nat) : State :=
  let r := reducerAt s k
  if itinLoaded s then s
  else if !jobOk w then setRegBit s (Reg.STK_RDC_ERR k) 2
  else if 16 ≤ r.jobs.length then setRegBit s (Reg.STK_RDC_ERR k) 1
  else setReducer s k { r with jobs := r.jobs ++ [⟨BitVec.ofNat 64 w, none⟩] }

/-- A job write of a kind on a stack of the module. -/
def jobRow (s : State) (stack kind : Nat) (w : W64) : State :=
  if stackCount s ≤ stack then s else writeJob s stack (setBits w.toNat 60 4 kind)

/-- SUM. -/
def execRdcSum (stack : Nat) (w : W64) (s : State) : Host.Outcome State Fault Refusal := .next (jobRow s stack 1 w)
/-- MAX. -/
def execRdcMax (stack : Nat) (w : W64) (s : State) : Host.Outcome State Fault Refusal := .next (jobRow s stack 2 w)
/-- SOFTMAX. -/
def execRdcSoftmax (stack : Nat) (w : W64) (s : State) : Host.Outcome State Fault Refusal := .next (jobRow s stack 3 w)
/-- MERGE. -/
def execRdcMerge (stack : Nat) (w : W64) (s : State) : Host.Outcome State Fault Refusal := .next (jobRow s stack 4 w)
/-- NORM. -/
def execRdcNorm (stack : Nat) (w : W64) (s : State) : Host.Outcome State Fault Refusal := .next (jobRow s stack 5 w)
/-- RMS. -/
def execRdcRms (stack : Nat) (w : W64) (s : State) : Host.Outcome State Fault Refusal := .next (jobRow s stack 6 w)

/-- An itinerary's next job of a stack that may begin joins the queue (R260). -/
def planJob (s : State) (k : Nat) : State :=
  let r := reducerAt s k
  if 16 ≤ r.jobs.length then s
  else
    match (itinItems s).find? fun i => (match i.work with | .job j _ => j == k | _ => false) && itemReady s i with
    | none => s
    | some i =>
      match i.work with
      | .job _ w => setReducer (beginItem s i) k { r with jobs := r.jobs ++ [⟨w, some i.id⟩] }
      | _ => s

/-- An itinerary's SOFTMAX job over an attention command's scores counts only the command's valid tokens as its lanes
(R406). -/
def validLanes (r : Reducer) (j : RJob) : RJob :=
  match j.item, (mget r.slots (rFirst j.w.toNat)).bind (·.valid) with
  | some _, some n => if rKind j.w.toNat = 3 ∧ 0 < n then { j with w := BitVec.ofNat 64 (setLanes j.w.toNat n) } else j
  | _, _ => j

/-- REDUCER_JOB_START: the job at the head of the queue starts when its slots allow it (R260). -/
def execReducerJobStart (stack : Nat) (s : State) : Host.Outcome State Fault Refusal :=
  let s1 := planJob s stack
  let r := reducerAt s1 stack
  match r.running, r.jobs with
  | none, j :: js =>
    if jobReady r j.w.toNat then .next (setReducer s1 stack { r with jobs := js, running := some (validLanes r j) }) else .next s1
  | _, _ => .next s1

/-- REDUCER_JOB_DONE: the running job writes its output and empties its input slots; poison it consumed is
reported (R259, R262). -/
def execReducerJobDone (stack : Nat) (s : State) : Host.Outcome State Fault Refusal :=
  let r := reducerAt s stack
  match r.running with
  | none => .next s
  | some j =>
    let prm := reg s (Reg.STK_RDC_PARAM stack)
    let a := applyJob r j.w.toNat (prm % 2 ^ 32) (prm / 2 ^ 32)
    let s1 := bump (setReducer s stack a.1) (Reg.STK_RDC_STATUS stack) 16 32 1
    let s2 := if a.2.1 then setRegBit s1 (Reg.STK_RDC_ERR stack) 0 else s1
    .next (match j.item with | some _ => runFlags (itemDone s2 j.item) a.2.2 a.2.1 | none => s2)

end Sys2Proof.Machine
end

