-- ==== Sys2Proof/Machine/Array.lean ====
section
/-!
DEFINITION. The compute arrays (chapter 3): cells, thread contexts and recipe steps, scratch, bindings, the
configuration switch, the watchdog and stops.
-/
namespace Sys2Proof.Machine

/-! ### Arrays and contexts -/

/-- The key of an array. -/
def aryKey (die n : Nat) : Nat := die * 96 + n
/-- An array after reset: IDLE, its scratch, whose contents the spec leaves open, zero (DESIGN CHOICE). -/
def Arr.reset : Arr :=
  { state := .idle, k := 0, nextCell := 0, frozen := [], ramp := 0, preempt := false, past96 := false, active := none, shadowState := .empty, shadow := none,
    bindPending := 0, drains := [], todo := [], ctxs := [], latches := [], busDrive := [], portK := 0, ports := [], scratch := [],
    flags := .none, wrotePoison := false, ended := [] }
/-- An array. -/
def arrAt (s : State) (a : Nat) : Arr := mgetD Arr.reset s.arrays a
/-- An array replaced. -/
def setArr (s : State) (a : Nat) (x : Arr) : State := { s with arrays := mput Arr.reset s.arrays a x }
/-- An array changed. -/
def modArr (s : State) (a : Nat) (f : Arr → Arr) : State := setArr s a (f (arrAt s a))

/-- The arrays in FAULT of a list, which nothing but a cluster reset or a higher one takes out of it (R132). -/
def faultsOnly (as : List (Nat × Arr)) : List (Nat × Arr) :=
  as.filterMap fun kv => if kv.2.state = .fault then some (kv.1, { Arr.reset with state := .fault }) else none
/-- Whether a compute cluster has lost its clock: it is contained by powering it off (R18, R132, Table 1.2). -/
def clusterFault (s : State) (c : Nat) : Bool :=
  s.arrays.any fun kv => kv.2.state == .fault && kv.1 / 96 * 12 + kv.1 % 96 / 8 == c

/-- A context as the strobe leaves it: registers and poison clear, pass and step zero (Table 3.9). -/
def Ctx.fresh : Ctx :=
  { regs := List.replicate 32 ⟨0, false⟩, pass := 0, step := 0, flags := .none, state := .run, next := 0, await := none }

/-- Outcome i of the checks of a site's scratch words. -/
def eccAt (st : Site) (i : Nat) : Ecc := nth st.ecc i .clean

/-- The array once a cell's issue slot of tile cycle k has passed. -/
def Arr.slotAt (a : Arr) (k cell : Nat) : Arr := { a with k := k, nextCell := cell + 1 }

/-- A register of a context. -/
def Ctx.reg (c : Ctx) (r : Nat) : PWord := nth c.regs r ⟨0, false⟩
/-- A register set. -/
def Ctx.set (c : Ctx) (r : Nat) (v : PWord) : Ctx := { c with regs := c.regs.set r v }

/-- The recipe word of a cell; an unlisted one is all zero. -/
def Tile.word (t : Tile) (cell : Nat) : BitVec 512 := mgetD 0 t.words cell
/-- A binding of a tile. -/
def Tile.bind (t : Tile) (b : Nat) : BitVec 256 := nth t.binds b 0

/-! ### Scratch (R102, R106) -/

/-- A scratch word. -/
def scratchAt (a : Arr) (o : Nat) : PWord := mgetD ⟨0, false⟩ a.scratch (o / 8)
/-- A scratch word set. -/
def setScratch (a : Arr) (o : Nat) (v : PWord) : Arr := { a with scratch := mput ⟨0, false⟩ a.scratch (o / 8) v }
/-- Bytes of scratch. -/
def scratchBytes (a : Arr) (o n : Nat) : List PByte :=
  (List.range n).map fun i =>
    let w := scratchAt a (o + i)
    ⟨w.w.extractLsb' (8 * ((o + i) % 8)) 8, w.poison⟩
/-- Bytes written to scratch, from a word boundary. -/
def scratchWrite (a : Arr) (o : Nat) (bs : List PByte) : Arr :=
  loopN ((bs.length + 7) / 8) a fun i a =>
    let c := (bs.drop (8 * i)).take 8
    setScratch a (o + 8 * i) ⟨BitVec.ofNat 64 (ofLe (c.map (·.b))), c.any (·.poison)⟩

/-- The error bit of an array (Table 3.14). -/
def aryErr (s : State) (a : Nat) : State :=
  let die := a / 96
  let n := a % 96
  if n < 64 then setRegBit s (Reg.ARY_ERR_0 die) n else setRegBit s (Reg.ARY_ERR_1 die) (n - 64)

/-- The outcome of a scratch check: corrected ones are counted; an uncorrectable one is recorded (R106). -/
def scratchEcc (s : State) (a : Nat) (e : Ecc) : State :=
  match e with
  | .clean => s
  | .corrected => bump s (Reg.ARY_ECC_CNT (a / 96)) 0 32 1
  | .uncorrectable => raiseIf (aryErr s a) (Reg.ARY_CTRL (a / 96)) 3 0x0011 a

/-- How many of a cycle's accesses are not served in it, taken in the order of service: each port and each bank serves
one (R103). -/
def unserved (acc : List (Nat × Nat × Nat)) : Nat :=
  (acc.foldl (fun (t : List (Nat × Nat) × Nat) x =>
    if t.1.any fun y => y.1 == x.2.1 || y.2 == x.2.2 then (t.1, t.2 + 1) else (x.2 :: t.1, t.2)) ([], 0)).2

/-- A scratch access of tile cycle k at byte offset `o` through a port: row port `p` below 32 (the feeder before the LD and
ST of its cells), or column port 32 + column. Each access of the cycle that is not served in it stalls the array for a
cycle (R102, R103). The fill port, whose cycles the model does not follow, takes no part. -/
def useBank (s : State) (arr k port place o : Nat) : State :=
  let a := arrAt s arr
  let old := if a.portK = k then a.ports else []
  let here := (port * 64 + place, port, bitsOf o 6 5)
  let new := (old.filter fun x => x.1 ≤ here.1) ++ here :: (old.filter fun x => here.1 < x.1)
  let r := Reg.ARY_STALL (arr / 96) (arr % 96)
  let n := regField s r 32 32 + unserved new - unserved old
  setArr (setField s r 32 32 (min n (2 ^ 32 - 1))) arr { a with portK := k, ports := new }

/-! ### Operand sources (Table 3.6, R98, R101) -/

/-- A 128-bit operand; the upper half is absent where only 64 bits are known. -/
structure Opnd where
  lo : W64
  hi : Option W64
  poison : Bool
  deriving DecidableEq, Repr

/-- The value in an input latch in tile cycle k. -/
def latchAt (a : Arr) (key k : Nat) : Option Opnd :=
  match mget a.latches (key * 32 + k % 32) with
  | some l => if l.at_ = k then some ⟨l.lo, l.hi, l.poison⟩ else none
  | none => none

/-- The identity word (Table 3.6). -/
def identity (arr cell c : Nat) : Nat :=
  let n := arr % 96
  arr / 96 * 2 ^ 40 + n / 24 * 2 ^ 32 + n / 8 % 3 * 2 ^ 28 + n % 8 * 2 ^ 24 + c * 2 ^ 16 + cell / 32 * 2 ^ 8 + cell % 32

/-- Where an edge feeder reads: the binding's address for the step (R101, R112). -/
def feedOff (t : Tile) (b cell c pass imm : Nat) : Nat :=
  (bBase (t.bind b) + bOffset (t.bind b) (cell / 32) (cell % 32) c pass imm) / 16 * 16

/-- What an edge feeder reads: 16 bytes of scratch. -/
def feeder (a : Arr) (t : Tile) (b cell c pass imm : Nat) (bad : Bool) : Opnd :=
  let o := feedOff t b cell c pass imm
  let x := scratchAt a o
  let y := scratchAt a (o + 8)
  ⟨x.w, some y.w, x.poison || y.poison || bad⟩

/-- Whether a source selector of a cell reads its west feeder (bind_a) or north feeder (bind_b). -/
def feeds (t : Tile) (cell sel : Nat) : Bool :=
  (sel == 1 && cell % 32 == 0 && rEdgeW (t.word cell) == 1) || (sel == 2 && cell / 32 == 0 && rEdgeN (t.word cell) == 1)

/-- The scratch bank taken by a feeder that a source selector reads. -/
def useFeeder (s : State) (t : Tile) (x : Ctx) (arr cell k step sel : Nat) : State :=
  if feeds t cell sel then
    useBank s arr k (if sel = 1 then cell / 32 else 32 + cell % 32) 0
      (feedOff t (if sel = 1 then sBindA step else sBindB step) cell (k % 16) x.pass (sImm step))
  else s

/-- A source: none where the path holds no value in this cycle. `wide` asks for a register pair; `bad` says that a
scratch word which a feeder reads has an uncorrectable error. -/
def source (a : Arr) (t : Tile) (x : Ctx) (arr cell k step sel r : Nat) (wide bad : Bool) : Option Opnd :=
  let w := t.word cell
  let c := k % 16
  match sel with
  | 0 =>
    if wide then
      let p := x.reg (r / 2 * 2)
      let q := x.reg (r / 2 * 2 + 1)
      some ⟨p.w, some q.w, p.poison || q.poison⟩
    else let p := x.reg r; some ⟨p.w, none, p.poison⟩
  | 1 =>
    if cell % 32 = 0 ∧ rEdgeW w = 1 then some (feeder a t (sBindA step) cell c x.pass (sImm step) bad)
    else latchAt a (cell * 2) k
  | 2 =>
    if cell / 32 = 0 ∧ rEdgeN w = 1 then some (feeder a t (sBindB step) cell c x.pass (sImm step) bad)
    else latchAt a (cell * 2 + 1) k
  -- the east and south links: no step sends west or north (Table 3.4), so nothing ever arrives there
  | 3 => none
  | 4 => none
  | 5 => latchAt a (2048 + cell / 32) k
  | 6 => latchAt a (2080 + cell % 32) k
  | _ => some ⟨BitVec.ofNat 64 (identity arr cell c), some 0, false⟩

/-! ### Sending (Table 3.2, R98, R100) -/

/-- Bits [127:64] of what is sent: free where the value has only 64 bits. -/
def wideOf (s : State) (v : Opnd) : Latch × State :=
  match v.hi with
  | some h => (⟨v.lo, some h, v.poison, 0⟩, s)
  | none => let r := freeVal s; (⟨v.lo, some (BitVec.ofNat 64 r.1), v.poison, 0⟩, r.2)

/-- Put a value in tile cycle k on the link to the east or south neighbour, or on the wrap link at the edge. Where a
result and a later step's forwarded operand leave on one link in one cycle, no rule says which arrives: free. -/
def sendLink (s : State) (arr cell k : Nat) (south : Bool) (v : Opnd) : State :=
  let i := cell / 32
  let j := cell % 32
  let edge := if south then i == 31 else j == 31
  let dest := if south then (i + 1) % 32 * 32 + j else i * 32 + (j + 1) % 32
  let at_ := k + (if edge then 2 else 1)
  let r := match latchAt (arrAt s arr) (dest * 2 + b2n south) at_ with
    | some x => let f := freeVal s; wideOf f.2 ⟨BitVec.ofNat 64 f.1, none, v.poison || x.poison⟩
    | none => wideOf s v
  modArr r.2 arr fun a => { a with latches := mset a.latches ((dest * 2 + b2n south) * 32 + at_ % 32) { r.1 with at_ := at_ } }

/-- Drive the row bus (1) or column bus (2) in tile cycle k: a further driver of the same cycle costs a stall, and the
last to drive is the one with the highest column or row (R100). -/
def driveBus (s : State) (arr cell k bus : Nat) (v : Opnd) : State :=
  let r := wideOf s v
  let b := if bus = 1 then cell / 32 else 32 + cell % 32
  let s1 := r.2
  let a := arrAt s1 arr
  let put := fun (a : Arr) => { a with latches := mset a.latches ((2048 + b) * 32 + (k + 2) % 32) { r.1 with at_ := k + 2 },
                                       busDrive := mset a.busDrive b (k * 1024 + cell) }
  match mget a.busDrive b with
  | some d =>
    if d / 1024 = k then
      let s2 := bump s1 (Reg.ARY_STALL (arr / 96) (arr % 96)) 32 32 1
      if d % 1024 < cell then modArr s2 arr put else s2
    else modArr s1 arr put
  | none => modArr s1 arr put

/-! ### Issue (R92 to R97) -/

/-- What a step that issues sees. -/
structure Issue where
  arr : Nat
  cell : Nat
  k : Nat
  tile : Tile
  ctx : Ctx
  step : Nat
  a : Opnd
  b : Opnd
  /-- whether the low and the high scratch word that the step reads have an uncorrectable error -/
  bad0 : Bool
  bad1 : Bool

/-- A zero operand for a source that the step does not name. -/
def Opnd.zero : Opnd := ⟨0, some 0, false⟩

/-- Whether an operation reads A, reads B, and takes them 128 bits wide. -/
def readsA (op : Nat) : Bool := decide (1 ≤ op) && decide (op ≤ 0x0B)
/-- Whether an operation reads B. -/
def readsB (op : Nat) : Bool := decide (1 ≤ op) && decide (op ≤ 6)
/-- Whether an operation takes 128-bit operands. -/
def wideOp (op : Nat) : Bool := op == 0x01 || op == 0x0A || op == 0x00

/-- The context of a cell changed. -/
def modCtx (s : State) (arr cell c : Nat) (f : Ctx → Ctx) : State :=
  modArr s arr fun a => { a with ctxs := mmod a.ctxs (cell * 16 + c) f }

/-- A bubble: the step is not performed and the context does not advance (R95). -/
def bubble (s : State) (arr cell k : Nat) : State :=
  bump (modCtx s arr cell (k % 16) fun x => { x with next := k + 1 }) (Reg.ARY_BUBBLE (arr / 96) (arr % 96)) 0 64 1

/-- The context advances to its next step, pass or DONE (R96). -/
def Ctx.advance (x : Ctx) (w : BitVec 512) : Ctx :=
  if x.step + 1 < rSteps w then { x with step := x.step + 1 }
  else if x.pass + 1 < rTrip w then { x with step := 0, pass := x.pass + 1 }
  else { x with step := 0, pass := rTrip w, state := .done }

/-- Whether a step needs operand A: it reads it or sends it on. DESIGN CHOICE: a selector of an operand that the step
neither reads nor forwards names no source of the step, so that it causes no bubble (R95); the load check of R114, which
speaks of naming an input, counts it all the same. -/
def needsA (op step : Nat) : Bool := readsA op || sSend step 3
/-- Whether a step needs operand B. -/
def needsB (op step : Nat) : Bool := readsB op || sSend step 2
/-- Operand A of a context's present step: none where its path holds no value in this cycle. -/
def operandA (s : State) (st : Site) (op : Nat) (t : Tile) (x : Ctx) : Option Opnd :=
  let step := rStep (t.word st.cell) x.step
  if needsA op step then
    source (arrAt s (aryKey st.die st.array)) t x (aryKey st.die st.array) st.cell st.k step (sAsel step) (sSa step) (wideOp op)
      (eccAt st 0 == .uncorrectable || eccAt st 1 == .uncorrectable)
  else some .zero
/-- Operand B. -/
def operandB (s : State) (st : Site) (op : Nat) (t : Tile) (x : Ctx) : Option Opnd :=
  let step := rStep (t.word st.cell) x.step
  if needsB op step then
    source (arrAt s (aryKey st.die st.array)) t x (aryKey st.die st.array) st.cell st.k step (sBsel step) (sSb step) (wideOp op)
      (let i := if needsA op step && feeds t st.cell (sAsel step) then 2 else 0
       eccAt st i == .uncorrectable || eccAt st (i + 1) == .uncorrectable)
  else some .zero

/-- Whether the row acts: the array is in that tile cycle and the cell's slot has not passed (the cells of a cycle act in
ascending order; a frozen array leaves its cycle only once the waiting ST are made), the context is enabled and
ramped in, and its present step is the row's operation. -/
def atSlot (a : Arr) (t : Tile) (x : Ctx) (st : Site) (op : Nat) : Bool :=
  (if a.frozen.isEmpty then decide (a.k < st.k) || (decide (a.k = st.k) && decide (a.nextCell ≤ st.cell))
   else decide (a.k = st.k) && (a.frozen.contains st.cell || decide (a.nextCell ≤ st.cell))) && decide (st.k % 16 < 2 * a.ramp) && decide (x.next ≤ st.k) && x.state != .done && x.state != .idle
  && sOp (rStep (t.word st.cell) x.step) == op

/-- What every issue does beside its own effect: the slot is counted, the edge feeders it reads take their banks, the
context advances, and operands leave for the neighbours. -/
def issueState (s : State) (st : Site) (op : Nat) (t : Tile) (x : Ctx) (va vb : Opnd) : State :=
  let arr := aryKey st.die st.array
  let w := t.word st.cell
  let step := rStep w x.step
  let s1 := modArr s arr fun a => { (a.slotAt st.k (max st.cell (if a.frozen.contains st.cell then a.nextCell - 1 else 0))) with
    frozen := a.frozen.erase st.cell }
  let e1 := if needsA op step then useFeeder s1 t x arr st.cell st.k step (sAsel step) else s1
  let e2 := if needsB op step && (sBsel step != sAsel step || !needsA op step) then useFeeder e1 t x arr st.cell st.k step (sBsel step)
            else e1
  let s3 := modCtx (st.ecc.foldl (fun s e => scratchEcc s arr e) e2) arr st.cell (st.k % 16) fun x => { (x.advance w) with next := st.k + 1 }
  let s4 := bump s3 (Reg.ARY_ISSUE st.die st.array) 0 64 1
  let s5 := if sSend step 3 then sendLink s4 arr st.cell st.k false va else s4
  if sSend step 2 then sendLink s5 arr st.cell st.k true vb else s5

/-- What the effect of an issued step sees. -/
def issueOf (st : Site) (t : Tile) (x : Ctx) (va vb : Opnd) : Issue :=
  ⟨aryKey st.die st.array, st.cell, st.k, t, x, rStep (t.word st.cell) x.step, va, vb,
   eccAt st 0 == .uncorrectable, eccAt st 1 == .uncorrectable⟩

/-- The slot of an issue: the context issues and `act` gives the effect. A context in WAIT, or a source that holds no
value, takes a bubble. -/
def issueSlot (s : State) (st : Site) (op : Nat) (act : Issue → State → State) : State :=
  let arr := aryKey st.die st.array
  let a := arrAt s arr
  match a.state, a.active, mget a.ctxs (st.cell * 16 + st.k % 16) with
  | .active, some t, some x =>
    if !atSlot a t x st op then s
    else
      let late := bubble (modArr s arr fun a => a.slotAt st.k st.cell) arr st.cell st.k
      if x.state = .wait then late
      else
        match operandA s st op t x, operandB s st op t x with
        | some va, some vb => act (issueOf st t x va vb) (issueState s st op t x va vb)
        | _, _ => late
  | _, _, _ => s

/-- A result leaves a cell in tile cycle k by the paths that its step names: links and buses (R107). -/
def sendFrom (arr cell step k : Nat) (v : Opnd) (s : State) : State :=
  let s1 := if sSend step 1 then sendLink s arr cell k false v else s
  let s2 := if sSend step 0 then sendLink s1 arr cell k true v else s1
  if sBus step = 1 ∨ sBus step = 2 then driveBus s2 arr cell k (sBus step) v else s2

/-- The result of a step leaves in the cycle after it is written (R94). -/
def sendResult (i : Issue) (v : Opnd) (s : State) : State := sendFrom i.arr i.cell i.step (i.k + 16) v s

/-- Flags raised by a step, in its context and its tile. -/
def stepFlags (i : Issue) (f : Flags) (s : State) : State :=
  modArr (modCtx s i.arr i.cell (i.k % 16) fun x => { x with flags := x.flags.or f }) i.arr fun a =>
    { a with flags := a.flags.or f }

/-- A 64-bit result into dst, then onto its paths. -/
def result64 (i : Issue) (v : Nat) (poison : Bool) (f : Flags) (s : State) : State :=
  let w : PWord := ⟨BitVec.ofNat 64 v, poison⟩
  sendResult i ⟨w.w, none, poison⟩
    (stepFlags i f (modCtx s i.arr i.cell (i.k % 16) fun x => x.set (sDst i.step) w))

/-- A 128-bit result into the dst pair, whose words are poisoned as told, then onto its paths. DESIGN CHOICE: with an odd
dst, which no rule rejects or defines, the pair is the even register below it and dst. -/
def result128 (i : Issue) (v : Opnd) (pLo pHi : Bool) (s : State) : State :=
  let d := sDst i.step / 2 * 2
  let r := wideOf s v
  sendResult i { v with hi := r.1.hi }
    (modCtx r.2 i.arr i.cell (i.k % 16) fun x =>
      (x.set d ⟨v.lo, pLo⟩).set (d + 1) ⟨(r.1.hi).getD 0, pHi⟩)

/-! ### The dot-product unit (R87 to R89, Table 3.1) -/

/-- Elements per DOT issue of a format. -/
def dotRate (c : Nat) : Nat :=
  match c with
  | 0x01 => 1 | 0x02 => 4 | 0x03 => 8 | 0x04 => 8 | 0x0B => 8 | 0x05 => 16 | 0x06 => 16 | 0x0C => 16
  | 0x07 => 16 | 0x08 => 16 | 0x0E => 16 | 0x11 => 16 | 0x0F => 16 | 0x09 => 32 | 0x0D => 32 | 0x10 => 32 | 0x12 => 32
  | _ => 0

/-- The 128 bits of an operand. -/
def Opnd.bits (v : Opnd) : Nat := v.lo.toNat + 2 ^ 64 * (v.hi.getD 0).toNat

/-- Element i of an operand of descriptor d, with the scale register's bytes for it (R88). -/
def dotElem (d v i s0 s1 : Nat) : FVal × Flags :=
  let c := bitsOf d 0 5
  let n := elemBits c
  elemDecode c (bitAt d 5) (bitsOf v (n * i) n) (if c = 0x12 ∧ 16 ≤ i then s1 else s0)

/-- The DOT of two operands added to an accumulator (R89). -/
def dotValue (da db a b sc acc : Nat) : Nat × Flags :=
  let n := min (dotRate (bitsOf da 0 5)) (dotRate (bitsOf db 0 5))
  let ps := (List.range n).map fun i =>
    let x := dotElem da a i (bitsOf sc 0 8) (bitsOf sc 8 8)
    let y := dotElem db b i (bitsOf sc 16 8) (bitsOf sc 24 8)
    (x.1.mul y.1, x.2.or y.2)
  let sum := FVal.sum (ps.map (·.1))
  let fl := ps.foldl (fun f p => f.or p.2) .none
  let r := accAdd (isInt (bitsOf da 0 5)) acc sum
  (r.1, r.2.or fl)

/-! ### The lane unit (R91) -/

/-- A function of two INT32 lanes with saturation. -/
def intLane (f : Int → Int → Int) (a b : Nat) : Nat × Flags := satI32 (f (intDecode 32 a) (intDecode 32 b))

/-- A step on the two lanes of 64-bit operands. -/
def lanes2 (f : Nat → Nat → Nat → Nat × Flags) (a b c : Nat) : Nat × Flags :=
  let x := f (a % 2 ^ 32) (b % 2 ^ 32) (c % 2 ^ 32)
  let y := f (a / 2 ^ 32) (b / 2 ^ 32) (c / 2 ^ 32)
  (x.1 % 2 ^ 32 + 2 ^ 32 * (y.1 % 2 ^ 32), x.2.or y.2)

/-- Whether the lanes are INT32. -/
def Issue.int (i : Issue) : Bool := isInt (bitsOf (rFmtA (i.tile.word i.cell)) 0 5)
/-- Register sc. -/
def Issue.sc (i : Issue) : PWord := i.ctx.reg (sSc i.step)

/-- A lane-unit step: `f` for FP32 lanes and `g` for INT32 lanes. -/
def laneStep (s : State) (st : Site) (op : Nat) (f : Nat → Nat → Nat → Nat) (g : Nat → Nat → Nat → Nat × Flags) : State :=
  issueSlot s st op fun i s =>
    let useSc := op == 4
    let r := lanes2 (if i.int then g else fun a b c => (f a b c, .none)) i.a.lo.toNat i.b.lo.toNat i.sc.w.toNat
    result64 i r.1 (i.a.poison || i.b.poison || (useSc && i.sc.poison)) r.2 s

/-- A function of one FP32 lane. -/
def unaryStep (s : State) (st : Site) (op : Nat) (f : Nat → Nat) : State :=
  issueSlot s st op fun i s =>
    let r := lanes2 (fun a _ _ => (f a, .none)) i.a.lo.toNat 0 0
    result64 i r.1 i.a.poison r.2 s

/-! ### Conversion steps (R113) -/

/-- The first element index of a step's stochastic rounding: (8 * a) / w, with a the window offset. -/
def stepElem (i : Issue) (w imm : Nat) : Nat :=
  let d := i.tile.bind (sBindA i.step)
  8 * bOffset d (i.cell / 32) (i.cell % 32) (i.k % 16) i.ctx.pass imm / w

/-- CVT (Table 3.5): the imm field names the element position, so the window offset takes no byte offset from it. DESIGN
CHOICE: bits of an element position beyond bit 63 are dropped, a case that no rule rejects or defines. -/
def cvtOp (i : Issue) (s : State) : State :=
  let word := i.tile.word i.cell
  let dst := i.ctx.reg (sDst i.step)
  let seed := itinSeed s
  match fmtDecode (rFmtOut word) with
  | none => let r := freeVal s; result64 i r.1 i.a.poison .none r.2
  | some o =>
    if isBlock o.code then let r := freeVal s; result64 i r.1 i.a.poison .none r.2
    else
      let w := elemBits o.code
      let p := 2 * (sImm i.step % 32)
      let conv := fun (e : Nat) =>
        let v := bitsOf i.a.lo.toNat (32 * e) 32
        let y := viaFp32 (if i.int then 0x0A else 1) o.code o.ovf (accVal i.int v)
        let r := toScalar o.code (modeFor (convRound o.code o.round) seed s.itn.seqWord (bTag (i.tile.bind (sBindA i.step)))
          (stepElem i w 0 + p + e)) o.ovf y.1
        (r.1, r.2.or y.2)
      let x := conv 0
      let y := conv 1
      let v := setBits (setBits dst.w.toNat (w * p) w x.1) (w * (p + 1)) w y.1
      result64 i (v % 2 ^ 64) (i.a.poison || dst.poison) (x.2.or y.2) s

/-- BENC (Table 3.5): one block from FP32 lanes starting at sa; the first dst register leaves by the step's paths. DESIGN
CHOICE: registers beyond v31 read as zero and are not written, an sa that is no multiple of a block's registers is taken
as it stands, and of a result of several registers the first is what is sent: no rule rejects or defines these. -/
def bencOp (i : Issue) (s : State) : State :=
  let word := i.tile.word i.cell
  match fmtDecode (rFmtOut word) with
  | none => let r := freeVal s; result64 i r.1 false .none r.2
  | some o =>
    if !isBlock o.code then let r := freeVal s; result64 i r.1 false .none r.2
    else
      let n := blockLen o.code
      let regs := (List.range (n / 2)).map fun r => i.ctx.reg (sSa i.step + r)
      let bad := regs.any (·.poison)
      let xs := regs.flatMap fun r => [f32 (r.w.toNat % 2 ^ 32), f32 (r.w.toNat / 2 ^ 32)]
      let w := elemBits o.code
      let tag := bTag (i.tile.bind (sBindA i.step))
      let e := blockEncode o.code o.elem (fun j => modeFor o.round (itinSeed s) s.itn.seqWord tag
        (stepElem i w (sImm i.step) + j)) xs
      let num := (e.2.1.foldl (fun (v : Nat × Nat) q => (v.1 + q * 2 ^ v.2, v.2 + w)) (0, 0)).1
      let total := n * w
      let s1 := modCtx s i.arr i.cell (i.k % 16) fun x =>
        let y := loopN ((total + 63) / 64) x fun r x =>
          let d := sDst i.step + r
          let m := min 64 (total - 64 * r)
          x.set d ⟨BitVec.ofNat 64 (setBits (x.reg d).w.toNat 0 m (num / 2 ^ (64 * r))), bad⟩
        y.set (sSc i.step) ⟨BitVec.ofNat 64 (setBits (y.reg (sSc i.step)).w.toNat 0 8 e.1), bad⟩
      let first := BitVec.ofNat 64 (setBits (i.ctx.reg (sDst i.step)).w.toNat 0 (min 64 total) num)
      sendResult i ⟨first, none, bad⟩ (stepFlags i e.2.2 s1)

/-! ### The commands: arithmetic steps -/

/-- NOP. -/
def execNop (st : Site) (s : State) : Host.Outcome State Fault Refusal := .next (issueSlot s st 0x00 fun _ s => s)
/-- DOT. -/
def execDot (st : Site) (s : State) : Host.Outcome State Fault Refusal :=
  .next (issueSlot s st 0x01 fun i s =>
    let w := i.tile.word i.cell
    let d := i.ctx.reg (sDst i.step)
    let blk := isBlock (bitsOf (rFmtA w) 0 5) || isBlock (bitsOf (rFmtB w) 0 5)
    let r := dotValue (rFmtA w) (rFmtB w) i.a.bits i.b.bits i.sc.w.toNat (d.w.toNat % 2 ^ 32)
    result64 i (setBits d.w.toNat 0 32 r.1) (i.a.poison || i.b.poison || d.poison || (blk && i.sc.poison)) r.2 s)
/-- ADD. -/
def execAdd (st : Site) (s : State) : Host.Outcome State Fault Refusal :=
  .next (laneStep s st 0x02 (fun a b _ => f32Add a b) fun a b _ => intLane (· + ·) a b)
/-- MUL. DESIGN CHOICE: an INT32 product that overflows saturates and sets SAT, as the accumulation of R50 does; no rule
says what an INT32 MUL does there. -/
def execMul (st : Site) (s : State) : Host.Outcome State Fault Refusal :=
  .next (laneStep s st 0x03 (fun a b _ => f32Mul a b) fun a b _ => intLane (· * ·) a b)
/-- FMA: one rounding. -/
def execFma (st : Site) (s : State) : Host.Outcome State Fault Refusal :=
  .next (laneStep s st 0x04 f32Fma fun a b c => satI32 (intDecode 32 a * intDecode 32 b + intDecode 32 c))
/-- MAX (R47). -/
def execMax (st : Site) (s : State) : Host.Outcome State Fault Refusal :=
  .next (laneStep s st 0x05 (fun a b _ => f32Max a b) fun a b _ => intLane max a b)
/-- MIN (R47). -/
def execMin (st : Site) (s : State) : Host.Outcome State Fault Refusal :=
  .next (laneStep s st 0x06 (fun a b _ => f32Min a b) fun a b _ => intLane min a b)
/-- EXP2: the result by R91's bound, the side of the exact value a free choice. -/
def execExp2 (st : Site) (s : State) : Host.Outcome State Fault Refusal :=
  .next (unaryStep s st 0x07 (f32Exp2 fun v => Config.exp2Up (BitVec.ofNat 32 v)))
/-- RSQRT. -/
def execRsqrt (st : Site) (s : State) : Host.Outcome State Fault Refusal :=
  .next (unaryStep s st 0x08 (f32Rsqrt fun v => Config.rsqrtUp (BitVec.ofNat 32 v)))
/-- RECIP. -/
def execRecip (st : Site) (s : State) : Host.Outcome State Fault Refusal :=
  .next (unaryStep s st 0x09 (f32Recip fun v => Config.recipUp (BitVec.ofNat 32 v)))
/-- MOV: the dst pair takes 128 bits of A. -/
def execMov (st : Site) (s : State) : Host.Outcome State Fault Refusal :=
  .next (issueSlot s st 0x0A fun i s => result128 i i.a i.a.poison i.a.poison s)
/-- CVT. -/
def execCvt (st : Site) (s : State) : Host.Outcome State Fault Refusal := .next (issueSlot s st 0x0B cvtOp)
/-- BENC. -/
def execBenc (st : Site) (s : State) : Host.Outcome State Fault Refusal := .next (issueSlot s st 0x0C bencOp)

/-! ### The commands: memory steps -/

/-- The window offset of a step under its bind_a binding (R112). -/
def stepOff (i : Issue) : Nat :=
  bOffset (i.tile.bind (sBindA i.step)) (i.cell / 32) (i.cell % 32) (i.k % 16) i.ctx.pass (sImm i.step)

/-- LD: 16 bytes of scratch into the dst pair, each word with its own poison (R106). -/
def execLd (st : Site) (s : State) : Host.Outcome State Fault Refusal :=
  .next (issueSlot s st 0x10 fun i s =>
    let o := (bBase (i.tile.bind (sBindA i.step)) + stepOff i) / 16 * 16
    let a := arrAt s i.arr
    let x := scratchAt a o
    let y := scratchAt a (o + 8)
    let p := x.poison || i.bad0
    let q := y.poison || i.bad1
    result128 i ⟨x.w, some y.w, p || q⟩ p q (useBank s i.arr i.k (i.cell / 32) (1 + i.cell % 32) o))

/-- Whether a scratch word lies in a pending DRAIN range (R119). -/
def drainPending (a : Arr) (o : Nat) : Bool :=
  a.drains.any fun d => decide (bBase d.desc ≤ o) && decide (o < bBase d.desc + bLen d.desc)

/-- The step of the context that would issue, whatever its sources. -/
def nextStep (s : State) (st : Site) : Option (Arr × Tile × Ctx × Nat) :=
  let a := arrAt s (aryKey st.die st.array)
  match a.active, mget a.ctxs (st.cell * 16 + st.k % 16) with
  | some t, some x => some (a, t, x, rStep (t.word st.cell) x.step)
  | _, _ => none

/-- ST: 8 bytes of register sa to scratch. A store to a range whose DRAIN copy is pending freezes the array in its cycle
until the copy has read the range (R104, R119): the step is performed when it is asked for again. -/
def execSt (st : Site) (s : State) : Host.Outcome State Fault Refusal :=
  let addr := fun (t : Tile) (x : Ctx) (step : Nat) =>
    let d := t.bind (sBindA step)
    (bBase d + bOffset d (st.cell / 32) (st.cell % 32) (st.k % 16) x.pass (sImm step)) / 8 * 8
  match nextStep s st with
  | some (a, t, x, step) =>
    if a.state = .active ∧ atSlot a t x st 0x11 = true ∧ x.state = .run ∧ drainPending a (addr t x step) = true then
      .next (bump (modArr s (aryKey st.die st.array) fun a =>
        { (if a.frozen.contains st.cell then a else a.slotAt st.k st.cell) with
          frozen := if a.frozen.contains st.cell then a.frozen else a.frozen ++ [st.cell] })
        (Reg.ARY_STALL st.die st.array) 32 32 1)
    else
      .next (issueSlot s st 0x11 fun i s =>
        let v := i.ctx.reg (sSa i.step)
        modArr (useBank s i.arr i.k (i.cell / 32) (1 + i.cell % 32) (addr i.tile i.ctx i.step)) i.arr fun a =>
          { (setScratch a (addr i.tile i.ctx i.step) v) with wrotePoison := a.wrotePoison || v.poison })
  | none => .next s

/-- The DPA of a step's screed access: the low three bits of the window offset are ignored (R112). -/
def stepDpa (i : Issue) : Nat := bDpa (i.tile.bind (sBindA i.step)) + stepOff i / 8 * 8

/-- What tells a context's accesses apart among those of its array. -/
def ctxTag (i : Issue) : Nat := i.cell * 16 + i.k % 16

/-- A read of 8 bytes by a context under a hint, whose value the context awaits: by the skim path (R161), behind a write
hold that keeps it back (R141, R272), or at its home slice. -/
def contextRead (s : State) (i : Issue) (hint : Hint) (dpa : Nat) : State :=
  let who := Waiter.ctx i.arr i.cell (i.k % 16)
  if isNarrow s hint dpa 8 then narrowAccess s i.arr (ctxTag i) none false hint dpa 0 false who
  else if sliceFault s (homeSlice s dpa) = false ∧ waitsHeld s i.arr (ctxTag i) false false dpa = true then
    joinHeld s ⟨i.arr, ctxTag i, 1, false, hint, dpa, 8, [], false, who⟩
  else
    let r := readMem s 1 hint dpa 8
    deliver r.2 who i.arr dpa r.1

/-- A posted write of 8 bytes by a context under a hint. -/
def contextWrite (s : State) (i : Issue) (hint : Hint) (dpa : Nat) (v : PWord) : State :=
  if isNarrow s hint dpa 8 then narrowAccess s i.arr (ctxTag i) none true hint dpa v.w v.poison .none
  else if dpa % 8 = 0 then lineWriteBy s 1 i.arr (ctxTag i) hint dpa (leBytes 8 v.w.toNat) v.poison
  else writeMem s 1 i.arr hint dpa ((leBytes 8 v.w.toNat).map fun b => ⟨b, v.poison⟩)

/-- SLD: 8 bytes of screed for dst; the context waits for their return (R95). -/
def execSld (st : Site) (s : State) : Host.Outcome State Fault Refusal :=
  .next (issueSlot s st 0x12 fun i s =>
    contextRead (modCtx s i.arr i.cell (i.k % 16) fun x => { x with state := .wait, await := some (.queued i.step) })
      i (bHint (i.tile.bind (sBindA i.step))) (stepDpa i))

/-- SST: 8 bytes of register sa to the screed, posted. -/
def execSst (st : Site) (s : State) : Host.Outcome State Fault Refusal :=
  .next (issueSlot s st 0x13 fun i s =>
    let v := i.ctx.reg (sSa i.step)
    modArr (contextWrite s i (bHint (i.tile.bind (sBindA i.step))) (stepDpa i) v) i.arr fun a =>
      { a with wrotePoison := a.wrotePoison || v.poison })

/-- SATOM: an atomic at the home slice; the context waits for the old value. A full queue asserts back-pressure,
and the step is not performed in this slot (R156). -/
def execSatom (st : Site) (s : State) : Host.Outcome State Fault Refusal :=
  .next (issueSlot s st 0x14 fun i s' =>
    let d := i.tile.bind (sBindA i.step)
    let dpa := stepDpa i
    let x := i.ctx.reg (sSa i.step)
    let y := i.ctx.reg (sSa i.step + 1)
    let q : AtomReq := { slice := homeSlice s' dpa, issuer := i.arr, slot := none, aop := sAop i.step, dpa := dpa,
                         x := x.w, y := y.w, keep := bHint d == .keep,
                         poison := x.poison || (sAop i.step == 0x10 && y.poison), who := .ctx i.arr i.cell (i.k % 16) }
    match enqueueAtomic s' q with
    | some s2 => modCtx s2 i.arr i.cell (i.k % 16) fun x => { x with state := .wait, await := some (.queued i.step) }
    | none => bumpSlice s Reg.SCD_BP q.slice 1)

/-- FENCE: an acquire takes one slot; a release or full fence holds the context in WAIT (R275). -/
def execFence (st : Site) (s : State) : Host.Outcome State Fault Refusal :=
  .next (issueSlot s st 0x18 fun i s =>
    if sFkind i.step = 0 then s
    else modCtx s i.arr i.cell (i.k % 16) fun x => { x with state := .wait, await := some (.fence (sFscope i.step) s.itn.schedOut) })

/-- A waiting context leaves WAIT: RUN, or DONE where its last pass has been issued. -/
def Ctx.wake (x : Ctx) (w : BitVec 512) : Ctx :=
  { x with await := none, state := if rTrip w ≤ x.pass then .done else .run }

/-- SCREED_RETURN: the value of an SLD or SATOM arrives, is written to dst, leaves by the paths that its step names in
the cycle after, and its context leaves WAIT. -/
def execScreedReturn (die array cell c : Nat) (s : State) : Host.Outcome State Fault Refusal :=
  let arr := aryKey die array
  let a := arrAt s arr
  match a.active, mget a.ctxs (cell * 16 + c) with
  | some t, some x =>
    match x.state, x.await with
    | .wait, some (.load step v) =>
      .next (sendFrom arr cell step (a.k + 1) ⟨v.w, none, v.poison⟩
        (modCtx s arr cell c fun x => (x.set (sDst step) v).wake (t.word cell)))
    | _, _ => .next s
  | _, _ => .next s

/-- Whether the array waits for an access of its own that its home slice has not accepted or performed: an atomic, an
access that a write hold or a full skim front queue keeps back, a DRAIN copy of an earlier tile (R199, R267). -/
def unaccepted (s : State) (arr : Nat) : Bool :=
  (s.scr.atoms.any fun q => match q.who with | .ctx a _ _ => a == arr | _ => q.issuer == arr)
    || (s.mem.stks.any fun k => k.held.any fun h => h.issuer == arr)
    || (s.scr.frontWait.any fun q => q.issuer == arr) || !(arrAt s arr).drains.isEmpty

/-- Whether a skim write of the array is accepted and not yet at its bank. -/
def unbanked (s : State) (arr : Nat) : Bool :=
  let mine := fun (q : SkimReq) => q.issuer == arr && q.write
  s.scr.front.any mine || s.scr.chan.any mine ||
    s.mem.stks.any fun k => k.bankq.any fun r => match r.skim? with | some q => mine q | none => false

/-- Whether a fence of a scope may complete for an array (Table 7.4), for the SCHED transfers begun before it. The model
waits for the whole array's accesses, which contain those the fence covers. -/
def fenceMet (s : State) (arr scope : Nat) (sched : List Nat) : Bool :=
  !unaccepted s arr && (scope == 0 || !unbanked s arr) && (decide (scope ≤ 1) || sched.all fun i => !s.itn.schedOut.contains i)

/-- FENCE_DONE: the fence's conditions are met and its context proceeds. -/
def execFenceDone (die array cell c : Nat) (s : State) : Host.Outcome State Fault Refusal :=
  let arr := aryKey die array
  let a := arrAt s arr
  match a.active, mget a.ctxs (cell * 16 + c) with
  | some t, some x =>
    match x.state, x.await with
    | .wait, some (.fence sc out) => .next (if fenceMet s arr sc out then modCtx s arr cell c fun x => x.wake (t.word cell) else s)
    | _, _ => .next s
  | _, _ => .next s

/-! ### Tiles and the configuration switch (R115 to R121) -/

/-- Whether the dependencies of a tile's item are satisfied (R301). -/
def tileDeps (s : State) (t : Tile) : Bool :=
  match (itinItems s).find? fun i => i.id == t.item with
  | some i => i.deps.all (depMet s)
  | none => true

/-- Whether the planned start of a tile's item has come (R300). -/
def tileStart (s : State) (t : Tile) : Bool :=
  match (itinItems s).find? fun i => i.id == t.item with
  | some i => itemReady s i
  | none => true

/-- The sequencer starts loading the array's next tile into an EMPTY shadow buffer. -/
def loadNext (a : Arr) : Arr :=
  match a.shadowState, a.todo with
  | .empty, t :: ts => { a with shadowState := .loading, shadow := some t, todo := ts }
  | _, _ => a

/-- The PREFETCH bindings of a tile as a mask. -/
def prefetchMask (t : Tile) : BitVec 8 :=
  (List.range 8).foldl (fun m b => if bKind (t.bind b) = 2 then m ||| BitVec.ofNat 8 (2 ^ b) else m) 0

/-- A shadow whose copies are complete and whose dependencies are satisfied is READY. -/
def shadowReady (s : State) (arr : Nat) : State :=
  let a := arrAt s arr
  match a.shadowState, a.shadow with
  | .prefetch, some t => if a.bindPending = 0 ∧ tileDeps s t then setArr s arr { a with shadowState := .ready } else s
  | _, _ => s

/-- The item of an ended tile is done once its DRAIN copies are, and no other write of the array waits (Table 8.3). -/
def settleItem (s : State) (arr : Nat) : State :=
  (arrAt s arr).ended.foldl (fun s n =>
    let a := arrAt s arr
    let rest := a.drains.filter fun d => d.item != n
    if rest.length = a.drains.length ∧ fenceMet (setArr s arr { a with drains := [] }) arr 1 [] = true then
      itemDone (setArr s arr { a with ended := a.ended.erase n }) (some n)
    else s) s

/-- Cycles 96 to 129 of the switch: a stop request sampled at cycle 96 leaves the array HELD; otherwise it awaits the
strobe, or is IDLE where its section holds no further tile (R127). -/
def afterSwitch (a : Arr) : Arr :=
  { a with k := 0, nextCell := 0, frozen := [], ramp := 0, latches := [], busDrive := [], portK := 0, ports := [], ctxs := [],
           past96 := false,
           state := if a.preempt then .held
                    else if a.shadowState = .empty ∧ a.todo.isEmpty then .idle else .switching }

/-- TILE_END: the last enabled context has retired its last issue; the pipelines drain, a stop request is sampled,
the tile's flags are latched and its DRAIN copies queued (Table 3.9). -/
def execTileEnd (die array : Nat) (s : State) : Host.Outcome State Fault Refusal :=
  let arr := aryKey die array
  let a := arrAt s arr
  match a.state, a.active with
  | .active, some t =>
    if a.ctxs.all fun kv => kv.2.state == .done then
      let ds := (List.range 8).filterMap fun b => if bKind (t.bind b) = 3 then some (⟨t.item, b, t.bind b⟩ : DrainReq) else none
      let fl := bitsOf a.flags.bits 0 5 + 32 * b2n a.wrotePoison
      let s1 := setArr s arr (afterSwitch { a with drains := a.drains ++ ds, ended := a.ended ++ [t.item] })
      let s2 := setReg s1 (Reg.ARY_FLAGS die array) fl
      let s3 := setReg s2 (Reg.ARY_TILE die array) (t.id % 2 ^ 16 * 2 ^ 48 + s.bell % 2 ^ 48)
      .next (settleItem (runFlags s3 a.flags a.wrotePoison) arr)
    else .next s
  | _, _ => .next s

/-- The contexts that a tile enables, with registers clear. -/
def freshCtxs (t : Tile) : List (Nat × Ctx) :=
  t.words.flatMap fun kv => (List.range 16).filterMap fun c =>
    if bitAt (rCtxEn kv.2) c then some (kv.1 * 16 + c, Ctx.fresh) else none

/-- The strobe proper: the shadow becomes active, the former buffer EMPTY, registers clear, and the sequencer
starts loading the next tile. -/
def activate (a : Arr) (t : Tile) : Arr :=
  loadNext { a with state := .active, active := some t, shadow := none, shadowState := .empty, bindPending := 0,
                    k := 0, nextCell := 0, frozen := [], ramp := 1, ctxs := freshCtxs t, latches := [], busDrive := [],
                    portK := 0, ports := [], flags := .none, wrotePoison := false }

/-- ACTIVATION_STROBE: at switch cycle 129 a READY shadow whose start has come becomes active, its words are
distributed and checked (`words` is the outcome of the check); otherwise the waiting cycle is counted (R120, R121). -/
def execActivationStrobe (die array : Nat) (words : Ecc) (s : State) : Host.Outcome State Fault Refusal :=
  let arr := aryKey die array
  let s0 := modArr (settleItem (shadowReady s arr) arr) arr fun a => { a with past96 := true }
  let a := arrAt s0 arr
  if a.state ≠ .switching ∧ a.state ≠ .idle then .next s0
  else
    match a.shadowState, a.shadow with
    | .ready, some t =>
      if !tileStart s0 t then .next s0
      else
        let s1 := { s0 with itn := { s0.itn with begun := s0.itn.begun ++ [t.item] } }
        match words with
        | .uncorrectable =>
          let s2 := setArr s1 arr { a with state := .idle, shadowState := .bad }
          .next (lostWork (raiseIf (aryErr s2 arr) (Reg.ARY_CTRL die) 3 0x0011 arr))
        | .corrected => .next (setArr (bump s1 (Reg.ARY_ECC_CNT die) 32 32 1) arr (activate a t))
        | .clean => .next (setArr s1 arr (activate a t))
    | _, _ =>
      if a.state = .switching then
        let r := Reg.ARY_STALL die array
        let s1 := bump s0 r 0 32 1
        .next (if regField s1 r 0 32 = 2 ^ 20 + 1 ∧ regField s0 r 0 32 = 2 ^ 20 then raiseIf s1 (Reg.ARY_CTRL die) 1 0x0012 arr else s1)
      else .next s0

/-- RAMP_STEP: two more contexts are enabled, from tile cycle 640 times the step (Table 3.9). -/
def execRampStep (die array : Nat) (s : State) : Host.Outcome State Fault Refusal :=
  let arr := aryKey die array
  let a := arrAt s arr
  if a.state = .active ∧ a.ramp < 8 ∧ a.frozen = [] then
    .next (setArr s arr { a with ramp := a.ramp + 1, k := max a.k (640 * a.ramp),
                                 nextCell := if a.k < 640 * a.ramp then 0 else a.nextCell })
  else .next s

/-- SHADOW_LOADED: the sequencer has copied the next tile into the shadow buffer. -/
def execShadowLoaded (die array : Nat) (s : State) : Host.Outcome State Fault Refusal :=
  let arr := aryKey die array
  let a := arrAt s arr
  match a.shadowState, a.shadow with
  | .loading, some t => .next (shadowReady (setArr s arr { a with shadowState := .prefetch, bindPending := prefetchMask t }) arr)
  | _, _ => .next s

/-- Whether two ranges meet. -/
def overlaps (a n b m : Nat) : Bool := decide (a < b + m) && decide (b < a + n)

/-- PREFETCH_DONE: a PREFETCH copy from DPA into scratch completes. It waits for the tile's dependencies and for a
pending DRAIN of the same DPA (R119, R301). -/
def execPrefetchDone (die array bind : Nat) (s : State) : Host.Outcome State Fault Refusal :=
  let arr := aryKey die array
  let a := arrAt s arr
  match a.shadowState, a.shadow with
  | .prefetch, some t =>
    let d := t.bind bind
    let busy := a.drains.any fun q => overlaps (bDpa q.desc) (bLen q.desc) (bDpa d) (bLen d)
    if !a.bindPending.getLsbD bind || busy || !tileDeps s t then .next (shadowReady s arr)
    else
      let r := readMem s 1 (bHint d) (bDpa d) (bLen d)
      let s1 := modArr r.2 arr fun a =>
        { (scratchWrite a (bBase d) r.1) with bindPending := a.bindPending &&& ~~~ BitVec.ofNat 8 (2 ^ bind) }
      .next (shadowReady s1 arr)
  | _, _ => .next s

/-- DRAIN_DONE: the oldest DRAIN copy from scratch to DPA completes; `ecc` gives the outcomes of the checks of the scratch
words it reads, by number in the window (R106). -/
def execDrainDone (die array : Nat) (s : State) (ecc : List (Nat × Ecc) := []) : Host.Outcome State Fault Refusal :=
  let arr := aryKey die array
  let a := arrAt s arr
  match a.drains with
  | [] => .next s
  | d :: ds =>
    let seen := ecc.filter fun e => decide (8 * e.1 < bLen d.desc)
    let bad := fun (i : Nat) => seen.any fun e => e.1 == i / 8 && e.2 == .uncorrectable
    let bs := (scratchBytes a (bBase d.desc) (bLen d.desc)).mapIdx fun i b => ⟨b.b, b.poison || bad i⟩
    let s1 := seen.foldl (fun s e => scratchEcc s arr e.2) (setArr s arr { a with drains := ds })
    .next (settleItem (writeMem s1 1 arr (bHint d.desc) (bDpa d.desc) bs) arr)

/-- STOP_REQUEST (R127): one that comes before the switch samples at cycle 96 holds the array at its end; a later one (`late`,
or any once the switch has reached cycle 129), or one to an array whose first tile is still in the shadow, takes effect at
the end of the incoming tile. -/
def execStopRequest (die array : Nat) (s : State) (late : Bool := false) : Host.Outcome State Fault Refusal :=
  let arr := aryKey die array
  let a := arrAt s arr
  match a.state with
  | .active => .next (setArr s arr { a with preempt := true })
  | .switching =>
    if late || a.past96 then .next (setArr s arr { a with preempt := true })
    else .next (setArr s arr { a with preempt := true, state := .held })
  | .idle => if a.shadowState = .empty ∧ a.todo.isEmpty then .next s else .next (setArr s arr { a with preempt := true })
  | _ => .next s

/-- HELD_RELEASE: the array leaves HELD for the strobe (R129). -/
def execHeldRelease (die array : Nat) (s : State) : Host.Outcome State Fault Refusal :=
  let arr := aryKey die array
  let a := arrAt s arr
  if a.state = .held then .next (setArr s arr { (afterSwitch { a with preempt := false }) with past96 := true }) else .next s

/-- The values that a tile's contexts still await are discarded: whoever returns them finds nobody (R124). -/
def orphan (s : State) (arr : Nat) : State :=
  let drop := fun (w : Waiter) => match w with | .ctx a _ _ => if a = arr then Waiter.none else w | w => w
  let skim := fun (q : SkimReq) => { q with who := drop q.who }
  { s with
    scr := { s.scr with atoms := s.scr.atoms.map fun q => { q with who := drop q.who }, front := s.scr.front.map skim,
                        chan := s.scr.chan.map skim, frontWait := s.scr.frontWait.map skim },
    mem := { s.mem with stks := s.mem.stks.map fun k =>
      { k with held := k.held.map fun h => { h with who := drop h.who },
               bankq := k.bankq.map fun r => { r with work := match r.work with | .skim q => .skim (skim q) | w => w } } } }

/-- TILE_WATCHDOG: the limit is reached before the tile's END; the tile is aborted (R123 to R125, R128). -/
def execTileWatchdog (die array : Nat) (s : State) : Host.Outcome State Fault Refusal :=
  let arr := aryKey die array
  let a := arrAt s arr
  match a.state, a.active with
  | .active, some t =>
    if a.ctxs.all fun kv => kv.2.state == .done then .next s
    else
      let s1 := orphan (setArr s arr (afterSwitch a)) arr
      let s2 := setReg s1 (Reg.ARY_WDOG die array) (t.id % 2 ^ 16 * 2 ^ 48 + s.bell % 2 ^ 48)
      let s3 := raiseAlarm (aryErr s2 arr) 0x0A arr
      let s4 := logCond s3 0x11 0x02 0x10 arr t.id
      .next (lostWork (raiseIf s4 (Reg.ARY_CTRL die) 2 0x0010 arr))
  | _, _ => .next s

/-- CLUSTER_CLOCK_LOSS: the eight arrays of a cluster enter FAULT; what they had in hand is lost (R132). -/
def execClusterClockLoss (die cluster : Nat) (s : State) : Host.Outcome State Fault Refusal :=
  if 2 ≤ die ∨ 12 ≤ cluster then .next s
  else
    let busy := (List.range 8).any fun n =>
      let a := arrAt s (aryKey die (8 * cluster + n))
      a.state == .active || a.state == .switching || !a.todo.isEmpty
    let s1 := loopN 8 s fun n s => modArr s (aryKey die (8 * cluster + n)) fun a =>
      { a with state := .fault, ctxs := [], latches := [], frozen := [] }
    .next (if busy then lostWork s1 else s1)

/-- Zero the counters of a die's arrays (Table 3.12). -/
def clearAry (s : State) (die : Nat) : State :=
  loopN 96 (setReg s (Reg.ARY_ECC_CNT die) 0) fun n s =>
    zeroRegs s [Reg.ARY_ISSUE die n, Reg.ARY_BUBBLE die n, Reg.ARY_STALL die n]

/-- A write of ARY_CTRL. -/
def writeAryCtrl (s : State) (die v : Nat) : State :=
  let s1 := plainWrite s (Reg.ARY_CTRL die) v
  if bitAt v 7 then clearAry s1 die else s1

/-- ARY_CLR_COUNTERS: a write of ARY_CTRL with clr_counters set. -/
def execAryClrCounters (die : Nat) (v : W64) (s : State) : Host.Outcome State Fault Refusal :=
  .next (writeAryCtrl s (die % 2) (v ||| 0x80).toNat)

end Sys2Proof.Machine
end

