-- ==== Sys2Proof/Machine/Hash.lean ====
section
/-!
DEFINITION. SHA-256 (FIPS 180-4), named by R298, R394, R416 and chapter 17.
-/
namespace Sys2Proof.Machine

/-- The first 64 primes: those below 312, found by trial division (19 squared is above them). -/
def shaPrimes : List Nat :=
  (List.range 312).filter fun n => decide (2 ≤ n) && (List.range 18).all fun d => decide (d < 2) || decide (n ≤ d) || n % d != 0

/-- The first 32 bits of the fraction of the k-th root of p: the k-th root of p * 2^(32k) below its 32 fraction bits. A
root of a prime of these is below 2^5, so 37 bits are found, highest first. -/
def rootFraction (k p : Nat) : Nat :=
  (loopN 37 0 fun i r => let c := r + 2 ^ (36 - i); if c ^ k ≤ p * 2 ^ (32 * k) then c else r) % 2 ^ 32

/-- The round constants: fractions of the primes' cube roots. -/
def shaK : List Nat := shaPrimes.map (rootFraction 3)

/-- The initial hash value: fractions of the square roots of the first eight primes. -/
def shaInit : List Nat := (shaPrimes.take 8).map (rootFraction 2)

/-- Rotate a 32-bit word right. -/
def rotr32 (x n : Nat) : Nat := Nat.lor (x >>> n) (x * 2 ^ (32 - n) % 2 ^ 32)
/-- Exclusive or of three words. -/
def xor3 (a b c : Nat) : Nat := Nat.xor (Nat.xor a b) c
/-- Message schedule functions. -/
def shaS0 (x : Nat) : Nat := xor3 (rotr32 x 7) (rotr32 x 18) (x >>> 3)
def shaS1 (x : Nat) : Nat := xor3 (rotr32 x 17) (rotr32 x 19) (x >>> 10)

/-- The message schedule, kept as its last 16 words, newest last: one step of it. -/
def shaNext (w : List Nat) : List Nat :=
  w.drop 1 ++ [(shaS1 (nth w 14 0) + nth w 9 0 + shaS0 (nth w 1 0) + nth w 0 0) % 2 ^ 32]

/-- One round on the eight working words with a constant and a schedule word. -/
def shaRound (v : List Nat) (k w : Nat) : List Nat :=
  let g := fun i => nth v i 0
  let e := g 4
  let a := g 0
  let t1 := g 7 + xor3 (rotr32 e 6) (rotr32 e 11) (rotr32 e 25)
    + Nat.xor (Nat.land e (g 5)) (Nat.land (2 ^ 32 - 1 - e) (g 6)) + k + w
  let t2 := xor3 (rotr32 a 2) (rotr32 a 13) (rotr32 a 22)
    + xor3 (Nat.land a (g 1)) (Nat.land a (g 2)) (Nat.land (g 1) (g 2))
  [(t1 + t2) % 2 ^ 32, a, g 1, g 2, (g 3 + t1) % 2 ^ 32, e, g 5, g 6]

/-- One compression of a 64-byte block into the hash value. -/
def shaBlock (h : List Nat) (blk : List Byte) : List Nat :=
  let w0 := (List.range 16).map fun i => ofLe (((blk.drop (4 * i)).take 4).reverse)
  let r := shaK.foldl (fun (a : List Nat × List Nat) k => (shaRound a.1 k (nth a.2 0 0), shaNext a.2)) (h, w0)
  (List.range 8).map fun i => (nth h i 0 + nth r.1 i 0) % 2 ^ 32

/-- SHA-256 of a byte string: 32 bytes. -/
def sha256 (m : List Byte) : List Byte :=
  let n := m.length
  let padded := m ++ [0x80] ++ List.replicate ((119 - n % 64) % 64) 0 ++ beBytes 8 (8 * n)
  ((chunks 64 (padded.length / 64) padded).foldl shaBlock shaInit).flatMap (beBytes 4)

end Sys2Proof.Machine
end

