-- ==== Sys2Proof/Machine/Lms.lean ====
section
/-!
DEFINITION. LMS signature verification with SHA-256, types LMS_SHA256_M32_H20 and LMOTS_SHA256_N32_W4 (R635). PRESUMED:
the algorithm is that of RFC 8554, which R635 names and does not repeat.
-/
namespace Sys2Proof.Machine

/-- The 4-bit coefficient i of a byte string, high nibble first. -/
def lmsCoef (b : List Byte) (i : Nat) : Nat :=
  let x := (nth b (i / 2) 0).toNat
  if i % 2 = 0 then x / 16 else x % 16

/-- A message digest followed by its 16-bit checksum. -/
def lmsWithSum (q : List Byte) : List Byte :=
  q ++ beBytes 2 (((List.range 64).foldl (fun n i => n + (15 - lmsCoef q i)) 0) * 16)

/-- One Winternitz chain, from step a to step 15. -/
def lmsChain (pre : List Byte) (i a : Nat) (y : List Byte) : List Byte :=
  (List.range (15 - a)).foldl (fun t k => sha256 (pre ++ beBytes 2 i ++ beBytes 1 (a + k) ++ t)) y

/-- The LMOTS public key that a signature of a message gives. -/
def lmotsKey (ident : List Byte) (leaf : Nat) (sig msg : List Byte) : List Byte :=
  let pre := ident ++ beBytes 4 leaf
  let q := sha256 (pre ++ beBytes 2 0x8181 ++ (sig.drop 4).take 32 ++ msg)
  let v := lmsWithSum q
  sha256 (pre ++ beBytes 2 0x8080 ++ (List.range 67).flatMap fun i => lmsChain pre i (lmsCoef v i) ((sig.drop (36 + 32 * i)).take 32))

/-- The root that a path gives, from node number `node`. -/
def lmsRoot (ident path : List Byte) : Nat → Nat → Nat → List Byte → List Byte
  | 0, _, _, t => t
  | fuel + 1, i, node, t =>
    if node ≤ 1 then t
    else
      let p := (path.drop (32 * i)).take 32
      let pre := ident ++ beBytes 4 (node / 2) ++ beBytes 2 0x8383
      lmsRoot ident path fuel (i + 1) (node / 2) (sha256 (if node % 2 = 1 then pre ++ p ++ t else pre ++ t ++ p))

/-- A number highest byte first. -/
def ofBe (b : List Byte) : Nat := ofLe b.reverse

/-- Whether a 2,828-byte signature of a message verifies under a 56-byte public key (R635). -/
def lmsVerify (key sig msg : List Byte) : Bool :=
  let leaf := ofBe (sig.take 4)
  let ots := (sig.drop 4).take 2180
  let ident := (key.drop 8).take 16
  key.length == 56 && sig.length == 2828 && ofBe (key.take 4) == 8 && ofBe ((key.drop 4).take 4) == 3 && ofBe (ots.take 4) == 3
  && ofBe ((sig.drop 2184).take 4) == 8 && decide (leaf < 2 ^ 20)
  && lmsRoot ident (sig.drop 2188) 21 0 (2 ^ 20 + leaf)
      (sha256 (ident ++ beBytes 4 (2 ^ 20 + leaf) ++ beBytes 2 0x8282 ++ lmotsKey ident leaf ots msg)) == key.drop 24

end Sys2Proof.Machine
end

