-- ==== Sys2Proof/Machine/Ctl.lean ====
section
/-!
DEFINITION. Control space (R183, R184, R675): what its registers, stores and operand areas read, and their writes.
-/
namespace Sys2Proof.Machine

/-- STK_STATUS.state. -/
def stackCode : StackState → Nat
  | .off => 0 | .selfRefresh => 1 | .active => 2 | .writeHold => 3 | .fault => 4
/-- TRW_STATUS.state. -/
def trwCode : TrwState → Nat
  | .idle => 0 | .run => 1 | .commit => 2 | .held => 3 | .disabled => 4
/-- TRW_STATUS.outcome. -/
def outcomeCode : TrwOutcome → Nat
  | .none => 0 | .done => 1 | .killed => 2 | .span => 3 | .fault => 4

/-- TRW_STATUS (Table 6.4). -/
def trwStatus (s : State) (x : TSite) : Nat :=
  let t := trowelAt s x
  let ready := fun (b : Nat) => match t.cmd with
    | some c => decide ((if b = 0 then c.r0 else c.r1) ≤ c.now)
    | none => (if b = 0 then t.drain.1 else t.drain.2) == 0
  let pc := match t.cmd with | some c => c.pc | none => t.pc
  let busy := b2n (trowelBusy s x)
  trwCode t.state * 2 ^ 28 + outcomeCode t.outcome * 2 ^ 24 + pc % 256 * 2 ^ 16 + b2n (ready 1) * 8 + b2n (ready 0) * 4 + busy * 3

/-- What an STK_ register reads. -/
def stkView (s : State) (k a : Nat) : Nat :=
  let x := stackAt s k
  let v := reg s a
  if a = Reg.STK_CONFIG k then v + s.mem.p
  else if a = Reg.STK_STATUS k then stackCode x.state * 2 ^ 12 + b2n x.hot * 2 ^ 11
  else if a = Reg.STK_SCRUB_STATUS k then
    min x.scrubPasses (2 ^ 32 - 1) * 2 ^ 32 + min (scrubLagMin s k) 0xFFFF * 2 ^ 16 + x.scrubPos * 65536 / scrubRows
  else if a = Reg.STK_MERGE k then v + x.merge.length
  else if a = Reg.STK_RETIRED k then
    let mine := s.mem.retired.filter fun r => r.stack = k
    (mine.filter fun r => r.page = none).length * 2 ^ 16 + (mine.filter fun r => r.page ≠ none).length
  else v

/-- What a register of a trowel's command area reads. -/
def trwView (s : State) (x : TSite) (a : Nat) : Nat :=
  let v := reg s a
  if a = Reg.TRW_ID x.stack x.trowel then v + b2n (decide (64 - 8 * s.mem.p ≤ tBank x 0)) * 2 ^ 21
  else if a = Reg.TRW_STATUS x.stack x.trowel then trwStatus s x
  else if a = Reg.TRW_REFRESH x.stack x.trowel then
    v + postponed s (bankKey x.stack (tDie x) (tBank x 1)) * 16 + postponed s (bankKey x.stack (tDie x) (tBank x 0))
  else v

/-- What a reducer register reads. -/
def rdcView (s : State) (k a : Nat) : Nat :=
  let r := reducerAt s k
  let v := reg s a
  if a = Reg.STK_RDC_STATUS k then v + r.jobs.length * 2 ^ 8 + (if r.running.isSome then 2 else if r.jobs.isEmpty then 0 else 1)
  else if a = Reg.STK_RDC_SLOTS k then r.slots.foldl (fun m x => m + 2 ^ x.1) 0
  else v

/-- Where a control-space address lies. -/
inductive CtlPlace where
  | stk | trw (x : TSite) | store (x : TSite) (i : Nat) | rdc | area (o : Nat) | none
  deriving DecidableEq, Repr

/-- The place of offset o of stack k's window (Table 5.3). -/
def ctlPlace (k o : Nat) : CtlPlace :=
  if o < 0x10000 then .stk
  else if 0x1000000 ≤ o ∧ o < 0x1000000 + 640 * 0x1000 then
    let x : TSite := ⟨k, (o - 0x1000000) / 0x1000⟩
    let b := o % 0x1000
    if b < 0x100 then .trw x else if 0x800 ≤ b then .store x ((b - 0x800) / 8) else .none
  else if 0x2000000 ≤ o ∧ o < 0x2008000 then .rdc
  else if 0x2008000 ≤ o ∧ o < 0x2010000 then .area (o - 0x2008000)
  else .none

/-- The stack and offset of a control-space address. -/
def ctlStack (dpa : Nat) : Nat := dpa / 0x100000000 % 16
def ctlOffset (dpa : Nat) : Nat := dpa % 0x100000000

/-- A micro-program word. -/
def storeWord (s : State) (x : TSite) (i : Nat) : Nat := (mgetD 0 s.ustore (tKey x * 256 + i)).toNat

/-- The value of the register or word that holds a control-space byte address: its base address, its bytes and its
value. -/
def ctlWord (s : State) (dpa : Nat) : Nat × Nat × Nat :=
  let k := ctlStack dpa
  match ctlPlace k (ctlOffset dpa) with
  | .stk => (dpa / 8 * 8, 8, stkView s k (dpa / 8 * 8))
  | .trw x => (dpa / 4 * 4, 4, trwView s x (dpa / 4 * 4))
  | .store x i => (dpa / 8 * 8, 8, storeWord s x i)
  | .rdc => (dpa / 8 * 8, 8, rdcView s k (dpa / 8 * 8))
  | _ => (dpa / 8 * 8, 8, 0)

/-- A byte of control space; the windows of absent stacks read zero (R13, R183). -/
def ctlByte (s : State) (a : Nat) : PByte :=
  if stackCount s ≤ ctlStack a then ⟨0, false⟩
  else
    match ctlPlace (ctlStack a) (ctlOffset a) with
    | .area o => mgetD ⟨0, false⟩ (reducerAt s (ctlStack a)).area o
    | _ => let w := ctlWord s a; ⟨BitVec.ofNat 8 (bitsOf w.2.2 (8 * (a - w.1)) 8), false⟩

/-- A read of n bytes of control space. -/
def ctlRead (s : State) (dpa n : Nat) : List PByte := (List.range n).map fun i => ctlByte s (dpa + i)

/-- The value with which a 4-byte write of a half of a 64-bit register acts: RW fields of the other half keep their
values, all else of it is zero (R675). -/
def halfWrite (s : State) (a : Nat) (high : Bool) (v : Nat) : Nat :=
  let keep := match regAt a with | some d => reg s a &&& d.mask .rw | none => 0
  if high then keep % 2 ^ 32 + v % 2 ^ 32 * 2 ^ 32 else keep / 2 ^ 32 * 2 ^ 32 + v % 2 ^ 32

/-- A write of a 64-bit STK_ or reducer register. -/
def writeCtlReg (s : State) (k a v : Nat) : State :=
  if a = Reg.STK_CTRL k then writeStkCtrl s k v
  else if a = Reg.STK_SCRUB_CTRL k then writeScrubCtrl s k v
  else if a = Reg.STK_RDC_JOB k then writeJob s k v
  else plainWrite s a v

/-- A write of a 32-bit register of a command area (R216). -/
def writeTrwReg (s : State) (x : TSite) (a v : Nat) : State :=
  if a = Reg.TRW_CTRL x.stack x.trowel then writeTrwCtrl s x v
  else if itinLoaded s || (trowelAt s x).state != .idle then setRegBit s (Reg.TRW_ERR x.stack x.trowel) 4
  else plainWrite s a v

/-- A write into a micro-program store: 8 bytes, or one half (R216). -/
def writeStore (s : State) (x : TSite) (i : Nat) (half : Option Bool) (v : Nat) : State :=
  if itinLoaded s || (trowelAt s x).state != .idle then setRegBit s (Reg.TRW_ERR x.stack x.trowel) 4
  else
    let old := storeWord s x i
    let w := match half with | none => v | some true => setBits old 32 32 v | some false => setBits old 0 32 v
    { s with ustore := mput 0 s.ustore (tKey x * 256 + i) (BitVec.ofNat 64 w) }

/-- A write of 4 or 8 naturally aligned bytes of control space. A poisoned write of a register or a store is discarded;
the operand area keeps the poison. -/
def ctlWrite (s : State) (dpa n v : Nat) (poison : Bool) : State :=
  let k := ctlStack dpa
  if stackCount s ≤ k then s
  else
    match ctlPlace k (ctlOffset dpa) with
    | .area o => setReducer s k (areaWrite (reducerAt s k) o ((leBytes n v).map (⟨·, poison⟩)))
    | .none => s
    | .trw x =>
      if poison then s
      else if n = 4 then writeTrwReg s x dpa v
      else writeTrwReg (writeTrwReg s x dpa (v % 2 ^ 32)) x (dpa + 4) (v / 2 ^ 32)
    | .store x i => if poison then s else writeStore s x i (if n = 4 then some (dpa % 8 == 4) else none) v
    | .stk => if poison then s else writeCtlReg s k (dpa / 8 * 8) (if n = 4 then halfWrite s (dpa / 8 * 8) (dpa % 8 == 4) v else v)
    | .rdc =>
      if poison then s
      else if dpa / 8 * 8 = Reg.STK_RDC_JOB k ∧ n = 4 then writeCtlReg s k (dpa / 8 * 8) (if dpa % 8 = 4 then v % 2 ^ 32 * 2 ^ 32 else v % 2 ^ 32)
      else writeCtlReg s k (dpa / 8 * 8) (if n = 4 then halfWrite s (dpa / 8 * 8) (dpa % 8 == 4) v else v)

/-- Whether a control-space access has a form that the sequencer performs (R513): 4 or 8 bytes, aligned. The window of
an absent stack reads zero and ignores writes. -/
def ctlFormOk (n dpa : Nat) : Bool := (n == 4 || n == 8) && dpa % n == 0

/-- CONTROL_SPACE_ACCESS: the stack sequencer performs an issuer's read or write of 4 or 8 bytes (R184). Another form has
no effect. -/
def execControlSpaceAccess (issuer : Nat) (write : Bool) (dpa n : Nat) (v : W64) (poison : Bool) (s : State) :
    Host.Outcome State Fault Refusal :=
  if dpa < ctlBase ∨ ctlFormOk n dpa = false then .next s
  else if write then .next (ctlWrite s dpa n v.toNat poison)
  else .next (emit s (.readData issuer dpa (ctlRead s dpa n)))

end Sys2Proof.Machine
end

