-- ==== Sys2Proof/Machine/Chan.lean ====
section
/-!
DEFINITION. Check-value channels (§13.6): the four CRCs, running values, feed queues and their registers.
-/
namespace Sys2Proof.Machine

/-! ### Parameter sets (Table 13.9) -/

/-- The width of a set in bits. -/
def setWidth (k : Nat) : Nat := if k = 2 then 64 else if k = 3 then 16 else 32
/-- Its initial value. -/
def setInit (k : Nat) : Nat := if k = 2 then 0 else if k = 3 then 0xFFFF else 0xFFFFFFFF
/-- Its final XOR. -/
def setXor (k : Nat) : Nat := if k < 2 then 0xFFFFFFFF else 0

/-- One bit of a CRC register in the set's own bit order. -/
def crcBit (k v : Nat) : Nat :=
  if k < 2 then
    let p := if k = 0 then 0x82F63B78 else 0xEDB88320
    if v % 2 = 1 then Nat.xor (v / 2) p else v / 2
  else
    let p := if k = 2 then 0x42F0E1EBA9EA3693 else 0x1021
    let w := setWidth k
    if v.testBit (w - 1) then Nat.xor (v * 2 % 2 ^ w) p else v * 2 % 2 ^ w

/-- One byte through a CRC register (R530). -/
def crcByte (k v : Nat) (b : Byte) : Nat :=
  let x := if k < 2 then Nat.xor v b.toNat else Nat.xor v (b.toNat * 2 ^ (setWidth k - 8))
  loopN 8 x fun _ v => crcBit k v

/-- Bytes through a CRC register, in address order. -/
def crcRun (k v : Nat) (bs : List Byte) : Nat := bs.foldl (crcByte k) v

/-! ### Channels (R530, R531, R533) -/

/-- The set of a channel. -/
def chanKind (s : State) (c : Nat) : Nat := regField s (Reg.DMA_CHAN_CFG c) 2 2
/-- Whether a channel is in ACCUMULATE. -/
def chanAcc (s : State) (c : Nat) : Bool := regField s (Reg.DMA_CHAN_CFG c) 0 2 == 1
/-- The bytes of a channel's check value. -/
def chanBytes (s : State) (c : Nat) : Nat := setWidth (chanKind s c) / 8
/-- The running value of a channel. -/
def chanValue (s : State) (c : Nat) : Nat := reg s (Reg.DMA_CHAN_VALUE c)
/-- The running value replaced; bits above the width are ignored. -/
def chanSet (s : State) (c v : Nat) : State := setReg s (Reg.DMA_CHAN_VALUE c) (v % 2 ^ setWidth (chanKind s c))
/-- Bytes processed by a channel. -/
def chanRun (s : State) (c : Nat) (bs : List Byte) : State := chanSet s c (crcRun (chanKind s c) (chanValue s c) bs)
/-- The final value of a channel as bytes (R530). -/
def chanFinal (s : State) (c : Nat) : List Byte := leBytes (chanBytes s c) (Nat.xor (chanValue s c) (setXor (chanKind s c)))

/-- The feed queue of a channel. -/
def feedOf (s : State) (c : Nat) : List (List Byte) := mgetD [] s.dma.feed c
/-- The feed queue replaced. -/
def setFeed (s : State) (c : Nat) (q : List (List Byte)) : State := { s with dma := { s.dma with feed := mput [] s.dma.feed c q } }
/-- The oldest feed write processed. -/
def feedOne (s : State) (c : Nat) : State :=
  match feedOf s c with
  | [] => s
  | b :: q => chanRun (setFeed s c q) c b
/-- Every feed write processed: what a read or write of the running value is ordered after (R533). -/
def feedAll (s : State) (c : Nat) : State := loopN (feedOf s c).length s fun _ s => feedOne s c

/-- Whether an itinerary is loaded for some context. -/
def anyItin (s : State) : Bool := s.itn.image.isSome || s.engines.any fun e => e.2.itn.image.isSome

/-- The channel that a descriptor uses (R527). -/
def descChan (d : BitVec 512) : Option Nat :=
  let op := bitsOf d.toNat 0 8
  if op = 6 ∨ op = 7 ∨ (op = 1 ∧ bitsOf d.toNat 29 2 ≠ 0) then some (bitsOf d.toNat 24 5) else none

/-- The descriptor of a DMA queue: of a command's list, or an itinerary's item. -/
def queueDesc (s : State) (q i : Nat) : Option (BitVec 512) :=
  if q < 16 then
    let items := match s.itn.image with | some g => g.items | none => []
    (items.find? fun (x : Item) => x.id == i && x.variant == s.itn.variant).bind fun x =>
      match x.work with | .dma k d => if k = q then some d else none | _ => none
  else (mget s.dma.runs q).bind fun r => r.descs[i]?

/-- Whether a channel is serving a descriptor that waits for another module (R534). -/
def chanBound (s : State) (c : Nat) : Bool :=
  s.dma.runs.any fun kv => kv.2.waiting.any fun w => (match queueDesc s kv.1 w.1 with | some d => descChan d == some c | none => false)

/-- Whether the configuration or value of a channel may be written (R534). -/
def chanFree (s : State) (c : Nat) : Bool := c != 31 && !(decide (c < 16) && anyItin s) && !chanBound s c

/-- A write of DMA_CHAN_CFG_c: the set's initial value is loaded and the feed queue emptied (R531, R539). -/
def writeChanCfg (s : State) (c v : Nat) : State :=
  if !chanFree s c || decide (2 ≤ v % 4) then setRegBit s Reg.DMA_ERR 5
  else
    let s1 := setFeed (plainWrite s (Reg.DMA_CHAN_CFG c) v) c []
    chanSet s1 c (setInit (chanKind s1 c))
/-- A write of DMA_CHAN_VALUE_c, after the feeds that arrived before it. -/
def writeChanValue (s : State) (c v : Nat) : State :=
  if !chanFree s c then setRegBit s Reg.DMA_ERR 5 else chanSet (feedAll s c) c v
/-- A write of n bytes to DMA_CHAN_FEED_c (R533). While the queue is full the write waits for its oldest entry to
drain. -/
def writeChanFeed (s : State) (c n v : Nat) : State :=
  if n = 8 then setRegBit s Reg.DMA_ERR 4
  else if n ≠ 1 ∧ n ≠ 2 ∧ n ≠ 4 then s
  else if !chanAcc s c then setRegBit s Reg.DMA_ERR 4
  else
    let s1 := if (feedOf s c).length < 64 then s else feedOne s c
    setFeed s1 c (feedOf s1 c ++ [leBytes n v])

/-- What a DMA_ register reads. -/
def dmaView (s : State) (a : Nat) : Nat :=
  let v := reg s a
  if a = Reg.DMA_QUEUES then
    (List.range 32).foldl (fun m q => match mget s.dma.runs q with
      | some r => if q < 16 ∧ r.waiting = [] then m else m + 2 ^ q
      | none => m) 0
  else
    match (List.range 32).find? fun c => a == Reg.DMA_CHAN_STATUS c with
    | some c => (feedOf s c).length * 2 ^ 8 + b2n (decide (c < 16) && anyItin s) * 4 + b2n (chanBound s c) * 2 + b2n (c == 31)
    | none =>
      match (List.range 32).find? fun c => a == Reg.DMA_CHAN_VALUE c with
      | some c => chanValue (feedAll s c) c
      | none => v

/-- DMA_CHAN_CFG: a write of DMA_CHAN_CFG_c. -/
def execDmaChanCfg (c : Nat) (v : W64) (s : State) : Host.Outcome State Fault Refusal := .next (writeChanCfg s (c % 32) v.toNat)
/-- DMA_CHAN_VALUE: a write of DMA_CHAN_VALUE_c. -/
def execDmaChanValue (c : Nat) (v : W64) (s : State) : Host.Outcome State Fault Refusal := .next (writeChanValue s (c % 32) v.toNat)
/-- DMA_CHAN_FEED: a write of n bytes to DMA_CHAN_FEED_c. -/
def execDmaChanFeed (c n : Nat) (v : W64) (s : State) : Host.Outcome State Fault Refusal := .next (writeChanFeed s (c % 32) n v.toNat)
/-- FEED_PROCESS: a channel processes its oldest feed write. -/
def execFeedProcess (c : Nat) (s : State) : Host.Outcome State Fault Refusal := .next (feedOne s (c % 32))

end Sys2Proof.Machine
end

