-- ==== Sys2Proof/Machine/Flash.lean ====
section
/-!
DEFINITION. Module flash: its window (R560), the signing-state records (R646), and the items of R9 that retention memory holds
until they are written (R548, R632).
-/
namespace Sys2Proof.Machine

/-- Whether module flash may be written: the flash window (R560). -/
def flashOpen (s : State) : Bool := regBit s Reg.THM_STATUS 12

/-- The newest valid record: the higher sequence number (R646). -/
def newestRec (x : Sec) : Option SignRec :=
  match x.recA, x.recB with
  | some a, some b => some (if a.seq < b.seq then b else a)
  | some a, none => some a
  | none, b => b

/-- Whether copy A holds the newest valid record. -/
def newestIsA (x : Sec) : Bool :=
  match x.recA, x.recB with
  | some a, some b => decide (b.seq ≤ a.seq)
  | some _, none => true
  | none, _ => false

/-- A record written to the copy that does not hold the newest one (R646). -/
def writeRec (s : State) (rend next kind : Nat) : State :=
  let seq := match newestRec s.sec with | some r => (r.seq + 1) % 2 ^ 32 | none => 0
  let r : SignRec := ⟨seq, rend, next, kind⟩
  { s with sec := if newestIsA s.sec then { s.sec with recB := some r } else { s.sec with recA := some r } }

/-- Which items are held, as bits in R9 order. -/
def HoldItems.bits (h : HoldItems) : Nat :=
  b2n h.faultLog.isSome + 2 * b2n h.ageing.isSome + 4 * b2n h.sign.isSome + 8 * b2n h.trace.isSome

/-- One retained item written to flash as a second copy that replaces the first: 0 fault log, 1 ageing counters, 2
signing state as a kind 1 record, 3 incident trace. -/
def commitItem (s : State) (i : Nat) : State :=
  let r := s.pwr.retention
  let f := s.pwr.flash
  let put := fun (s : State) (r f : HoldItems) => { s with pwr := { s.pwr with retention := r, flash := f } }
  match i with
  | 0 => if r.faultLog.isSome then put s { r with faultLog := none } { f with faultLog := r.faultLog } else s
  | 1 => if r.ageing.isSome then put s { r with ageing := none } { f with ageing := r.ageing } else s
  | 2 => match r.sign with
    | some n => put (writeRec s n.2 n.1 1) { r with sign := none } { f with sign := r.sign }
    | none => s
  | _ => if r.trace.isSome then put s { r with trace := none } { f with trace := r.trace } else s

/-- The first `n` items written, in R9 order. -/
def commitItems (s : State) (n : Nat) : State := loopN (min n 4) s fun i s => commitItem s i

/-- What a flash write of the quartermaster waits for: items held in retention are written before it (R632). -/
def flashFirst (s : State) : State := if flashOpen s && s.pwr.retention.bits != 0 then commitItems s 4 else s

end Sys2Proof.Machine
end

