-- ==== Sys2Proof/Machine/Fabric.lean ====
section
/-!
DEFINITION. The Cheov fabric (chapter 9): flits and packets with their check codes, tolls and replay, port
training, routing, and the packet kinds performed at this module.
-/
namespace Sys2Proof.Machine

/-! ### Check codes (R337, R363, R365) -/

/-- A reflected 32-bit CRC with initial value and final inversion of all ones. -/
def crcRefl (poly : Nat) (bs : List Byte) : Nat :=
  Nat.xor 0xFFFFFFFF (bs.foldl (fun c b =>
    loopN 8 (Nat.xor c b.toNat) fun _ c => if c % 2 = 1 then Nat.xor (c / 2) poly else c / 2) 0xFFFFFFFF)
/-- CRC-32/IEEE 802.3, the link CRC. -/
def crc32 (bs : List Byte) : Nat := crcRefl 0xEDB88320 bs
/-- CRC-32C, the end-to-end CRC. -/
def crc32c (bs : List Byte) : Nat := crcRefl 0x82F63B78 bs
/-- CRC-3, polynomial x^3 + x + 1, over bits [63:3] of a frame, most significant first. -/
def crc3 (f : Nat) : Nat :=
  loopN 61 0 fun i c =>
    let x := (c / 4 % 2 + f / 2 ^ (63 - i) % 2) % 2
    Nat.xor (c * 2 % 8) (if x = 1 then 3 else 0)

/-! ### Packets (Table 9.5) -/

/-- Destination fabric ID. -/
def pkDest (p : List Byte) : Nat := bitsOf (fieldAt p 0 2) 6 10
/-- Kind. -/
def pkKind (p : List Byte) : Nat := bitsOf (fieldAt p 0 2) 0 6
/-- Source fabric ID. -/
def pkSrc (p : List Byte) : Nat := bitsOf (fieldAt p 2 2) 6 10
/-- Class: 0 SCHED, 1 BULK, 2 MGMT. -/
def pkClass (p : List Byte) : Nat := bitsOf (fieldAt p 2 2) 4 2
/-- Hop. -/
def pkHop (p : List Byte) : Nat := bitsOf (fieldAt p 2 2) 0 4
/-- ARRIVAL waystation index. -/
def pkWay (p : List Byte) : Nat := fieldAt p 6 2
/-- Transfer identifier. -/
def pkId (p : List Byte) : Nat := fieldAt p 4 2
/-- Source route. -/
def pkRoute (p : List Byte) : Nat := fieldAt p 8 8
/-- Target DPA. -/
def pkDpa (p : List Byte) : Nat := fieldAt p 16 5
/-- op byte. -/
def pkOp (p : List Byte) : Nat := fieldAt p 21 1
/-- Payload bytes: the length field plus one, modulo 2^16 as a field of 16 bits. -/
def pkLen (p : List Byte) : Nat := (fieldAt p 22 2 + 1) % 65536
/-- Payload of a packet whose CRC has been stripped. -/
def pkPayload (p : List Byte) : List Byte := p.drop 24

/-- A packet with its hop field set. -/
def setHop (p : List Byte) (h : Nat) : List Byte :=
  p.take 2 ++ leBytes 2 (setBits (fieldAt p 2 2) 0 4 h) ++ p.drop 4

/-- A packet header. -/
def mkHeader (dest kind src cls way id route dpa op len : Nat) : List Byte :=
  leBytes 2 (dest % 1024 * 64 + kind % 64) ++ leBytes 2 (src % 1024 * 64 + cls % 4 * 16)
    ++ leBytes 4 (way % 65536 * 65536 + id % 65536) ++ leBytes 8 route ++ leBytes 5 dpa ++ leBytes 1 op
    ++ leBytes 2 (len + 65535)

/-- Whether a kind may be sent in a class (Table 9.6). -/
def kindClassOk (kind cls : Nat) : Bool :=
  match kind with
  | 0x01 => decide (cls ≤ 1) | 0x02 => decide (cls ≤ 1) | 0x03 => cls == 1 | 0x04 => cls == 1 | 0x05 => cls == 1
  | 0x06 => cls == 1 | 0x08 => cls == 0
  | k => decide (0x10 ≤ k) && decide (k ≤ 0x16) && cls == 2

/-! ### Ports -/

/-- A port after reset: DOWN. -/
def FPort.reset : FPort :=
  { state := 0, failed := false, lanes := 0, bellOk := false, peerId := 0, peerPort := 0, peerValid := false,
    schedOk := false, txSeq := 0, rxSeq := 0, turn := 1, tolls := [0, 0, 0, 0, 0, 0], replay := [], txq := [],
    sent := [], part := [] }
/-- A port. -/
def portAt (s : State) (n : Nat) : FPort := mgetD FPort.reset s.fab.ports n
/-- A port replaced. -/
def setPort (s : State) (n : Nat) (p : FPort) : State :=
  { s with fab := { s.fab with ports := mput FPort.reset s.fab.ports n p } }
/-- A port changed. -/
def modPort (s : State) (n : Nat) (f : FPort → FPort) : State := setPort s n (f (portAt s n))
/-- Whether a port is UP or DEGRADED. -/
def portUp (s : State) (n : Nat) : Bool := (portAt s n).state == 7 || (portAt s n).state == 8
/-- Tolls at training: the receive buffers of Table 9.9, by lane SCHED, ADAPT, ESC0, ESC1, MG0, MG1. -/
def startTolls : List Nat := [0, 256, 64, 64, 16, 16]

/-- This module's fabric ID. -/
def selfId (s : State) : Nat := regField s Reg.FAB_SELF 0 10
/-- Whether it has one. -/
def selfAssigned (s : State) : Bool := regBit s Reg.FAB_SELF 11
/-- FAB_STATUS.state. -/
def fabState (s : State) : Nat := regField s Reg.FAB_STATUS 12 4

/-- FAB_PORT_STATUS of a port (Table 9.15). -/
def portStatus (p : FPort) : Nat :=
  p.peerPort % 16 * 2 ^ 44 + p.peerId % 1024 * 2 ^ 32 + p.lanes % 256 * 2 ^ 24 + p.state % 16 * 2 ^ 20 + b2n p.schedOk * 2 ^ 19
    + b2n p.bellOk * 2 ^ 18 + b2n p.peerValid * 2 ^ 17

/-- What the FAB_ registers that mirror the ports read; none for the others. -/
def fabView (s : State) (a : Nat) : Option Nat :=
  if a = Reg.FAB_STATUS then
    some ((List.range 16).foldl (fun m n => m + b2n (portUp s n) * 2 ^ (16 + n)) (fabState s * 2 ^ 12))
  else ((List.range 16).find? fun n => a == Reg.FAB_PORT_STATUS n).map fun n => portStatus (portAt s n)

/-! ### Sending flits (R337, R338, R355) -/

/-- A flit of 128 bytes with its link CRC (Table 9.2). -/
def mkFlit (lane : Nat) (first last bad : Bool) (seq tollLane tolls : Nat) (body : List Byte) : List Byte :=
  let h := leBytes 4 (lane * 2 ^ 29 + b2n first * 2 ^ 28 + b2n last * 2 ^ 27 + b2n bad * 2 ^ 26 + seq % 4096 * 2 ^ 14
    + tollLane * 2 ^ 11 + tolls % 256 * 2 ^ 3)
  let d := h ++ padTo 120 body
  d ++ leBytes 4 (crc32 d)

/-- Send one flit: a SCHED flit with seq zero and no copy; any other takes a toll of its lane, the next seq, and a
place in the replay buffer. -/
def sendFlit (s : State) (n : Nat) (f : TxFlit) : State :=
  let p := portAt s n
  let s1 := bump s (Reg.FAB_PORT_TX n) 0 64 1
  if f.lane = 0 then emit s1 (.flit n (mkFlit 0 f.first f.last f.bad 0 0 0 f.body))
  else
    let b := mkFlit f.lane f.first f.last false p.txSeq 0 0 f.body
    let done := fun (l : List SentPkt) =>
      if f.last then
        match l.findIdx? fun q => q.lane = f.lane ∧ q.lastSeq.isNone with
        | some i => l.modify i fun q => { q with lastSeq := some p.txSeq }
        | none => l
      else l
    emit (setPort s1 n { p with txSeq := (p.txSeq + 1) % 4096, replay := p.replay ++ [(p.txSeq, b)],
                                tolls := p.tolls.modify f.lane (· - 1), sent := done p.sent,
                                turn := if f.last && decide (f.lane ≤ 3) then f.lane else p.turn }) (.flit n b)

/-- Send waiting flits in order, holding back each lane that has no toll and every lane while the replay buffer of
256 flits is full. -/
def pumpGo : Nat → State → Nat → List TxFlit → List TxFlit → State
  | 0, s, n, kept, rest => modPort s n fun p => { p with txq := kept ++ rest }
  | fuel + 1, s, n, kept, rest =>
    match rest with
    | [] => modPort s n fun p => { p with txq := kept }
    | f :: fs =>
      let p := portAt s n
      let blocked := kept.any fun k => k.lane == f.lane
      if f.lane ≠ 0 ∧ (blocked ∨ p.tolls.getD f.lane 0 = 0 ∨ 256 ≤ p.replay.length) then pumpGo fuel s n (kept ++ [f]) fs
      else pumpGo fuel (sendFlit s n f) n kept fs

/-- The first packet among the flits of one lane, and the flits after it. -/
def firstPkt : List TxFlit → List TxFlit × List TxFlit
  | [] => ([], [])
  | f :: fs => if f.last then ([f], fs) else let r := firstPkt fs; (f :: r.1, r.2)

/-- BULK flits in the order of service: one packet at a time, the lanes ESC1, ESC0 and ADAPT in rotation after the lane
served last (Table 9.9). -/
def bulkOrder : Nat → Nat → List TxFlit → List TxFlit
  | 0, _, q => q
  | fuel + 1, turn, q =>
    match ([3, 2, 1, 3, 2, 1].drop (4 - turn % 4)).find? fun l => q.any (·.lane == l) with
    | none => q
    | some l =>
      let r := firstPkt (q.filter (·.lane == l))
      r.1 ++ bulkOrder fuel l (q.filter (·.lane != l) ++ r.2)

/-- Send what may be sent on a port. -/
def pump (s : State) (n : Nat) : State :=
  let q := (portAt s n).txq
  -- SCHED first, then MGMT, then BULK (Table 9.9)
  let order := q.filter (fun f => f.lane == 0) ++ q.filter (fun f => f.lane == 4 || f.lane == 5)
    ++ bulkOrder q.length (portAt s n).turn (q.filter fun f => f.lane != 0 && f.lane != 4 && f.lane != 5)
  pumpGo (q.length + 1) s n [] order

/-- The flits of a packet with its CRC; `bad` names the flits that go bad. -/
def flitsOf (lane : Nat) (bytes : List Byte) (bad : List Nat) : List TxFlit :=
  let k := (bytes.length + 119) / 120
  (List.range k).map fun i =>
    { lane := lane, first := i == 0, last := i + 1 == k, bad := bad.contains i, body := (bytes.drop (120 * i)).take 120 }

/-- The end-to-end CRC of a packet: its header with hop zero, then its payload (R365). -/
def e2e (p : List Byte) : Nat := crc32c (setHop p 0)

/-- A packet with the CRC that its originator appends (R365). -/
def sealPkt (p : List Byte) : List Byte := p ++ leBytes 4 (e2e p)

/-- Put the whole bytes of a packet, its CRC among them, on a lane of a port: a forwarder neither checks nor alters the
CRC, and a packet that carries bad flits keeps them (R365, R367). -/
def passOn (s : State) (n lane : Nat) (bytes : List Byte) (bad : List Nat) : State :=
  let keep := if lane = 0 then [] else [({ lane := lane, lastSeq := none, bytes := bytes } : SentPkt)]
  pump (modPort s n fun q => { q with txq := q.txq ++ flitsOf lane bytes bad, sent := q.sent ++ keep }) n

/-- Put a packet that this module originates (header and payload) on a lane of a port, with its CRC. -/
def sendOn (s : State) (n lane : Nat) (p : List Byte) (bad : List Nat) : State := passOn s n lane (sealPkt p) bad

/-- A SCHED packet lost at a port: counted, flagged, reported (R339, R359, R366). -/
def schedDrop (s : State) (n : Nat) : State :=
  let s1 := setRegBit (bump s (Reg.FAB_PORT_DROP n) 32 32 1) Reg.FAB_ERR 4
  raiseIf (raiseAlarm s1 0x09 n) Reg.FAB_CTRL 0 0x0052 n

/-! ### Receive buffers (R355, R338) -/

/-- A CONTROL flit that acknowledges or NAKs a seq and returns tolls. -/
def controlFlit (seq : Nat) (nak : Bool) (tollLane tolls : Nat) : List Byte :=
  mkFlit 6 false false false 0 tollLane tolls (leBytes 2 seq ++ leBytes 1 (b2n nak))

/-- A CONTROL flit sent on a port. -/
def sendControl (s : State) (n seq : Nat) (nak : Bool) (tollLane tolls : Nat) : State :=
  emit (bump s (Reg.FAB_PORT_TX n) 0 64 1) (.flit n (controlFlit seq nak tollLane tolls))

/-- The flits of a lane's receive buffer that one packet may hold: half of it. DESIGN CHOICE: a packet of up to 35 flits
passes a lane of 16, so the tolls of its further flits return as they arrive, into the memory where the packet is put
together. -/
def packetHold (lane : Nat) : Nat := startTolls.getD lane 0 / 2

/-- A packet leaves a receive buffer: the tolls of its flits return to the sender (R355), beside the last acknowledged
seq. -/
def freeBuf (s : State) (port lane flits : Nat) : State :=
  if lane = 0 ∨ flits = 0 ∨ (portAt s port).state < 6 then s
  else sendControl s port (((portAt s port).rxSeq + 4095) % 4096) false lane flits

/-- The receive buffer that a waiting packet holds is freed. -/
def freeWait (s : State) (w : WaitPkt) : State :=
  match w.buf with | some b => freeBuf s b.1 b.2.1 b.2.2 | none => s

/-! ### Routing (R352 to R354, R356, R358, R362) -/

/-- Candidate ports of a route entry. -/
def candidates (e : Nat) : List Nat :=
  (List.range 4).filterMap fun k => if bitAt e (27 + k) then some (bitsOf e (23 - 4 * k) 4) else none

/-- The candidate with the most ADAPT tolls, the lowest port on a tie (R353). -/
def bestPort (s : State) (ps : List Nat) : Option Nat :=
  ps.foldl (fun (b : Option Nat) p =>
    let t := (portAt s p).tolls.getD 1 0
    if !portUp s p || t = 0 then b
    else match b with
      | none => some p
      | some q =>
        let u := (portAt s q).tolls.getD 1 0
        if u < t ∨ (u = t ∧ p < q) then some p else b) none

/-- The escape lane by which a packet leaves: ESC0, or ESC1 past a dateline; MG0 and MG1 in the same way. -/
def escapeLane (s : State) (port lane : Nat) : Nat :=
  if regBit s (Reg.FAB_PORT_CFG port) 3 then (if lane = 4 ∨ lane = 5 then 5 else 3) else if lane = 4 ∨ lane = 5 then lane else if lane = 3 then 3 else 2

/-- The answer to a request (Table 9.6): the kind of its response. -/
def respKind (kind : Nat) : Nat :=
  match kind with | 0x01 => 0x02 | 0x03 => 0x04 | 0x05 => 0x06 | _ => 0x13

/-- The port and lane by which a packet may leave now by its route entry: none where it must wait for a toll or a port,
no answer where the entry is not valid (R353, R354). -/
def routePort (s : State) (lane : Nat) (p : List Byte) : Option (Option (Nat × Nat)) :=
  let e := reg s (Reg.FAB_ROUTE (pkDest p))
  let esc := bitsOf e 7 4
  let l := escapeLane s esc lane
  if !bitAt e 31 then none
  else if lane = 1 then some ((bestPort s (candidates e)).map fun n => (n, 1))
  else if portUp s esc && (portAt s esc).tolls.getD l 0 != 0 then some (some (esc, l))
  else some none

/-- A packet waits for a toll or for a usable port (R353, R369). -/
def waitPkt (s : State) (w : WaitPkt) : State := { s with fab := { s.fab with waiting := s.fab.waiting ++ [w] } }

/-- Whether a MGMT packet must wait behind one of the same source and destination that already waits (R361). -/
def behind (s : State) (w : WaitPkt) : Bool :=
  decide (4 ≤ w.lane) && s.fab.waiting.any fun x =>
    decide (4 ≤ x.lane) && pkSrc x.bytes == pkSrc w.bytes && pkDest x.bytes == pkDest w.bytes

/-- A packet leaves by its route entry, and its receive buffer with it, or waits (R353, R354, R361, R369). Answers whether
the entry was valid. -/
def routePkt (s : State) (w : WaitPkt) : Bool × State :=
  match routePort s w.lane w.bytes with
  | none => (false, s)
  | some none => (true, waitPkt s w)
  | some (some o) => (true, if behind s w then waitPkt s w else freeWait (passOn s o.1 o.2 w.bytes []) w)

/-- Whether a module sends and accepts packets of a class: without a fabric ID only MGMT (R346). -/
def mayUse (s : State) (cls : Nat) : Bool := cls == 2 || selfAssigned s
/-- Whether it forwards packets of a class: only an ACTIVE module forwards more than MGMT (R346). -/
def classOpen (s : State) (cls : Nat) : Bool := cls == 2 || (selfAssigned s && fabState s == 2)

/-- A packet that this module originates with its own ID: SCHED and directed packets leave by the first port of
their route, others by the route entry. Answers false where no route exists. -/
def originate (s : State) (p : List Byte) : Bool × State :=
  let cls := pkClass p
  if !mayUse s cls then (false, s)
  else if cls = 0 then
    let n := pkRoute p % 16
    if (portAt s n).schedOk then (true, sendOn s n 0 p [])
    else (false, schedDrop s n)
  else if cls = 2 ∧ pkRoute p ≠ 0 then
    let n := pkRoute p % 16
    if 6 ≤ (portAt s n).state then (true, sendOn s n 4 p []) else (false, s)
  else routePkt s ⟨if cls = 2 then 4 else 1, sealPkt p, none⟩

/-- The far end of a link of the caravan map: its member and port. -/
def linkPeer (c : Caravan) (m port : Nat) : Option (Nat × Nat) :=
  c.links.findSome? fun l =>
    if l.1 = m ∧ l.2.1 = port then some l.2.2 else if l.2.2 = (m, port) then some (l.1, l.2.1) else none

/-- Follow `h` hops of a source route from position k at member m over the caravan map: the ports of arrival, the last
lowest, four bits each; none where the map has no such link. -/
def arrivalPorts (c : Caravan) (route : Nat) : Nat → Nat → Nat → Nat → Option Nat
  | 0, _, _, acc => some acc
  | h + 1, k, m, acc =>
    match linkPeer c m (bitsOf route (4 * k) 4) with
    | some e => arrivalPorts c route h (k + 1) e.1 (16 * acc + e.2)
    | none => none

/-- The ports of the reversed route beyond this module's own, where the caravan map tells them. -/
def backRoute (s : State) (p : List Byte) : Option Nat :=
  if pkHop p = 0 then some 0
  else match s.itn.caravan with
    | some c => arrivalPorts c (pkRoute p) (pkHop p) 0 (c.ids.findIdx fun x => x = pkSrc p) 0
    | none => none

/-- A response to a received packet. A response to a source-routed request returns on the reversed route: its first
port is the port of arrival; those of the modules beyond, which the request does not carry, come from the caravan map,
and are free where it does not have them. -/
def respond (s : State) (q : RxPkt) (status : Nat) (payload : List Byte) : State :=
  let p := q.bytes
  let routed := pkClass p = 0 ∨ (pkClass p = 2 ∧ pkRoute p ≠ 0)
  let fr := freeVal s
  let known := backRoute s p
  let far := known.getD (fr.1 % 2 ^ 60)
  let s1 := if routed ∧ known = none then fr.2 else s
  let route := if routed then q.port + 16 * far else 0
  let h := mkHeader (pkSrc p) (respKind (pkKind p)) (selfId s) (pkClass p) 0xFFFF (pkId p) route 0 status
    payload.length
  (originate s1 (h ++ payload)).2

/-- Respond without performing: an ATOMIC_RESP carries eight bytes that mean nothing, other kinds carry none. -/
def refusePkt (s : State) (q : RxPkt) (status : Nat) : State :=
  if pkKind q.bytes = 0x05 then
    let x := freeBytes s 8
    respond x.2 q status x.1
  else respond s q status []

/-! ### Receiving flits (R337 to R339, R366, R367) -/

/-- Whether a packet is for this module: a neighbour's HELLO or LEAVE, a TREE packet or one with its own ID where it has
one; a module without an ID takes every MGMT packet whose source route has no further hop. -/
def forMe (s : State) (q : RxPkt) : Bool :=
  let k := pkKind q.bytes
  k == 0x10 || k == 0x16 || (selfAssigned s && (k == 0x08 || pkDest q.bytes == selfId s)) ||
  (!selfAssigned s && pkClass q.bytes == 2 && pkRoute q.bytes / 16 ^ (pkHop q.bytes + 1) == 0)

/-- The payload byte ranges that bad flits carry. -/
def badRanges (bad : List Nat) : List (Nat × Nat) := bad.map fun i => (120 * i, 120 * i + 120)

/-- A whole packet has arrived. That of this module has its CRC checked and stripped; a SCHED packet with a bad flit is not
compared. One of an unlisted kind, or of a kind in a wrong class, is answered with REJECT. A packet for another module is
kept whole, its CRC and padding with it. -/
def deliverPkt (s : State) (n : Nat) (t : Partial) : State :=
  let len := t.bytes.length
  -- the last body is padded with zeros: the packet's own length field tells its end
  let pay := match pkKind t.bytes with
    | 0x01 => pkLen t.bytes | 0x04 => pkLen t.bytes | 0x05 => pkLen t.bytes | 0x06 => 8 | 0x08 => pkLen t.bytes
    | 0x10 => 64 | 0x12 => pkLen t.bytes | 0x13 => pkLen t.bytes | 0x14 => pkLen t.bytes | 0x15 => pkLen t.bytes | _ => 0
  let p := t.bytes.take (24 + pay)
  let crc := fieldAt t.bytes (24 + pay) 4
  let flits := min (len / 120) (packetHold t.lane)
  let q : RxPkt := ⟨n, t.lane, p, badRanges t.bad, flits⟩
  let pass : RxPkt := { q with bytes := t.bytes }
  let free := fun (s : State) => freeBuf s n t.lane flits
  if t.drop then schedDrop s n
  else if len < 28 then free s
  else if t.bad.isEmpty && forMe s q && crc != e2e p then
    let s1 := setRegBit (free s) Reg.FAB_ERR 3
    let s2 := raiseIf s1 Reg.FAB_CTRL 1 0x0051 n
    if t.lane = 0 then schedDrop s2 n else s2
  else if forMe s q && !kindClassOk (pkKind p) (pkClass p) then refusePkt (free s) q 3
  else { s with fab := { s.fab with inbox := s.fab.inbox ++ [if forMe s q then q else pass] } }

/-- A good or bad flit joins the packet of its lane; one that continues no packet here is discarded. -/
def joinFlit (s : State) (n lane : Nat) (first last bad drop : Bool) (body : List Byte) : State :=
  let p := portAt s n
  let old := p.part.find? fun t => t.lane = lane
  if !first && old.isNone then s else
  let t0 : Partial := match first, old with
    | false, some t => t
    | _, _ => { lane := lane, bytes := [], bad := [], drop := drop }
  let k := t0.bytes.length / 120
  let t := { t0 with bytes := t0.bytes ++ body, bad := if bad then t0.bad ++ [k] else t0.bad, drop := t0.drop || drop }
  let others := p.part.filter fun u => u.lane ≠ lane
  if last then deliverPkt (setPort s n { p with part := others }) n t
  else setPort s n { p with part := others ++ [t] }

/-- Tolls returned by a flit header. -/
def takeTolls (s : State) (n h : Nat) : State :=
  let lane := bitsOf h 11 3
  if lane = 0 ∨ 5 < lane then s
  else pump (modPort s n fun p => { p with tolls := p.tolls.modify lane (· + bitsOf h 3 8) }) n

/-- Whether seq a is at or before seq b, modulo 4,096. -/
def seqLe (a b : Nat) : Bool := decide ((b + 4096 - a) % 4096 < 2048)

/-- A CONTROL flit: its tolls are taken; an acknowledged seq frees the replay buffer up to it; a NAK replays from it
(R338). -/
def takeControl (s : State) (port seq : Nat) (nak : Bool) (h : Nat) : State :=
  let s2 := takeTolls s port h
  let p := portAt s2 port
  if nak then
    let again := p.replay.filter fun r => seqLe seq r.1
    let s3 := setPort s2 port { p with replay := again,
                                       sent := p.sent.filter fun q => match q.lastSeq with | some l => seqLe seq l | none => true }
    pump (again.foldl (fun s r => emit (bump s (Reg.FAB_PORT_TX port) 0 64 1) (.flit port r.2))
      (bump s3 (Reg.FAB_PORT_REPLAY port) 32 32 1)) port
  else
    let s3 := setPort s2 port { p with replay := p.replay.filter fun r => !seqLe r.1 seq,
                                       sent := p.sent.filter fun q => match q.lastSeq with | some l => !seqLe l seq | none => true }
    pump s3 port

/-- FLIT_RECEIVE: 128 bytes arrive on a port; `codeword` is false where the flit's codeword was uncorrectable, and
`symbols` the symbols that FEC corrected. -/
def execFlitReceive (port : Nat) (bytes : List Byte) (codeword : Bool) (symbols : Nat) (s : State) :
    Host.Outcome State Fault Refusal :=
  if 16 ≤ port ∨ (portAt s port).state < 6 then .next s
  else
    let b := padTo 128 bytes
    let h := fieldAt b 0 4
    let lane := bitsOf h 29 3
    let good := codeword && fieldAt b 124 4 == crc32 (b.take 124)
    let s1 := bump (bump s (Reg.FAB_PORT_RX port) 0 64 1) (Reg.FAB_PORT_FEC port) 32 32 symbols
    let s2 := if codeword then s1 else setRegBit (bump s1 (Reg.FAB_PORT_FEC port) 0 32 1) Reg.FAB_ERR 0
    let s3 := if good then s2 else bump s2 (Reg.FAB_PORT_REPLAY port) 0 32 1
    let body := (b.drop 4).take 120
    let first := bitAt h 28
    let last := bitAt h 27
    if lane = 0 then
      .next (joinFlit (if good then takeTolls s3 port h else s3) port 0 first last (!good || bitAt h 26) (!good && first) body)
    else if !good then
      -- a NAK asks for replay from the seq that this receiver expects
      .next (sendControl s3 port (portAt s3 port).rxSeq true 0 0)
    else if lane = 6 then .next (takeControl s3 port (bitsOf (fieldAt body 0 2) 0 12) (bitAt (fieldAt body 2 1) 0) h)
    else if lane = 7 then .next s3
    else
      let seq := bitsOf h 14 12
      -- a discarded flit comes again, and its tolls with it
      if seq ≠ (portAt s3 port).rxSeq then .next s3
      else
        let s5 := modPort (takeTolls s3 port h) port fun p => { p with rxSeq := (seq + 1) % 4096 }
        -- the packet holds its first flits' buffer until it goes on
        let k := if first then 0 else match (portAt s5 port).part.find? fun t => t.lane = lane with | some t => t.bytes.length / 120 | none => 0
        .next (joinFlit (sendControl s5 port seq false lane (if k < packetHold lane then 0 else 1)) port lane first last false false body)

/-- CONTROL_FLIT: a CONTROL flit arrives, given by its fields (R337, R338). -/
def execControlFlit (port : Nat) (seq : Nat) (nak : Bool) (tollLane tolls : Nat) (s : State) : Host.Outcome State Fault Refusal :=
  if 16 ≤ port ∨ (portAt s port).state < 6 then .next s
  else .next (takeControl (bump s (Reg.FAB_PORT_RX port) 0 64 1) port (seq % 4096) nak (tollLane % 8 * 2 ^ 11 + tolls % 256 * 2 ^ 3))

/-! ### Port training (Table 9.3, R340, R341) -/

/-- A notice to the fabric manager, where another module holds the claim (R341, R347). The record holds the event code, the
port and the state, eight bytes each: DESIGN CHOICE. -/
def noticeManager (s : State) (code inst : Nat) : State :=
  if !regBit s Reg.FAB_MANAGER 11 then s
  else
    let dest := regField s Reg.FAB_MANAGER 0 10
    if dest = selfId s then s else
    let pay := leBytes 8 code ++ leBytes 8 inst
    (originate s (mkHeader dest 0x14 (selfId s) 2 0xFFFF 0 0 0 0 16 ++ pay)).2

/-- A running or training port returns to DOWN: its packets are re-routed whole from their replay copies; MGMT packets
that follow a route entry wait with them, and those of the link itself or on a source route end; a SCHED packet that has
arrived in part is dropped (Table 9.12). -/
def portDown (s : State) (n : Nat) (failed : Bool) : State :=
  let p := portAt s n
  let again := p.sent.filter fun q => q.lane = 1 ∨ q.lane = 2 ∨ q.lane = 3
    ∨ (pkRoute q.bytes = 0 ∧ pkKind q.bytes ≠ 0x10 ∧ pkKind q.bytes ≠ 0x16)
  let s1 := setPort s n { FPort.reset with failed := failed }
  let clear := fun (w : WaitPkt) => match w.buf with | some b => if b.1 = n then { w with buf := none } else w | none => w
  let s1 := { s1 with fab := { s1.fab with inbox := s1.fab.inbox.map fun q => if q.port = n then { q with flits := 0 } else q,
                                           waiting := s1.fab.waiting.map clear } }
  let s2 := again.foldl (fun s q => (routePkt s ⟨q.lane, q.bytes, none⟩).2) s1
  let s2 := if p.part.any (·.lane == 0) then schedDrop s2 n else s2
  let s3 := raiseIf (setRegBit s2 Reg.FAB_ERR 1) Reg.FAB_CTRL 2 0x0050 n
  noticeManager s3 0x0050 n

/-- A LEAVE packet to a port's peer. -/
def sendLeave (s : State) (n : Nat) : State :=
  sendOn s n 4 (mkHeader (portAt s n).peerId 0x16 (selfId s) 2 0xFFFF 0 n 0 0 0) []

/-- PORT_ENABLE: a write of FAB_PORT_CFG_n; enable starts training, 0 sends LEAVE and takes the port DOWN. -/
def writePortCfg (s : State) (n v : Nat) : State :=
  let s1 := plainWrite s (Reg.FAB_PORT_CFG n) v
  let p := portAt s1 n
  if bitAt v 0 then
    if p.state = 0 ∧ p.failed = false then modPort s1 n fun p => { p with state := 1 } else s1
  else if p.state = 0 then s1
  else portDown (if p.state = 7 ∨ p.state = 8 then sendLeave s1 n else s1) n false
/-- PORT_ENABLE. -/
def execPortEnable (port : Nat) (v : W64) (s : State) : Host.Outcome State Fault Refusal :=
  if 16 ≤ port then .next s else .next (writePortCfg s port v.toNat)

/-- TRAIN_RETRY: one second after a failed attempt. -/
def execTrainRetry (port : Nat) (s : State) : Host.Outcome State Fault Refusal :=
  if port < 16 ∧ (portAt s port).state = 0 ∧ regBit s (Reg.FAB_PORT_CFG port) 0 = true then
    .next (modPort s port fun p => { p with state := 1, failed := false })
  else .next s

/-- A training state is left for the next one. -/
def trainStep (s : State) (port from_ : Nat) (f : FPort → FPort) : State :=
  if (portAt s port).state = from_ then modPort s port f else s

/-- DETECT: a bell-lane peer is detected. -/
def execDetect (port : Nat) (s : State) : Host.Outcome State Fault Refusal :=
  .next (trainStep s port 1 fun p => { p with state := 2 })
/-- BELL_SYNC: 64 consecutive frames have passed their check. -/
def execBellSync (port : Nat) (s : State) : Host.Outcome State Fault Refusal :=
  .next (trainStep s port 2 fun p => { p with state := 3, bellOk := true })
/-- The lanes in use: all eight, else whichever half is whole (R335). -/
def lanesInUse (ok : Nat) : Nat := if ok % 256 = 0xFF then 0xFF else if ok % 16 = 0xF then 0x0F else if ok / 16 % 16 = 0xF then 0xF0 else 0
/-- EQUALIZE: each lane has equalised or is marked failed; `ok` has a bit for each good lane. -/
def execEqualize (port ok : Nat) (s : State) : Host.Outcome State Fault Refusal :=
  if lanesInUse ok = 0 then .next s
  else .next (trainStep s port 3 fun p => { p with state := 4, lanes := lanesInUse ok })
/-- ALIGN: lock has held for 1,024 codewords; `skew` is the largest lane skew in ps. -/
def execAlign (port skew : Nat) (s : State) : Host.Outcome State Fault Refusal :=
  if (portAt s port).state = 4 then
    .next (setField (modPort s port fun p => { p with state := 5 }) (Reg.FAB_PORT_DELAY port) 16 16 skew)
  else .next s
/-- DELAY: 16 measurements agree; the one-way delay is recorded in units of 100 ps (R340). -/
def execDelay (port delay : Nat) (s : State) : Host.Outcome State Fault Refusal :=
  if (portAt s port).state = 5 then
    .next (setField (modPort s port fun p => { p with state := 6, tolls := startTolls }) (Reg.FAB_PORT_DELAY port) 0 16 delay)
  else .next s
/-- TRAINING_TIMEOUT: training has not reached UP or DEGRADED within 50 ms. -/
def execTrainingTimeout (port : Nat) (s : State) : Host.Outcome State Fault Refusal :=
  let st := (portAt s port).state
  if 1 ≤ st ∧ st ≤ 6 then .next (portDown s port true) else .next s
/-- LINK_LOSS: a running port loses lock, codewords or bell frames. -/
def execLinkLoss (port : Nat) (s : State) : Host.Outcome State Fault Refusal :=
  if portUp s port then .next (portDown s port false) else .next s

/-- The module's serial number, from the configuration blob (Table 17.3). -/
def serialNumber (s : State) : Nat := fieldAt s.sec.blob 0x10 8

/-- The HELLO record (Table 9.4). -/
def helloRecord (s : State) (port : Nat) : List Byte :=
  let man := reg s Reg.FAB_MANAGER
  leBytes 8 (serialNumber s) ++ leBytes 2 (match s.variant with | .pm960 => 0x0960 | .pm480 => 0x0480)
    ++ leBytes 1 port ++ leBytes 1 (b2n (selfAssigned s) + 2 * b2n (bitAt man 11))
    ++ leBytes 2 (selfId s) ++ leBytes 2 (bitsOf man 0 10) ++ leBytes 4 (bitsOf man 32 32) ++ leBytes 2 (fabState s)
    ++ List.replicate 42 0

/-- HELLO_TIMER: a port in HELLO, UP or DEGRADED sends MGMT_HELLO on MG0 (R344). -/
def execHelloTimer (port : Nat) (s : State) : Host.Outcome State Fault Refusal :=
  if port < 16 ∧ 6 ≤ (portAt s port).state then
    .next (sendOn s port 4 (mkHeader (portAt s port).peerId 0x10 (selfId s) 2 0xFFFF 0 port 0 0 64 ++ helloRecord s port) [])
  else .next s

/-! ### Forwarding (R346, R353, R356, R362, R370) -/

/-- A packet taken out of the inbox. -/
def unbox (s : State) (q : RxPkt) : State := { s with fab := { s.fab with inbox := s.fab.inbox.erase q } }

/-- Take the oldest packet that satisfies a condition out of the inbox; its receive buffer is free again. -/
def takePkt (s : State) (f : RxPkt → Bool) : Option (RxPkt × State) :=
  match s.fab.inbox.find? f with
  | some q => some (q, freeBuf (unbox s q) q.port q.lane q.flits)
  | none => none

/-- The numbers of the bad flits of a received packet. -/
def badFlits (q : RxPkt) : List Nat := q.bad.map fun r => r.1 / 120

/-- The port by which a source-routed packet goes on. -/
def nextPort (p : List Byte) : Nat := bitsOf (pkRoute p) (4 * (pkHop p + 1)) 4

/-- Whether a packet is a directed MGMT packet whose next port is running and grants it no toll: it waits in its receive
buffer (R355). -/
def tollBound (s : State) (q : RxPkt) : Bool :=
  let p := portAt s (nextPort q.bytes)
  pkClass q.bytes == 2 && pkRoute q.bytes != 0 && decide (6 ≤ p.state) && p.tolls.getD q.lane 0 == 0

/-- Forward one packet that has left the inbox and still holds its receive buffer. -/
def forwardPkt (s : State) (q : RxPkt) : State :=
  let p := q.bytes
  let next := setHop p (min 15 (pkHop p + 1))
  let out := nextPort p
  let w : WaitPkt := ⟨q.lane, next, some (q.port, q.lane, q.flits)⟩
  if pkClass p = 0 then
    if classOpen s 0 && (portAt s out).schedOk then passOn s out 0 next (badFlits q) else schedDrop s out
  else if pkClass p = 2 ∧ pkRoute p ≠ 0 then
    freeWait (if 6 ≤ (portAt s out).state then passOn s out q.lane next [] else s) w
  else if !classOpen s (pkClass p) then waitPkt s w
  else
    let r := routePkt s w
    if r.1 then r.2 else setRegBit (refusePkt (freeWait s w) q 4) Reg.FAB_ERR 6

/-- A waiting packet tries again; one of another module waits on while this module does not forward its class. -/
def retryWaiting (s : State) (w : WaitPkt) : State :=
  if pkSrc w.bytes = selfId s ∨ classOpen s (pkClass w.bytes) = true then (routePkt s w).2 else waitPkt s w

/-- FORWARD: the oldest packet that arrived on a port for another module is forwarded; where there is none, packets
that wait for a toll or a port try again. A module in FAULT, DORMANT or OFF forwards nothing (R368). -/
def execFabForward (port : Nat) (s : State) : Host.Outcome State Fault Refusal :=
  if s.flt.fault.isSome || decide (3 ≤ regField s Reg.PWR_STATE 5 3) then .next s
  else match s.fab.inbox.find? fun q => q.port == port && !forMe s q && !tollBound s q with
  | some q => .next (forwardPkt (unbox s q) q)
  | none =>
    .next (s.fab.waiting.foldl retryWaiting { s with fab := { s.fab with waiting := [] } })

/-- ESCAPE_TIMEOUT: no candidate has held a toll for 1 microsecond; the oldest such packet moves to the escape lanes
and leaves by the escape port (R353). -/
def execEscapeTimeout (s : State) : Host.Outcome State Fault Refusal :=
  let open_ := fun (w : WaitPkt) => pkSrc w.bytes == selfId s || classOpen s (pkClass w.bytes)
  match s.fab.waiting.find? fun w => w.lane == 1 && open_ w with
  | none => .next s
  | some w => .next (routePkt { s with fab := { s.fab with waiting := s.fab.waiting.erase w } } { w with lane := 2 }).2

/-- The outcome of a request of this module. -/
def finishReq (s : State) (r : OutReq) (status : Nat) (data : List Byte) : State :=
  { s with fab := { s.fab with reqs := s.fab.reqs.erase r, results := s.fab.results ++ [⟨r.id, r.kind, status, data, r.owner⟩] } }

/-- The answer UNREACHABLE to a packet that cannot go on: to its sender, or to the engine of this module that issued
it. -/
def unreachable (s : State) (p : List Byte) : State :=
  let s1 := setRegBit s Reg.FAB_ERR 6
  if pkSrc p = selfId s then
    match s1.fab.reqs.find? fun r => r.id = pkId p with
    | some r => finishReq s1 r 4 []
    | none => s1
  else
    (refusePkt s1 ⟨0, 0, p, [], 0⟩ 4)

/-- ROUTE_WAIT_TIMEOUT: no usable port has appeared within 1 ms for the oldest waiting packet whose entry has none
(R370). -/
def execRouteWaitTimeout (s : State) : Host.Outcome State Fault Refusal :=
  let dead := fun (w : WaitPkt) =>
    let e := reg s (Reg.FAB_ROUTE (pkDest w.bytes))
    (!((candidates e).any (portUp s)) && !portUp s (bitsOf e 7 4)) || (pkSrc w.bytes != selfId s && !classOpen s (pkClass w.bytes))
  match s.fab.waiting.find? dead with
  | none => .next s
  | some w => .next (unreachable (freeWait { s with fab := { s.fab with waiting := s.fab.waiting.erase w } } w) w.bytes)

/-! ### Requests of this module (R360) -/

/-- Send a request and keep it until its response; answers its identifier. A request with no valid route entry is
answered UNREACHABLE at once (R354). -/
def sendReq (s : State) (dest kind cls route dpa op len : Nat) (payload : List Byte) (owner : Nat) : Nat × State :=
  let id := s.fab.nextId % 65536
  let p := mkHeader dest kind (selfId s) cls 0xFFFF id route dpa op len ++ payload
  let r : OutReq := ⟨id, kind, dest, p, 0, owner⟩
  let s1 := { s with fab := { s.fab with nextId := (id + 1) % 65536, reqs := s.fab.reqs ++ [r] } }
  let o := originate s1 p
  (id, if o.1 then o.2 else finishReq (setRegBit o.2 Reg.FAB_ERR 6) r 4 [])

/-- BULK_RESPONSE_TIMEOUT: a request is unanswered for 1 ms. A READ or WRITE is sent again up to 3 times; after the
last, or for an ATOMIC, it is reported as failed. -/
def execBulkResponseTimeout (id : Nat) (s : State) : Host.Outcome State Fault Refusal :=
  match s.fab.reqs.find? fun r => r.id = id with
  | none => .next s
  | some r =>
    if (r.kind = 0x01 ∨ r.kind = 0x03) ∧ r.tries < 3 then
      let more := fun (x : OutReq) => if x.id = id then { x with tries := x.tries + 1 } else x
      .next (originate { s with fab := { s.fab with reqs := s.fab.reqs.map more } } r.bytes).2
    else .next (finishReq s r 0xFF [])

/-- A response ends the request whose identifier it carries. -/
def takeResp (s : State) (q : RxPkt) : State :=
  match s.fab.reqs.find? fun r => r.id = pkId q.bytes with
  | some r => finishReq s r (pkOp q.bytes) (pkPayload q.bytes)
  | none => s

/-! ### Packets performed here (R348, R350, R356 to R358, R367) -/

/-- Whether a remote access to a range is refused (R348). -/
def remoteRefused (s : State) (dpa n : Nat) : Bool :=
  !memRange s dpa n ||
  (s.itn.len != 0 && overlaps dpa n (s.itn.base * 65536) (s.itn.len * 65536))

/-- Whether a BULK request from a fabric ID is permitted (R350). -/
def permitted (s : State) (id : Nat) : Bool := regBit s (Reg.FAB_PERMIT (id / 64)) (id % 64)

/-- Whether a SCHED packet comes from a member of this caravan. -/
def fromMember (s : State) (id : Nat) : Bool :=
  match s.itn.caravan with | some c => c.ids.contains id | none => false

/-- Whether R350 refuses a packet: a BULK one, or a SCHED one from outside the caravan, whose sender's permit bit is 0. -/
def refusedSender (s : State) (p : List Byte) : Bool :=
  (pkClass p == 1 || !fromMember s (pkSrc p)) && !permitted s (pkSrc p)

/-- The poison of a payload byte: the packet's poison bit, or a bad flit under its 8-byte word (R367, R616). -/
def payPoison (q : RxPkt) (i : Nat) : Bool :=
  let w := i / 8 * 8 + 24
  (pkKind q.bytes == 0x01 && bitAt (pkOp q.bytes) 2) || q.bad.any fun r => decide (r.1 < w + 8) && decide (w < r.2)

/-- The member index of a packet's source. -/
def senderOf (s : State) (p : List Byte) : Nat :=
  match s.itn.caravan with | some c => c.ids.findIdx fun x => x = pkSrc p | none => 0

/-- The first reception of the plan from a sender with a tag that has not yet ended: its item and its bytes. -/
def reception (s : State) (sender tag : Nat) : Option (Item × Nat) :=
  (itinItems s).findSome? fun i => match i.work with
    | .recv m t n => if m == sender && t == tag && i.variant == s.itn.variant && !s.itn.done.contains i.id then some (i, n) else none
    | .orecv m t n _ => if m == sender && t == tag && i.variant == s.itn.variant && !s.itn.done.contains i.id then some (i, n) else none
    | _ => none

/-- A SCHED transfer's bytes are performed here: the reception counts toward its item (Table 8.3) and its ARRIVAL
waystation (R318). -/
def noteTransfer (s : State) (q : RxPkt) (n : Nat) : State :=
  let p := q.bytes
  let tag := pkWay p * 65536 + pkId p
  let sender := senderOf s p
  let key := sender * 2 ^ 32 + tag
  let got := mgetD 0 s.fab.recvd key + n
  match reception s sender tag with
  | some (i, total) =>
    if got < total then { s with fab := { s.fab with recvd := mset s.fab.recvd key got } }
    else
      let s1 := itemDone { s with fab := { s.fab with recvd := mdel s.fab.recvd key } } (some i.id)
      if pkWay p = 0xFFFF then s1 else { s1 with itn := { s1.itn with tagged := s1.itn.tagged ++ [(pkWay p, sender, s.bell)] } }
  | none => { s with fab := { s.fab with recvd := mset s.fab.recvd key got } }

/-- The hint of a packet's write. -/
def payHint (p : List Byte) : Hint :=
  if pkKind p = 0x08 then .normal
  else match bitsOf (pkOp p) 0 2 with | 0 => .normal | 1 => .stream | 2 => .keep | _ => .last

/-- Perform a write of a packet's payload with its hint. -/
def performWrite (s : State) (q : RxPkt) : State :=
  let bs := (pkPayload q.bytes).mapIdx fun i b => (⟨b, payPoison q i⟩ : PByte)
  let s1 := writeMem s 0 (256 + pkSrc q.bytes) (payHint q.bytes) (pkDpa q.bytes) bs
  if q.bad.isEmpty then s1 else bump s1 (Reg.FAB_PORT_DROP q.port) 0 32 1

/-- The flow within which a packet is performed in order, in which it arrived: the SCHED transfers of one module (R273),
and the MGMT packets of one module on one port (R361). -/
def flowOf (q : RxPkt) : Option (Nat × Nat × Nat) :=
  let k := pkKind q.bytes
  if pkClass q.bytes = 0 ∧ (k = 0x01 ∨ k = 0x08) then some (0, pkSrc q.bytes, 0)
  else if pkClass q.bytes = 2 then some (2, pkSrc q.bytes, q.port) else none

/-- Whether a packet's turn has come within its flow. -/
def inTurn (s : State) (q : RxPkt) : Bool :=
  (flowOf q).isNone || (s.fab.inbox.find? fun x => forMe s x && flowOf x == flowOf q) == some q

/-- The oldest packet of a kind that arrived on a port for this module, in its turn. -/
def myPkt (s : State) (port kind : Nat) : Option (RxPkt × State) :=
  takePkt s fun q => q.port == port && pkKind q.bytes == kind && forMe s q && inTurn s q

/-- The oldest write of a kind that arrived on a port for this module and may be performed now: in its turn, and not
while a stack that holds writes would keep it back, so that it is acknowledged once performed (R199, R273, R275). -/
def myWrite (s : State) (port kind : Nat) : Option (RxPkt × State) :=
  takePkt s fun q => q.port == port && pkKind q.bytes == kind && forMe s q && inTurn s q
    && !rangeWaits s (256 + pkSrc q.bytes) (payHint q.bytes) (pkDpa q.bytes) (pkPayload q.bytes).length

/-- WRITE: performed and answered with WACK (R356, R360). -/
def execFabWrite (port : Nat) (s : State) : Host.Outcome State Fault Refusal :=
  match myWrite s port 0x01 with
  | none => .next s
  | some (q, s1) =>
    let p := q.bytes
    let n := (pkPayload p).length
    if refusedSender s1 p then .next (respond (setRegBit s1 Reg.FAB_ERR 7) q 3 [])
    else if remoteRefused s1 (pkDpa p) n then .next (respond s1 q 3 [])
    else
      let ret := rangeRetired s1 (pkDpa p) n
      let s2 := performWrite s1 q
      let s3 := if pkClass p = 0 then noteTransfer s2 q n else s2
      .next (respond s3 q (if ret then 2 else 0) [])

/-- WACK: a SCHED transfer, or a BULK write of this module, is acknowledged. -/
def execFabWack (port : Nat) (s : State) : Host.Outcome State Fault Refusal :=
  match myPkt s port 0x02 with
  | none => .next s
  | some (q, s1) =>
    if pkClass q.bytes = 0 then .next { s1 with itn := { s1.itn with schedOut := s1.itn.schedOut.erase (pkId q.bytes) } }
    else .next (takeResp s1 q)

/-- READ: answered with READ_RESP of the requested length. -/
def execFabRead (port : Nat) (s : State) : Host.Outcome State Fault Refusal :=
  match myPkt s port 0x03 with
  | none => .next s
  | some (q, s1) =>
    let p := q.bytes
    let n := min (pkLen p) 4096
    if !permitted s1 (pkSrc p) then .next (refusePkt (setRegBit s1 Reg.FAB_ERR 7) q 3)
    else if remoteRefused s1 (pkDpa p) n then .next (refusePkt s1 q 3)
    else
      let ret := rangeRetired s1 (pkDpa p) n
      let r := readMem s1 0 .stream (pkDpa p) n
      let st := if ret then 2 else if r.1.any (·.poison) then 1 else 0
      .next (respond r.2 q st (r.1.map (·.b)))

/-- READ_RESP: data for the issuing engine. -/
def execFabReadResp (port : Nat) (s : State) : Host.Outcome State Fault Refusal :=
  match myPkt s port 0x04 with
  | none => .next s
  | some (q, s1) => .next (takeResp s1 q)

/-- ATOMIC: a remote atomic joins the queue of its home slice with issuer index 256 + its fabric ID (R156, R157); while
the queue is full it waits in its receive buffer. -/
def execFabAtomic (port : Nat) (s : State) : Host.Outcome State Fault Refusal :=
  match s.fab.inbox.find? fun q => q.port == port && pkKind q.bytes == 0x05 && forMe s q && inTurn s q with
  | none => .next s
  | some q =>
    let p := q.bytes
    let dpa := pkDpa p / 8 * 8
    let s1 := freeBuf (unbox s q) q.port q.lane q.flits
    if !permitted s1 (pkSrc p) then .next (refusePkt (setRegBit s1 Reg.FAB_ERR 7) q 3)
    else if remoteRefused s1 dpa 8 ∨ aopOk (pkOp p) = false then .next (refusePkt s1 q 3)
    else
      let sl := homeSlice s1 dpa
      let r : AtomReq := { slice := sl, issuer := 256 + pkSrc p, slot := none, aop := pkOp p, dpa := dpa,
                           x := BitVec.ofNat 64 (fieldAt p 24 8), y := BitVec.ofNat 64 (fieldAt p 32 8), keep := false,
                           poison := payPoison q 0, who := .remote (pkSrc p) (pkId p) q.port }
      match enqueueAtomic s1 r with
      | some s2 => .next s2
      | none => .next (bumpSlice s Reg.SCD_BP sl 1)

/-- The old value of an atomic goes to the one who awaits it: to a remote module in an ATOMIC_RESP, whose status tells
poison; a slice in FAULT answers with bytes that mean nothing (R143, R157). -/
def answerAtomic (s : State) (q : AtomReq) (v : PWord) (fault : Bool) : State :=
  match q.who with
  | .remote src id port =>
    let r : RxPkt := ⟨port, 1, mkHeader (selfId s) 0x05 src 1 0xFFFF id 0 0 0 8, [], 0⟩
    if fault then refusePkt s r 1 else respond s r (if v.poison then 1 else 0) (leBytes 8 v.w.toNat)
  | w => deliver s w q.issuer q.dpa ((leBytes 8 v.w.toNat).map fun b => ⟨b, v.poison⟩)

/-- ATOMIC_PERFORM: a slice's unit performs the queued atomic whose turn it is, and its old value returns (R25, R152 to
R156). -/
def execAtomicPerform (slice : Nat) (s : State) : Host.Outcome State Fault Refusal :=
  match nextAtomic s slice with
  | none => .next s
  | some (q, rank) =>
    let r := takeAtomic s slice q rank
    .next (answerAtomic r.2 q r.1 (sliceFault s slice))

/-- ATOMIC_RESP: the old value for the issuer. -/
def execFabAtomicResp (port : Nat) (s : State) : Host.Outcome State Fault Refusal :=
  match myPkt s port 0x06 with
  | none => .next s
  | some (q, s1) => .next (takeResp s1 q)

/-- The child ports of this member. -/
def childPorts (s : State) : List Nat := (List.range 16).filter fun n => regField s (Reg.FAB_PORT_CFG n) 1 2 = 2

/-- A field of a slot-table entry (Table 9.10): `n` bits from bit `lo` of byte `o`. -/
def slotF (e : BitVec 384) (o lo n : Nat) : Nat := bitsOf e.toNat (8 * o + lo) n
/-- Whether a TREE packet is one of the manifest slot, by its tag. -/
def ofManifest (s : State) (p : List Byte) : Bool :=
  match s.itn.image with | some g => g.slot != 0 && fieldAt p 4 4 == slotF g.slot 12 0 32 | none => false

/-- TREE: performed at dst_dpa and forwarded on every child port (R358). -/
def execFabTree (port : Nat) (s : State) : Host.Outcome State Fault Refusal :=
  match myWrite s port 0x08 with
  | none => .next s
  | some (q, s1) =>
    let n := (pkPayload q.bytes).length
    let s2 := (childPorts s1).foldl (fun s c =>
      if (portAt s c).schedOk then sendOn s c 0 (setHop q.bytes (min 15 (pkHop q.bytes + 1))) (badFlits q) else schedDrop s c) s1
    if refusedSender s2 q.bytes then .next (setRegBit s2 Reg.FAB_ERR 7)
    else if remoteRefused s2 (pkDpa q.bytes) n then .next s2
    else
      let s3 := if ofManifest s2 q.bytes then { s2 with fab := { s2.fab with tree := s2.fab.tree ++ [pkPayload q.bytes] } } else s2
      .next (noteTransfer (performWrite s3 q) q n)

/-! ### Management packets (R342 to R347) -/

/-- MGMT_HELLO: the peer is recorded; a port in HELLO comes UP, or DEGRADED on half its lanes (R340, R344, R347). -/
def execMgmtHello (port : Nat) (s : State) : Host.Outcome State Fault Refusal :=
  match myPkt s port 0x10 with
  | none => .next s
  | some (q, s1) =>
    let pay := pkPayload q.bytes
    let p := portAt s1 port
    let up := if p.lanes = 0xFF then 7 else 8
    let fresh := p.state = 6
    let ok := decide (up = 7) && decide (regField s1 (Reg.FAB_PORT_DELAY port) 0 16 ≤ 600)
    let s2 := setPort s1 port { p with peerPort := fieldAt pay 10 1 % 16, peerId := fieldAt pay 12 2 % 1024, peerValid := true,
                                       state := if fresh then up else p.state, schedOk := if fresh then ok else p.schedOk }
    if fresh ∧ bitAt (fieldAt pay 11 1) 1 = false then .next (noticeManager s2 0x0050 port) else .next s2

/-- The FAB_ register at an offset, as MGMT_READ sees it; the HELLO record lies at offset 0xFFC0 (DESIGN CHOICE). -/
def mgmtBytes (s : State) (off n : Nat) (port : Nat) : List Byte :=
  (List.range n).map fun i =>
    let o := off + i
    if 0xFFC0 ≤ o then (helloRecord s port).getD (o - 0xFFC0) 0
    else
      let a := Reg.FAB_ID + o / 8 * 8
      BitVec.ofNat 8 (bitsOf ((fabView s a).getD (reg s a)) (8 * (o % 8)) 8)

/-- MGMT_READ: any FAB_ register, at the offset in the dpa field (DESIGN CHOICE), or the HELLO record. -/
def execMgmtRead (port : Nat) (s : State) : Host.Outcome State Fault Refusal :=
  match myPkt s port 0x11 with
  | none => .next s
  | some (q, s1) => .next (respond s1 q 0 (mgmtBytes s1 (pkDpa q.bytes) (min (pkLen q.bytes) 4096) port))

/-- Whether R343 lets a manager write a FAB_ offset. -/
def mgmtWritable (o : Nat) : Bool :=
  o % 8 == 0 && (o == 0x10 || o == 0x28 || o == 0x30 || o == 0x18 ||
    (decide (0x100 ≤ o) && decide (o < 0x500) && o % 0x40 == 8) ||
    (decide (0x1000 ≤ o) && decide (o < 0x3000)) || (decide (0x3000 ≤ o) && decide (o < 0x3080)))

/-- Perform a manager's write of a field named in R343: the dateline of a port, the state of FAB_STATUS, or the
defined fields of the register. -/
def mgmtPut (s : State) (o v : Nat) : State :=
  let a := Reg.FAB_ID + o
  if o = 0x18 then setField s a 12 4 (bitsOf v 12 4)
  else if 0x100 ≤ o ∧ o < 0x500 then setField s a 3 1 (bitsOf v 3 1)
  else match regAt a with
    | some d => setReg s a (v &&& d.defined)
    | none => s

/-- MGMT_WRITE: (offset, value) pairs of 16 bytes (DESIGN CHOICE), accepted whole from the claimed manager for the
fields of R343, else answered with REJECT. -/
def execMgmtWrite (port : Nat) (s : State) : Host.Outcome State Fault Refusal :=
  match myPkt s port 0x12 with
  | none => .next s
  | some (q, s1) =>
    let pay := pkPayload q.bytes
    let ws := (List.range (pay.length / 16)).map fun i => (fieldAt pay (16 * i) 8, fieldAt pay (16 * i + 8) 8)
    let ok := regBit s1 Reg.FAB_MANAGER 11 && pkSrc q.bytes == regField s1 Reg.FAB_MANAGER 0 10 && ws.all fun w => mgmtWritable w.1
    if ok then .next (respond (ws.foldl (fun s w => mgmtPut s w.1 w.2) s1) q 0 []) else .next (refusePkt s1 q 3)

/-- MGMT_RESP: a response to this module's management request (R361). -/
def execMgmtResp (port : Nat) (s : State) : Host.Outcome State Fault Refusal :=
  match myPkt s port 0x13 with
  | none => .next s
  | some (q, s1) => .next (takeResp s1 q)

/-- MGMT_NOTICE: an event record reaches the manager, or the lead of a caravan: a quarantine notice names a member's
granule (R620). -/
def execMgmtNotice (port : Nat) (s : State) : Host.Outcome State Fault Refusal :=
  match myPkt s port 0x14 with
  | none => .next s
  | some (q, s1) =>
    let pay := pkPayload q.bytes
    let code := fieldAt pay 0 8
    let inst := fieldAt pay 8 8
    match s1.itn.caravan with
    | some c =>
      if c.index = 0 ∧ (code = 0xE2 ∨ code = 0xE3) then
        let m := c.ids.findIdx fun x => x = pkSrc q.bytes
        let e := (m, inst)
        let l := s1.flt.caravan
        .next { s1 with flt := { s1.flt with caravan := if code = 0xE2 then (if l.contains e then l else l ++ [e]) else l.erase e } }
      else .next (raiseEvent s1 0x0050 inst)
    | none => .next (raiseEvent s1 0x0050 inst)

/-- MGMT_CLAIM: payload epoch (4 bytes) and serial number (8 bytes at offset 8); accepted under R342. -/
def execMgmtClaim (port : Nat) (s : State) : Host.Outcome State Fault Refusal :=
  match myPkt s port 0x15 with
  | none => .next s
  | some (q, s1) =>
    let epoch := fieldAt (pkPayload q.bytes) 0 4
    let serial := fieldAt (pkPayload q.bytes) 8 8
    let man := reg s1 Reg.FAB_MANAGER
    let ok := !bitAt man 11 || decide (bitsOf man 32 32 < epoch) || (epoch == bitsOf man 32 32 && decide (serial < s1.fab.claimSerial))
    if ok then
      let s2 := setReg s1 Reg.FAB_MANAGER (epoch * 2 ^ 32 + 2 ^ 11 + pkSrc q.bytes)
      .next (respond { s2 with fab := { s2.fab with claimSerial := serial } } q 0 [])
    else .next (refusePkt s1 q 3)

/-- LEAVE: the peer leaves and the port returns to DOWN (R341). -/
def execFabLeave (port : Nat) (s : State) : Host.Outcome State Fault Refusal :=
  match myPkt s port 0x16 with
  | none => .next s
  | some (q, s1) => if portUp s1 q.port then .next (portDown s1 q.port false) else .next s1

/-- Zero every per-port count (FAB_CTRL.clr_counters). -/
def clearFab (s : State) : State :=
  loopN 16 s fun n s => zeroRegs s [Reg.FAB_PORT_FEC n, Reg.FAB_PORT_REPLAY n, Reg.FAB_PORT_TX n, Reg.FAB_PORT_RX n, Reg.FAB_PORT_DROP n]
/-- A write of FAB_CTRL. -/
def writeFabCtrl (s : State) (v : Nat) : State :=
  let s1 := plainWrite s Reg.FAB_CTRL v
  if bitAt v 7 then clearFab s1 else s1
/-- FAB_CLR_COUNTERS: a write of FAB_CTRL with clr_counters set. -/
def execFabClrCounters (v : W64) (s : State) : Host.Outcome State Fault Refusal := .next (writeFabCtrl s (v ||| 0x80).toNat)

end Sys2Proof.Machine
end

