-- ==== Sys2Proof/Machine/Commands.lean ====
section
/-!
DEFINITION. How a command packet begins and completes (chapter 12): the order of checks, legality, result windows,
deadlines, barriers, and what a command reads of host memory.
-/
namespace Sys2Proof.Machine

/-! ### Parameters (R457, Table 12.4) -/

/-- Bits of the parameter field of a packet: `w` bits from bit `lo` of the word at byte offset `o`. -/
def prm (p : Packet) (o lo w : Nat) : Nat := bitsOf p.params.toNat (8 * o + lo) w

/-- The mask of `w` parameter bits from bit `lo` of the word at byte offset `o`. -/
def pBits (o lo w : Nat) : Nat := (2 ^ w - 1) * 2 ^ (8 * o + lo)

/-- The parameter bits that an opcode uses; the others are reserved (Table 12.1, Table 12.4). The widths of
addresses, lengths, block numbers and selectors that the table does not give are those of the gap to the next field. -/
def usedParams (op : Nat) (p : Packet) : Nat :=
  match op with
  | 0x0105 => pBits 0 0 4
  | 0x0106 => pBits 0 0 4 + pBits 4 0 32
  | 0x0109 => pBits 0 0 1 + pBits 0 8 8 + pBits 0 16 12 + pBits 4 0 (if prm p 0 0 1 = 0 then 8 else 11) + pBits 8 0 64
      + pBits 16 0 7
  | 0x010A => pBits 0 0 1 + pBits 0 8 8
  | 0x010B => pBits 0 0 4
  | 0x010C => pBits 0 0 8
  | 0x010D => pBits 0 0 4 + pBits 0 8 1
  | 0x010E => pBits 0 0 8 + pBits 4 0 1
  | 0x010F => pBits 0 0 8
  | 0x0110 => pBits 0 0 8 + pBits 4 0 8
  | 0x0201 => pBits 0 0 64 + pBits 8 0 16
  | 0x0202 => pBits 0 0 192
  | 0x0203 => pBits 0 0 4 + pBits 8 0 64
  | 0x0204 => pBits 0 0 2 + pBits 8 0 64
  | 0x0207 => pBits 0 0 192
  | 0x0208 => pBits 0 0 64
  | 0x0301 => pBits 0 0 64 + pBits 8 0 1
  | 0x0303 => pBits 0 0 32
  | 0x0304 => pBits 0 0 10 + pBits 4 0 32 + pBits 8 0 64
  | 0x0401 => pBits 0 0 64
  | 0x0402 => pBits 0 0 17 + pBits 4 0 32 + pBits 8 0 128
  | 0x0403 => pBits 0 0 17 + pBits 4 0 1 + pBits 8 0 64
  | 0x0404 => pBits 0 0 13 + pBits 4 0 12 + pBits 8 0 64
  | 0x0405 => pBits 0 0 13 + pBits 8 0 64
  | 0x0406 => pBits 0 0 13 + pBits 8 0 64
  | 0x0407 => pBits 0 0 21 + pBits 4 0 16 + pBits 8 0 64
  | 0x0408 => pBits 0 0 21 + pBits 4 0 16 + pBits 8 0 64 + pBits 16 0 6 + pBits 16 8 6
  | 0x0409 => pBits 0 0 12 + pBits 4 0 32 + pBits 8 0 17
  | 0x040A => pBits 0 0 10
  | 0x0501 => pBits 0 0 64
  | 0x0503 => pBits 0 0 8 + pBits 0 16 16 + pBits 4 0 9 + pBits 8 0 128
  | 0x0504 => pBits 0 0 8
  | 0x0505 => pBits 0 0 6 + pBits 8 0 128
  | 0x0506 => pBits 0 0 6
  | 0x0601 => pBits 0 0 32
  | 0x0603 => pBits 0 0 32 + pBits 8 0 64
  | 0x0604 => pBits 0 0 6 + pBits 2 0 10 + pBits 8 0 128 + pBits 24 0 13
  | 0x0702 => pBits 0 0 8 + pBits 4 0 32
  | 0x0703 => pBits 0 0 17
  | 0x0801 => pBits 0 0 64
  | 0x0802 => pBits 0 0 64 + pBits 8 0 27 + pBits 16 0 2
  | 0x0803 => pBits 0 0 2
  | _ => 0

/-- Whether a reserved field of a packet is nonzero (step 2 of R459, R457). -/
def reservedSet (op : Nat) (p : Packet) : Bool :=
  p.flags.toNat % 2 ^ 13 != 0 || p.ctxWord.toNat / 2 ^ 8 != 0
  || (!bitAt p.flags.toNat 14 && p.deadline.toNat / 2 ^ 48 != 0)
  || Nat.xor (Nat.lor p.params.toNat (usedParams op p)) (usedParams op p) != 0

/-- The BARRIER flag. -/
def hasBarrier (p : Packet) : Bool := bitAt p.flags.toNat 15
/-- The packet's execution context. -/
def pktCtx (p : Packet) : Nat := bitsOf p.ctxWord.toNat 0 8

/-! ### Who may issue what, and when (R459, R470, R471, R474) -/

/-- The opcodes of Table 12.4. -/
def opcodeDefined (op : Nat) : Bool :=
  (decide (0x0101 ≤ op) && decide (op ≤ 0x0110)) || (decide (0x0201 ≤ op) && decide (op ≤ 0x0208))
  || (decide (0x0301 ≤ op) && decide (op ≤ 0x0305)) || (decide (0x0401 ≤ op) && decide (op ≤ 0x040A))
  || (decide (0x0501 ≤ op) && decide (op ≤ 0x0506)) || (decide (0x0601 ≤ op) && decide (op ≤ 0x0604))
  || (decide (0x0701 ≤ op) && decide (op ≤ 0x0703)) || (decide (0x0801 ≤ op) && decide (op ≤ 0x0804))

/-- The opcodes marked PF. -/
def pfOnly (op : Nat) : Bool :=
  [0x0102, 0x0103, 0x0104, 0x0105, 0x0106, 0x0107, 0x0108, 0x010D, 0x0110, 0x0204, 0x0206, 0x0207, 0x0304, 0x0305,
   0x040A, 0x0501, 0x0502, 0x0503, 0x0504, 0x0505, 0x0506, 0x0601, 0x0602, 0x0603, 0x0604, 0x0702, 0x0802,
   0x0803].contains op

/-- The work states in which an opcode is legal, as a mask by state code (Table 12.6). -/
def legalStates (op : Nat) : Nat :=
  if [0x0101, 0x0105, 0x0208, 0x0701, 0x0702, 0x0703, 0x0801, 0x0804].contains op then 0xFF
  else if op = 0x0102 then 0x01
  else if op = 0x0103 then 0x0E
  else if op = 0x0104 ∨ op = 0x0107 then 0x20
  else if [0x0108, 0x0206, 0x0802, 0x0803].contains op then 0x40
  else if op = 0x0106 then 0xA7
  else if op = 0x0109 ∨ op = 0x010A then 0x7F
  else if [0x010B, 0x010C, 0x010D].contains op then 0x3E
  else if [0x010E, 0x010F, 0x0110].contains op then 0x0E
  else if [0x0201, 0x0202, 0x0203].contains op then 0x5E
  else if op = 0x0204 ∨ op = 0x0205 then 0x7E
  else if op = 0x0207 then 0x1C
  else if op = 0x0301 ∨ op = 0x0302 then 0x1E
  else if op = 0x0303 ∨ op = 0x0304 then 0x0E
  else if op = 0x0305 then 0x1E
  else if op = 0x0401 then 0x08
  else if [0x0404, 0x0405, 0x0406].contains op then 0x0C
  else if [0x0402, 0x0403, 0x0407, 0x0408, 0x0409, 0x040A, 0x0503, 0x0504, 0x0505, 0x0506].contains op then 0x1C
  else if op = 0x0501 then 0x02
  else if op = 0x0502 then 0x04
  else if [0x0601, 0x0602, 0x0603, 0x0604].contains op then 0x6F
  else 0

/-- The module's power state, PWR_STATE.state: 0 RUN, 1 PARK, 2 BANK, 3 DORMANT, 4 OFF (Table 14.2). -/
def powerState (s : State) : Nat := regField s Reg.PWR_STATE 5 3

/-- The opcodes legal outside RUN (R474). -/
def legalAsleep (op : Nat) : Bool :=
  [0x0101, 0x0105, 0x0106, 0x0109, 0x010A, 0x0208, 0x0701, 0x0702, 0x0703, 0x0804].contains op

/-- Whether the state of the module allows an opcode (step 4 of R459: R470, R471, R474). -/
def stateAllows (s : State) (op : Nat) : Bool :=
  bitAt (legalStates op) (workCode s.cmd.work)
  && (s.cmd.role != .lead || ! [0x0103, 0x0501, 0x0502, 0x0601, 0x0602, 0x0603].contains op)
  && (powerState s == 0 || legalAsleep op)

/-- Whether a context exists for a function and belongs to it (R486). -/
def ctxOwned (s : State) (fn c : Nat) : Bool :=
  c == 0 || (match mget s.cmd.ctxs c with | some x => x.fn == fn | none => false)

/-- The key of a function's context: 1 to 255, or the function's device context 0. -/
def ctxKey (fn c : Nat) : Nat := if c = 0 then 256 + fn else c

/-! ### Status codes (Table 12.3) -/

def stPoisoned : Nat := 0x0002
def stBadOpcode : Nat := 0x0100
def stBadParam : Nat := 0x0101
def stWrongState : Nat := 0x0102
def stBusy : Nat := 0x0103
def stNotPermitted : Nat := 0x0104
def stPreempt : Nat := 0x0200
def stHost : Nat := 0x0201
def stMissed : Nat := 0x0202
def stMemUe : Nat := 0x0300
def stRetired : Nat := 0x0301
def stInhibit : Nat := 0x0400
def stSigInvalid : Nat := 0x0500
def stSignExhausted : Nat := 0x0501

/-- A rejection, which names items where its rule says so (R461). -/
def rejectAt (p : Packet) (status c0 c1 : Nat) : Reply := plainReply p status c0 c1 0 0
/-- A rejection that names nothing. -/
def reject (p : Packet) (status : Nat) : Reply := rejectAt p status 0xFFFFFFFF 0xFFFFFFFF
/-- DONE with count 0. -/
def doneC0 (p : Packet) (c0 : Nat) : Reply := plainReply p stDone c0 0 0 0
/-- DONE. -/
def done (p : Packet) : Reply := doneC0 p 0

/-! ### Result windows (R497 to R503) -/

/-- The lowest run of `n` free granules of BAR4. -/
def freeGranules (ws : List Window) (n : Nat) : Option Nat :=
  (0 :: ws.map fun w => w.start + w.count).foldl (fun (b : Option Nat) c =>
    let ok := decide (c + n ≤ 2048) && ws.all fun w => decide (c + n ≤ w.start) || decide (w.start + w.count ≤ c)
    if ok then (match b with | some x => some (min x c) | none => some c) else b) none

/-- Granules that `bytes` result bytes take: 4 KiB of result each. -/
def granulesFor (bytes : Nat) : Nat := max 1 ((bytes + 4095) / 4096)

/-- Allocate a window for `bytes` result bytes; answers its BAR4 offset (R498). -/
def allocWindow (s : State) (fn bytes : Nat) : Option (Nat × State) :=
  let n := granulesFor bytes
  (freeGranules s.cmd.windows n).map fun g =>
    (g * 8192, { s with cmd := { s.cmd with windows := s.cmd.windows ++ [{ start := g, count := n, fn := fn, done := false, words := [] }] } })

/-- The 32-bit words of a byte string with the poison of their bytes. -/
def wordsOf (bs : List PByte) : List (W32 × Bool) :=
  (chunks 4 (bs.length / 4 + 1) bs).map fun c => (BitVec.ofNat 32 (ofLe (c.map (·.b))), c.any (·.poison))

/-- Clean bytes. -/
def clean (bs : List Byte) : List PByte := bs.map (⟨·, false⟩)

/-- Every slot of a window receives its word and tag (R499). -/
def fillWindow (s : State) (off : Nat) (bs : List PByte) : State :=
  { s with cmd := { s.cmd with windows := s.cmd.windows.map fun w =>
      if w.start = off / 8192 then { w with done := true, words := wordsOf bs } else w } }

/-- A window whose command ended without a result: still allocated, every tag clear (R499). -/
def closeWindow (s : State) (off : Nat) : State :=
  { s with cmd := { s.cmd with windows := s.cmd.windows.map fun w =>
      if w.start = off / 8192 then { w with done := true } else w } }

/-- The 64-bit slot of result word i of a window: poison, valid tag and word once its command has completed with a result,
else zero (R497, R499). -/
def Window.slot (w : Window) (i : Nat) : Nat :=
  match w.done, w.words[i]? with
  | true, some x => b2n x.2 * 2 ^ 33 + 2 ^ 32 + x.1.toNat
  | _, _ => 0

/-- Whether a window holds a BAR4 offset and belongs to the function that reads it (R500). -/
def Window.shows (w : Window) (fn off : Nat) : Bool :=
  w.fn == fn && decide (w.start ≤ off / 8192) && decide (off / 8192 < w.start + w.count)

/-- The 64-bit slot at a BAR4 offset as function `fn` reads it: it is worked out from the state, which no read changes (R12,
R502). Where no window of the function lies it is zero with valid clear (R500, R503). -/
def bar4Word (s : State) (fn off : Nat) : Nat :=
  match s.cmd.windows.find? fun w => w.shows fn off with
  | some w => w.slot ((off - w.start * 8192) / 8)
  | none => 0

/-- What a BAR4 read of 4 or 8 bytes from a slot returns, poisoned with the slot's word (R497, R500). -/
def bar4Read (s : State) (fn off n : Nat) : List PByte :=
  let v := bar4Word s fn off
  ((leBytes 8 v).drop (off % 8)).take n |>.map (⟨·, v.testBit 33⟩)

/-! ### Completion (R456, R458, R478, R479) -/

/-- An SQ halts (R456, R479). -/
def haltSq (s : State) (n : Nat) : State :=
  match sqAt s n with
  | some q => raiseEventOwned (setSq s n { q with halted := true }) q.fn 0x0002 n
  | none => s

/-- A command completes: DONE becomes DONE_LATE past its deadline, the reply is posted, and a BARRIER command that
failed halts its SQ after it. -/
def complete (s : State) (p : Packet) (r : Reply) : State :=
  let late := r.status = stDone ∧ pastDeadline s p
  let r := if late then { r with status := stDoneLate } else r
  let s1 := postReply s (cqOf s p.sq) r
  if hasBarrier p ∧ 0x0100 ≤ r.status then haltSq s1 p.sq else s1

/-- A command in progress completes and leaves. -/
def completeProg (s : State) (c : InProg) (r : Reply) : State :=
  complete { s with cmd := { s.cmd with inProg := s.cmd.inProg.erase c } } c.pkt r

/-- A reply that carries a result window. -/
def Reply.withWindow (r : Reply) (off : Nat) : Reply := { r with result := off }

/-! ### Beginning (R453, R478, R480, R485, R488) -/

/-- Whether a command begins alone on its SQ. -/
def serialOp (op : Nat) (p : Packet) : Bool := [1, 3, 5, 6, 8].contains (op / 256) || hasBarrier p

/-- The objects that a command names, as keys (R480): adapter slots, grammars, queues, contexts, the retired list. A
context is named by a context command's parameter; a withdrawal waits for nothing, since it ends the request that it
names. Commands on ledger blocks and tenants complete at once or are applied in the order they begin (R484); a PAGE_READ or
PAGE_WRITE waits for those on its block (`readyToBegin`). -/
def namedObjects (op : Nat) (p : Packet) : List Nat :=
  if op = 0x0503 ∨ op = 0x0504 then [prm p 0 0 8]
  else if op = 0x0505 ∨ op = 0x0506 then [256 + prm p 0 0 6]
  else if op = 0x0109 ∨ op = 0x010A then [512 + prm p 0 0 1 * 256 + prm p 0 8 8]
  else if op = 0x010C ∨ op = 0x010F ∨ (op = 0x010E ∧ prm p 4 0 1 = 0) then [1024 + prm p 0 0 8]
  else if op = 0x0110 then [1024 + prm p 0 0 8, 1024 + prm p 4 0 8]
  else if op = 0x0204 ∨ op = 0x0205 ∨ op = 0x0206 then [1280]
  else []

/-- The opcodes that take a DMA queue from 16 to 31 when they begin (R524). -/
def takesQueue (op : Nat) : Bool := [0x0201, 0x0207, 0x0407, 0x0408].contains op
/-- The lowest idle DMA queue from 16 to 31. -/
def idleQueue (s : State) : Option Nat := ((List.range 32).drop 16).find? fun q => (mget s.dma.runs q).isNone

/-- Whether the run in progress, if any, is held at a pre-emption stop. -/
def runStopped (s : State) : Bool := s.itn.run == .stoppedPreempt
/-- Whether a run is in progress. -/
def runActive (s : State) : Bool :=
  match s.itn.run with
  | .waitStart => true | .running => true | .stoppedPreempt => true | .stoppedHalt => true | .aborting => true
  | .resuming => true | _ => false

/-- Whether the itinerary engine is, or can come to be, held for a context (R487). -/
def engineFree (s : State) (key : Nat) : Bool :=
  match s.cmd.holder with
  | none => true
  | some h => h == key || !runActive s || runStopped s

/-- The key of the context whose engine a command needs: its own for STEP and ITIN_RUN, the named one for a
CONTEXT_RESUME that releases a stop. -/
def engineKey (s : State) (op : Nat) (p : Packet) (fn : Nat) : Option Nat :=
  if op = 0x0401 ∨ op = 0x0303 then (if ctxOwned s fn (pktCtx p) then some (ctxKey fn (pktCtx p)) else none)
  else if op = 0x010F then
    let k := ctxKey fn (prm p 0 0 8)
    match mget s.engines k with | some e => if e.itn.run == .stoppedPreempt then some k else none | none => none
  else none

/-- Whether the context of a packet is swapped out (R488). -/
def swappedOut (s : State) (p : Packet) (fn : Nat) : Bool :=
  match mget s.cmd.ctxs (pktCtx p) with | some x => x.fn == fn && !x.resident | none => false

/-- Whether a packet at the head of its SQ may begin, its context's residency apart: the order of R478 to R480, a
quiescence, power transition or QUEUE_DELETE in progress, a STEP before it, an engine or a DMA queue in use. -/
def readyToBegin (s : State) (op : Nat) (p : Packet) (fn : Nat) : Bool :=
  let mine := s.cmd.inProg.filter fun c => c.pkt.sq = p.sq
  (!serialOp op p || mine.isEmpty) && mine.all (fun c => !serialOp c.op c.pkt)
  && s.cmd.inProg.all (fun c => c.op != 0x0103 && c.op != 0x0106 && (c.op != 0x010A || c.args.take 2 != [0, p.sq]))
  && (op != 0x0401 || (s.cmd.inProg.all (fun c => c.op != 0x0401) && s.srv.core.run.isNone
        && !(match s.itn.run with | .stoppedPreempt => true | .stoppedHalt => true | .aborting => true | .resuming => true | _ => false)))
  && (!(decide (0x0403 ≤ op) && decide (op ≤ 0x0408)) || (match s.srv.core.run with | some r => r.admitted | none => true))
  && (match engineKey s op p fn with | some k => engineFree s k | none => true)
  && (!(op == 0x0407 || op == 0x0408) || s.cmd.inProg.all fun c => !((c.op == 0x0405 || c.op == 0x0406) && c.args.contains (prm p 0 0 21)))
  && (!takesQueue op || (idleQueue s).isSome)
  && (op != 0x0801 || decide (s.sec.reqs.length < 64))
  && (namedObjects op p).all (fun k => s.cmd.inProg.all fun c => !(namedObjects c.op c.pkt).contains k)

/-- Whether a packet at the head of its SQ may begin. -/
def mayBegin (s : State) (op : Nat) (p : Packet) (fn : Nat) : Bool := readyToBegin s op p fn && !swappedOut s p fn

/-- What a command's own rules answer: it completes at once, or is in progress. -/
inductive Verdict where
  | now (s : State) (r : Reply)
  | later (s : State) (args : List Nat) (window : Option Nat)

/-- What follows a command's row in the same step. -/
def andThen (o : Host.Outcome State Fault Refusal) (f : State → State) : Host.Outcome State Fault Refusal :=
  match o with | .next s => .next (f s) | .fault e => .fault e | .refused r => .refused r

/-- The verdict of a rejection. -/
def no (s : State) (p : Packet) (status : Nat) : Verdict := .now s (reject p status)

/-- The issuer by which a stack knows the held writes of a function's BAR2 accesses. -/
def hostIssuer (fn : Nat) : Nat := 224 + 65536 * fn
/-- Whether a request of a function waits: behind a held write of its own, or behind an earlier request that waits (R294,
R295, R559). -/
def mustWait (s : State) (fn : Nat) : Bool :=
  s.mem.stks.any (fun k => k.held.any fun h => h.issuer == hostIssuer fn) || s.pci.waits.any fun w => w.1 == fn
/-- A request that waits. -/
def waitHost (s : State) (fn : Nat) (i : Instr) : State := { s with pci := { s.pci with waits := s.pci.waits ++ [(fn, i)] } }

/-- The writes that stacks hold (R199). -/
def heldWrites (s : State) : Nat := s.mem.stks.foldl (fun n k => n + (k.held.filter (·.write)).length) 0

/-- A command is in progress. -/
def begun (s : State) (c : InProg) : State := { s with cmd := { s.cmd with inProg := s.cmd.inProg ++ [c] } }

/-- A command that completes at once: its reply waits for the writes of its own that a stack holds (R296). -/
def answer (s s1 : State) (op : Nat) (p : Packet) (fn : Nat) (r : Reply) : State :=
  if heldWrites s < heldWrites s1 then begun s1 { op := op, pkt := p, fn := fn, window := none, args := [], reply := some r }
  else complete s1 p r

/-- The checks of R459, then the command's own rules. -/
def judge (s : State) (op : Nat) (p : Packet) (fn : Nat) (body : State → Nat → Verdict) : State :=
  if reservedSet op p then complete s p (reject p stBadParam)
  else if !ctxOwned s fn (pktCtx p) || (pfOnly op && fn != 0) then complete s p (reject p stNotPermitted)
  else if !stateAllows s op then complete s p (reject p stWrongState)
  else
    match body s fn with
    | .now s1 r => answer s s1 op p fn r
    | .later s1 args w => begun s1 { op := op, pkt := p, fn := fn, window := w, args := args, reply := none }

/-- A FAULT that leaves no quartermaster to take commands: causes 0x04 to 0x06, and a hub trip (R612, R627). -/
def FaultRec.stopsHub (f : FaultRec) : Bool := (decide (4 ≤ f.cause) && decide (f.cause ≤ 6)) || (f.cause == 8 && f.detail == 276)

/-- SEC_STATUS.stage (Table 17.2): 6 RUNNING, 0xE RECOVERY, 0xF HALT. -/
def bootStage (s : State) : Nat := regField s Reg.SEC_STATUS 12 4
/-- Whether the boot has reached stage 6 (R631). DESIGN CHOICE: a module whose 54 V input no command has yet brought into
range is taken as booted, since the reset state stands for one whose boot the commands do not show. -/
def booted (s : State) : Bool := bootStage s == 6 || (bootStage s == 0 && !s.pwr.input && !s.pwr.perst)

/-- Whether the host link is down: by the power state (Table 14.2), during the input-loss sequence (Table 14.9), and
after a hub trip (Table 14.7). -/
def linkDown (s : State) : Bool := decide (3 ≤ powerState s) || s.pwr.losing || s.pwr.trips.contains 3
/-- Whether memory requests of a function are served: not in D3hot (R511), not before the boot is done (R631). -/
def memServed (s : State) (fn : Nat) : Bool := !s.pci.d3hot.contains fn && booted s && !linkDown s

/-- Whether the quartermaster runs: by the power state (Table 14.2), once booted (Table 17.2), with no input loss in
progress and no fault that stops it. -/
def hubRuns (s : State) : Bool :=
  decide (powerState s < 3) && booted s && !s.pwr.losing
  && (match s.flt.fault with | some f => !f.stopsHub | none => true)

/-- Whether a completion queue takes no further reply at once (R28, R454). -/
def cqStuck (s : State) (n : Nat) : Bool :=
  match cqAt s n with | some c => c.failed || !c.waiting.isEmpty || cqFull c | none => false

/-- Whether a waiting packet is first of its SQ and may begin. A packet that PACKET_FETCH has not fetched must find its
CQ with room (R28). -/
def canStart (s : State) (d : Deferred) (q : SQueue) : Bool :=
  let known := q.fetched.contains ⟨d.op, d.pkt⟩
  let ahead := (s.cmd.deferred.takeWhile (· ≠ d)).any fun x => x.pkt.sq == d.pkt.sq
  let first := if known then q.fetched.head? == some ⟨d.op, d.pkt⟩ else q.fetched.isEmpty && !ahead && !cqStuck s q.cq
  first && hubRuns s && !q.halted && mayBegin s d.op d.pkt q.fn

/-- A waiting command leaves the list of those that wait. -/
def dropDeferred (s : State) (d : Deferred) : State := { s with cmd := { s.cmd with deferred := s.cmd.deferred.erase d } }

/-- An SQ after a packet of it begins: fetched here, the head moving past it, unless PACKET_FETCH had fetched it. -/
def SQueue.taking (q : SQueue) (f : Fetched) : SQueue :=
  if q.fetched.contains f then { q with fetched := q.fetched.erase f }
  else
    let h := (q.head + 1) % q.size
    { q with head := h, tail := if q.head = q.tail then h else q.tail }

/-- A packet at an SQ: it begins, or waits (R453, R478). -/
def command (op : Nat) (p : Packet) (me : Instr) (body : State → Nat → Verdict) (s : State) : Host.Outcome State Fault Refusal :=
  let d : Deferred := ⟨op, p, me⟩
  match sqAt s p.sq with
  | none => .next (dropDeferred s d)
  | some q =>
    if canStart s d q then .next (judge (setSq (dropDeferred s d) p.sq (q.taking ⟨op, p⟩)) op p q.fn body)
    else if s.cmd.deferred.contains d then .next s
    else .next { s with cmd := { s.cmd with deferred := s.cmd.deferred ++ [d] } }

/-- The oldest waiting command that may begin now, for a step on an empty queue. -/
def nextDeferred (s : State) : Option Instr :=
  (s.cmd.deferred.find? fun d => match sqAt s d.pkt.sq with | none => true | some q => canStart s d q).map (·.cmd)

/-! ### Host memory as a command reads it -/

/-- The segment that holds an address. -/
def hostSeg (hv : HostView) (a : Nat) : Option HostSeg := hv.find? fun g => decide (g.base ≤ a) && decide (a < g.base + g.bytes.length)

/-- The mark of a byte of host memory. -/
def hostMark (hv : HostView) (a : Nat) : HostMark := match hostSeg hv a with | some g => g.mark | none => .ok

/-- The byte at an address; zero where no segment lists it. -/
def hostByte (hv : HostView) (a : Nat) : Byte :=
  match hostSeg hv a with | some g => nth g.bytes (a - g.base) 0 | none => 0

/-- `n` bytes of host memory. -/
def hostBytes (hv : HostView) (a n : Nat) : List Byte := (List.range n).map fun i => hostByte hv (a + i)

/-- Whether a range of host memory is delivered clean. -/
def hostOk (hv : HostView) (a n : Nat) : Bool :=
  hv.all fun g => g.mark == .ok || decide (a + n ≤ g.base) || decide (g.base + g.bytes.length ≤ a)

/-- Whether some of a range of host memory arrives poisoned. -/
def hostPoisoned (hv : HostView) (a n : Nat) : Bool :=
  hv.any fun g => g.mark == .poisoned && decide (g.base < a + n) && decide (a < g.base + g.bytes.length)

/-- Whether a range of host memory is aligned and reachable (R465). -/
def hostReach (hv : HostView) (a n align : Nat) : Bool :=
  a % align == 0 && decide (a + n ≤ 2 ^ 64)
  && hv.all fun g => g.mark != .unreachable || decide (a + n ≤ g.base) || decide (g.base + g.bytes.length ≤ a)

/-- A list, image or descriptor in host memory, aligned and delivered clean (R465). -/
def hostImage (hv : HostView) (a n align : Nat) : Option (List Byte) :=
  if hostReach hv a n align && hostOk hv a n then some (hostBytes hv a n) else none

/-- The status of a command whose inputs in host memory (address, bytes, alignment) cannot be used: BAD_PARAM for a
misaligned or unreachable address (R465), MEM_UNCORRECTABLE for a poisoned input that the device must interpret (R617),
else BAD_PARAM. -/
def hostError (hv : HostView) (rs : List (Nat × Nat × Nat)) : Nat :=
  if rs.all (fun r => hostReach hv r.1 r.2.1 r.2.2) && rs.any (fun r => hostPoisoned hv r.1 r.2.1) then stMemUe else stBadParam

/-- Data that the device moves from host memory without interpreting it: what arrives poisoned stays so by 8-byte word,
and a range of which any part gets no data is poison whole (Table 13.10). -/
def hostData (s : State) (hv : HostView) (a n : Nat) : List PByte × State :=
  if !hostReach hv a n 1 then (List.replicate n ⟨0, true⟩, setRegBit s Reg.PCI_ERR 4)
  else
    ((List.range n).map fun i => ⟨hostByte hv (a + i), hostPoisoned hv ((a + i) / 8 * 8) 8⟩,
     if hostPoisoned hv a n then setRegBit s Reg.PCI_ERR 3 else s)

end Sys2Proof.Machine
end

