-- ==== Sys2Proof/Machine/Vf.lean ====
section
/-!
DEFINITION. Sharing among functions (§13.3): queue ranges, and the translation of the addresses that a VF names.
-/
namespace Sys2Proof.Machine

/-- The function that owns SQ or CQ `i` (R517). A VF whose range would pass queue 255 owns none. -/
def queueOwner (s : State) (i : Nat) : Nat :=
  let k := regField s Reg.PCI_VF_CFG 0 4
  if !s.pci.vfEnable ∨ i < 16 ∨ k = 0 then 0
  else
    let v := (i - 16) / k + 1
    if v ≤ s.pci.numVfs ∧ 16 + v * k ≤ 256 then v else 0

/-- The largest number of MSI-X vectors of a function (R523). -/
def vectorCount (fn : Nat) : Nat := if fn = 0 then 256 else 16

/-- The size of a VF's BAR2 in bytes. -/
def vfBar2Size (s : State) (v : Nat) : Nat := 2 ^ (30 + mgetD 0 s.pci.vfBar2Log v)

/-- A translation entry from the cache, or by a walk over the skim path, which fills it. The cache holds 1,024 entries;
the oldest leaves (R521). -/
def vfEntry (s : State) (v i : Nat) : Nat × State :=
  match s.pci.xlat.find? fun e => e.vf = v ∧ e.index = i with
  | some e => (e.entry.toNat, s)
  | none =>
    let r := readMem s 3 .stream (regField s (Reg.PCI_VF_XLAT v) 16 24 * 65536 + 8 * i) 8
    let bad := r.1.any (·.poison)
    let w := if bad then 0 else ofLe (r.1.map (·.b))
    let c := r.2.pci.xlat ++ [⟨v, i, BitVec.ofNat 64 w⟩]
    (w, { r.2 with pci := { r.2.pci with xlat := c.drop (c.length - 1024) } })

/-- Whether an entry grants an access (R520, R522). -/
def entryGrants (s : State) (w : Nat) (write : Bool) : Bool :=
  bitAt w 63 && (!write || bitAt w 62) && bitsOf w 40 22 == 0 && bitsOf w 0 21 == 0
  && (match regionOf s (bitsOf w 21 19 * 0x200000) with | .interleaved => true | .privateWin => true | _ => false)

/-- The pieces of memory that a range of VF addresses names, page by page: DPA and length. A refusal sets PCI_ERR.xlat
(R522). -/
def vfWalk (v : Nat) (write : Bool) : Nat → State → Nat → Nat → Option (List (Nat × Nat)) × State
  | 0, s, _, _ => (some [], s)
  | fuel + 1, s, a, n =>
    if n = 0 then (some [], s)
    else
      let m := min n (0x200000 - a % 0x200000)
      let ok := regBit s (Reg.PCI_VF_XLAT v) 0 && decide (a + m ≤ vfBar2Size s v)
      let e := vfEntry s v (a / 0x200000)
      if ok && entryGrants e.2 e.1 write then
        let r := vfWalk v write fuel e.2 (a + m) (n - m)
        (r.1.map fun ps => (bitsOf e.1 21 19 * 0x200000 + a % 0x200000, m) :: ps, r.2)
      else (none, setRegBit (if ok then e.2 else s) Reg.PCI_ERR 5)

/-- The pieces of memory that a function's range of addresses names: a DPA for the PF (R520). -/
def fnRange (s : State) (fn a n : Nat) (write : Bool) : Option (List (Nat × Nat)) × State :=
  if fn = 0 then (some [(a, n)], s) else vfWalk fn write (n / 0x200000 + 2) s a n

/-- Read the pieces of a range. -/
def readPieces (s : State) (source : Nat) (hint : Hint) (ps : List (Nat × Nat)) : List PByte × State :=
  ps.foldl (fun a x => let r := readMem a.2 source hint x.1 x.2; (a.1 ++ r.1, r.2)) ([], s)
/-- Write bytes over the pieces of a range. -/
def writePieces (s : State) (source issuer : Nat) (hint : Hint) (ps : List (Nat × Nat)) (bs : List PByte) : State :=
  (ps.foldl (fun (a : State × List PByte) x => (writeMem a.1 source issuer hint x.1 (a.2.take x.2), a.2.drop x.2)) (s, bs)).1

end Sys2Proof.Machine
end

