-- ==== Sys2Proof/Machine/Ledger.lean ====
section
/-!
DEFINITION. The key-value page ledger and the prefix index (chapter 10): geometry, frames and placement, references,
pins and states, appends and copies, the prefix hash, and the page commands.
-/
namespace Sys2Proof.Machine

/-! ### Geometry (R372 to R377) -/

/-- The format bits that an entry records of a descriptor: elem and code. -/
def fmt6 (d : Nat) : Nat := d % 64
/-- Bytes of one head's keys or values for 16 tokens (R374). -/
def headBytes (d fmt : Nat) : Nat := 2 * d * elemBits (fmt % 32)
/-- Rows of the K part of a page. -/
def Model.rK (m : Model) : Nat := ceilDiv (m.hm * headBytes m.d m.kfmt) 2048
/-- Rows of the V part of a page. -/
def Model.rV (m : Model) : Nat := ceilDiv (m.hm * headBytes m.d m.vfmt) 2048
/-- Rows of a page. -/
def Model.rows (m : Model) : Nat := m.rK + m.rV
/-- Group length in blocks (R391). -/
def Model.group (m : Model) : Nat := 2048 / m.d

/-- Whether a format fits a head area for 16 tokens (R376). -/
def fitsArea (d area fmt : Nat) : Bool :=
  let c := fmt % 32
  let elems := 2 * d * elemBits c
  fmtCodeOk c && (decide (fmt < 32) || c == 0x0E || c == 0x0F) &&
  decide ((if isBlock c then ceilDiv elems 64 * 64 + 16 * d / blockLen c else elems) ≤ area)

/-- Members of the caravan and this module's index among them. -/
def memberCount (s : State) : Nat := match s.itn.caravan with | some c => c.members | none => 1
/-- This module's member index. -/
def memberIndex (s : State) : Nat := match s.itn.caravan with | some c => c.index | none => 0

/-- Whether member k holds block j of a sequence (R399, R400). -/
def memberHolds (s : State) (m : Model) (k j : Nat) : Bool := m.layout != 2 || j / 2 ^ m.glog2 % memberCount s == k
/-- Whether this member does. -/
def holdsBlock (s : State) (m : Model) (j : Nat) : Bool := memberHolds s m (memberIndex s) j
/-- The local number of block j (R400). -/
def localNumber (s : State) (m : Model) (j : Nat) : Nat :=
  if m.layout = 2 then j / (2 ^ m.glog2 * memberCount s) * 2 ^ m.glog2 + j % 2 ^ m.glog2 else j

/-! ### Entries and frames -/

/-- A FREE entry (the Reset column of Table 10.2). -/
def LEntry.reset : LEntry :=
  { refcount := 0, pins := 0, state := .free, kfmt := 0, vfmt := 0, fill := 0, indexed := false, src := 0,
    placed := false, retirePending := false, bank := 0, frame := 0, pfx := 0 }

/-- The serving state proper changed. -/
def modCore (s : State) (f : SrvCore → SrvCore) : State := { s with srv := { s.srv with core := f s.srv.core } }
/-- Entry B. -/
def entryAt (s : State) (b : Nat) : LEntry := mgetD LEntry.reset s.srv.core.entries b
/-- Entry B replaced. -/
def setEntry (s : State) (b : Nat) (e : LEntry) : State := modCore s fun c => { c with entries := mput LEntry.reset c.entries b e }
/-- Entry B changed. -/
def modEntry (s : State) (b : Nat) (f : LEntry → LEntry) : State := setEntry s b (f (entryAt s b))

/-- The frame map: 0 FREE, 1 IN_USE, 2 RETIRED. -/
def frameState (s : State) (bank frame : Nat) : Nat := mgetD 0 s.srv.core.frames (bank * 1024 + frame)
/-- The frame map changed. -/
def setFrame (s : State) (bank frame v : Nat) : State :=
  modCore s fun c => { c with frames := mput 0 c.frames (bank * 1024 + frame) v }

/-- The lowest number that is no key of a map. -/
def lowestGap {α : Type} : List (Nat × α) → Nat → Nat
  | [], n => n
  | (k, _) :: m, n => if k = n then lowestGap m (n + 1) else n

/-- Whether a block drains: no reference, still pinned (R384). -/
def LEntry.draining (e : LEntry) : Bool := e.refcount == 0 && e.state != .free

/-- Whether an entry is in an in-use state. -/
def LEntry.inUse (e : LEntry) : Bool := e.state == .owned || e.state == .shared || e.state == .copying

/-- The bank row and byte of a head's keys or values in a layer of a frame (R375). -/
def headRow (m : Model) (frame layer head : Nat) (values : Bool) : Nat × Nat :=
  let e := headBytes m.d (if values then m.vfmt else m.kfmt)
  ((layer * m.f + frame) * m.rows + (if values then m.rK else 0) + head * e / 2048, head * e % 2048)
/-- Their DPA. -/
def headDpa (s : State) (m : Model) (bank frame layer head : Nat) (values : Bool) : Nat :=
  let r := headRow m frame layer head values
  interTop (stackCount s) s.mem.p + bank * 0x4000000 + r.1 * 2048 + r.2

/-- The private-bank index of a bank (R180). -/
def bankIndex (p stack die bank : Nat) : Nat := (stack * 20 + die) * (8 * p) + (bank - (64 - 8 * p))

/-- The lowest FREE frame of a private bank. -/
def freeFrame (s : State) (m : Model) (bank : Nat) : Option (Nat × Nat) :=
  (firstBelow m.f fun f => frameState s bank f == 0).map fun f => (bank, f)

/-- The lowest FREE frame of private trowel i of a stack: the preferred bank of its pair, then the other (R391). -/
def freeOfPair (s : State) (m : Model) (stack i pref : Nat) : Option (Nat × Nat) :=
  let p := s.mem.p
  let q := 32 - 4 * p + i % (4 * p)
  let b := fun h => bankIndex p stack (i / (4 * p)) (2 * q + h)
  match freeFrame s m (b pref) with
  | some x => some x
  | none => freeFrame s m (b (1 - pref))

/-- The search of R391 from private trowel i on, within a stack. -/
def searchFrom (s : State) (m : Model) (stack i pref : Nat) : Option (Nat × Nat) :=
  let n := 80 * s.mem.p
  (List.range n).findSome? fun k => freeOfPair s m stack ((i + k) % n) pref

/-- The frame of a new block: local number j of a slot (R391). -/
def placeNew (s : State) (m : Model) (slot j : Nat) : Option (Nat × Nat) :=
  let st := stackCount s
  searchFrom s m ((slot + j / m.group) % st) ((slot / st + j / 2) % (80 * s.mem.p)) (j % 2)

/-- The frame of a copy target (R392): the source's bank, its pair's other bank, then on within its stack. -/
def placeCopy (s : State) (m : Model) (src : LEntry) (j : Nat) : Option (Nat × Nat) :=
  let p := s.mem.p
  let stack := src.bank / (8 * p) / 20
  let i := src.bank / (8 * p) % 20 * (4 * p) + src.bank % (8 * p) / 2
  match freeOfPair s m stack i (src.bank % 2) with
  | some x => some x
  | none => searchFrom s m stack (i + 1) (j % 2)

/-- LDG_ERR.no_frame or busy, with its event. -/
def ldgError (s : State) (bit block : Nat) : State := raiseIf (setRegBit s Reg.LDG_ERR bit) Reg.LDG_CTRL 1 0x0061 block

/-- A block given the frame found for it, or recorded unplaced (R393). -/
def placeAt (s : State) (b : Nat) (fr : Option (Nat × Nat)) : State :=
  match fr with
  | some (bank, f) => setFrame (modEntry s b fun e => { e with placed := true, bank := bank, frame := f }) bank f 1
  | none => ldgError s 3 b

/-! ### References, pins and the transitions of Table 10.3 -/

/-- The prefix entry of a block removed (Table 10.3, R396). -/
def unindex (s : State) (b : Nat) : State :=
  let e := entryAt s b
  if e.indexed then modCore (setEntry s b { e with indexed := false, pfx := 0 }) fun c => { c with index := mdel c.index e.pfx }
  else s

/-- An entry with no reference and no pin becomes FREE, and its frame FREE or RETIRED. -/
def settleEntry (s : State) (b : Nat) : State :=
  let e := entryAt s b
  if e.refcount = 0 ∧ e.pins = 0 ∧ e.state ≠ .free ∧ e.state ≠ .copying then
    let s1 := setEntry (unindex s b) b LEntry.reset
    if e.placed then setFrame s1 e.bank e.frame (if e.retirePending then 2 else 0) else s1
  else s

/-- A reference taken; none where the count is full (R389). -/
def takeRef (s : State) (b : Nat) : Option State :=
  let e := entryAt s b
  if 65535 ≤ e.refcount then none
  else some (setEntry s b { e with refcount := e.refcount + 1, state := if e.state = .owned then .shared else e.state })

/-- A reference released; none where there is none. -/
def dropRef (s : State) (b : Nat) : Option State :=
  let e := entryAt s b
  if e.refcount = 0 then none
  else
    let n := e.refcount - 1
    let s1 := setEntry s b { e with refcount := n, state := if e.state = .shared ∧ n = 1 then .owned else e.state }
    some (if n = 0 then settleEntry (unindex s1 b) b else s1)

/-- A pin taken; none where the count is full (R389). -/
def takePin (s : State) (b : Nat) : Option State :=
  let e := entryAt s b
  if 8191 ≤ e.pins then none else some (setEntry s b { e with pins := e.pins + 1 })

/-- A pin released. -/
def dropPin (s : State) (b : Nat) : State :=
  let e := entryAt s b
  if e.pins = 0 then s else settleEntry (setEntry s b { e with pins := e.pins - 1 }) b

/-- Several takings in order, stopped at the first that fails, whose index is answered. -/
def takeAll (f : State → Nat → Option State) : State → List Nat → Nat → State ⊕ Nat
  | s, [], _ => .inl s
  | s, b :: bs, i => match f s b with | some s1 => takeAll f s1 bs (i + 1) | none => .inr i

/-- A new block: the lowest FREE entry (the model's choice of the FREE entry). -/
def newBlock (s : State) : Option Nat :=
  let b := lowestGap s.srv.core.entries 0
  if b < 2097152 then some b else none

/-- Allocation of block j of a slot: OWNED with one reference, placed where this member holds it. -/
def allocBlock (s : State) (m : Model) (slot j : Nat) : Option (Nat × State) :=
  (newBlock s).map fun b =>
    let s1 := setEntry s b { LEntry.reset with state := .owned, refcount := 1, kfmt := fmt6 m.kfmt, vfmt := fmt6 m.vfmt }
    let s2 := bump s1 Reg.LDG_OPS 32 32 1
    (b, if holdsBlock s m j then placeAt s2 b (placeNew s2 m slot (localNumber s m j)) else s2)

/-- Allocation of a copy target of a source block for block j of a slot (R386, R392). The source is pinned until the
copy ends. -/
def allocCopy (s : State) (m : Model) (slot j src : Nat) : Option (Nat × State) :=
  (newBlock s).bind fun b =>
    (takePin s src).map fun s0 =>
      let e := entryAt s0 src
      let s1 := setEntry s0 b { LEntry.reset with state := .copying, refcount := 1, src := src, fill := e.fill, kfmt := e.kfmt, vfmt := e.vfmt }
      let s2 := raiseIf (bump (bump s1 Reg.LDG_OPS 32 32 1) Reg.LDG_OPS 0 32 1) Reg.LDG_CTRL 2 0x0060 b
      (b, if holdsBlock s m j then
            placeAt s2 b (if e.placed then placeCopy s2 m e (localNumber s m j) else placeNew s2 m slot (localNumber s m j))
          else s2)

/-! ### Prefix hash and index (R394 to R398) -/

/-- The digest of a block from its parent's digest, the salt and its 16 tokens (Table 10.4). -/
def blockDigest (m : Model) (parent : List Byte) (tokens : List Nat) : List Byte :=
  sha256 (padTo 32 parent ++ padTo 16 m.salt ++ tokens.flatMap (leBytes 4))

/-- The key of a digest, its other half, and its set (R396). -/
def digestKey (d : List Byte) : Nat := fieldAt d 0 16
def digestRest (d : List Byte) : Nat := fieldAt d 16 16
def digestSet (d : List Byte) : Nat := fieldAt d 0 3 % 2 ^ 17
/-- The digest an entry holds. -/
def PEntry.digest (e : PEntry) : List Byte := leBytes 16 e.key ++ leBytes 16 e.rest

/-- The index entry that holds a digest's key. -/
def findKey (s : State) (d : List Byte) : Option PEntry :=
  (List.range 8).findSome? fun w => match mget s.srv.core.index (digestSet d * 8 + w) with
    | some e => if e.key = digestKey d then some e else none
    | none => none

/-- Insert a block's digest (R395, R396). -/
def insertPrefix (s : State) (m : Model) (b : Nat) (d : List Byte) (tokens : List Nat) : State :=
  let e := entryAt s b
  if e.indexed || e.draining || e.state == .free then s
  else
    match findKey s d with
    | some _ => s
    | none =>
      match firstBelow 8 fun w => (mget s.srv.core.index (digestSet d * 8 + w)).isNone with
      | some w =>
        let k := digestSet d * 8 + w
        modCore (setEntry s b { e with indexed := true, pfx := k }) fun c =>
          { c with index := mset c.index k ⟨digestKey d, digestRest d, b, if m.verify then tokens else []⟩ }
      | none => raiseIf (bump (setRegBit s Reg.PFX_ERR 1) Reg.PFX_STATUS 0 18 1) Reg.PFX_CTRL 0 0x0063 (digestSet d)

/-- What the lookup of one block answers: a hit's block, or a miss, and whether verification failed. -/
def lookupBlock (s : State) (m : Model) (d : List Byte) (tokens : List Nat) (j : Nat) : Option Nat × Bool :=
  match findKey s d with
  | none => (none, false)
  | some e =>
    if (entryAt s e.block).draining then (none, false)
    else if m.verify && (e.tokens != tokens || (j != 0 && e.digest != d)) then (none, true)
    else (some e.block, false)

/-- Look up blocks in order to the first miss: the hits, and whether a verification failed. -/
def lookupAll (s : State) (m : Model) : List Byte → Nat → List (List Nat) → List Nat × Bool
  | _, _, [] => ([], false)
  | parent, j, t :: ts =>
    let d := blockDigest m parent t
    match lookupBlock s m d t j with
    | (some b, _) => let r := lookupAll s m d (j + 1) ts; (b :: r.1, r.2)
    | (none, f) => ([], f)

/-- The digests of successive blocks. -/
def digests (m : Model) : List Byte → List (List Nat) → List (List Byte)
  | _, [] => []
  | parent, t :: ts => let d := blockDigest m parent t; d :: digests m d ts

/-! ### Slots (R381, R395, R418) -/

/-- A FREE slot. -/
def Slot.reset : Slot :=
  { state := 0, cause := 0, tenant := 0, constrained := false, t := 0, last := none, steps := 0, adapter := 0, gen := 0,
    window := [], table := [], chain := none, pend := [] }
/-- A slot. -/
def slotAt (s : State) (n : Nat) : Slot := mgetD Slot.reset s.srv.core.slots n
/-- A slot replaced. -/
def setSlot (s : State) (n : Nat) (x : Slot) : State := modCore s fun c => { c with slots := mput Slot.reset c.slots n x }
/-- A slot changed. -/
def modSlot (s : State) (n : Nat) (f : Slot → Slot) : State := setSlot s n (f (slotAt s n))
/-- The step in progress changed. -/
def modRun (s : State) (f : StepRun → StepRun) : State := modCore s fun c => { c with run := c.run.map f }

/-- A block pinned for the step in progress, once (R383). -/
def pinForStep (s : State) (b : Nat) : Option State :=
  match s.srv.core.run with
  | some r => if r.pinned.contains b then some s else (takePin s b).map fun s1 => modRun s1 fun r => { r with pinned := r.pinned ++ [b] }
  | none => some s

/-- Tokens written into the last block of a slot, at most `n`: the number written (R386). None where no entry, reference
or pin is left. A last block that has been RETIRED, of which R386 says nothing, is written in place where the slot alone
holds it and copied where others do: DESIGN CHOICE. -/
def appendOnce (s : State) (m : Model) (slot n : Nat) : Option (Nat × State) :=
  let x := slotAt s slot
  let j := x.table.length
  let write := fun (s : State) (b : Nat) =>
    let e := entryAt s b
    let k := min n (16 - e.fill)
    (k, setEntry s b { e with fill := e.fill + k })
  let fresh := (allocBlock s m slot j).map fun a => write (modSlot a.2 slot fun x => { x with table := x.table ++ [a.1] }) a.1
  match x.table.getLast? with
  | none => fresh
  | some b =>
    let e := entryAt s b
    if 16 ≤ e.fill then fresh
    else if e.state = .shared ∨ (e.state = .retired ∧ 1 < e.refcount) then
      (allocCopy s m slot (j - 1) b).bind fun a =>
        (dropRef (modSlot a.2 slot fun x => { x with table := x.table.dropLast ++ [a.1] }) b).map fun s1 =>
          write (modRun s1 fun r => { r with copies := r.copies ++ [(b, a.1, e.fill)] }) a.1
    else some (write s b)

/-- Append `n` tokens, block by block. -/
def appendTokens (m : Model) (slot : Nat) : Nat → State → Nat → Option State
  | 0, s, _ => some s
  | fuel + 1, s, n =>
    if n = 0 then some s
    else (appendOnce s m slot n).bind fun a => appendTokens m slot fuel a.2 (n - a.1)

/-- The chain of a slot advanced by appended tokens: each filled block's digest is to be inserted at completion
(R395). `j` is the number of the block being filled. -/
def advanceChain (m : Model) (slot : Nat) : Nat → State → Nat → State
  | 0, s, _ => s
  | fuel + 1, s, j =>
    let x := slotAt s slot
    match x.chain with
    | none => s
    | some parent =>
      if x.pend.length < 16 then s
      else
        let t := x.pend.take 16
        let d := blockDigest m parent t
        let s1 := modSlot s slot fun x => { x with chain := some d, pend := x.pend.drop 16 }
        let s2 := if m.autoIndex then
            modRun s1 fun r => { r with inserts := r.inserts ++ [(slot, nth x.table j 0, d, t)] }
          else s1
        advanceChain m slot fuel s2 (j + 1)

/-! ### Copies (R387, R392) -/

/-- Element and scale bytes of token positions 0 to n - 1 in a head area of a format, as ranges of offset and length. -/
def tokenRanges (d fmt n : Nat) : List (Nat × Nat) :=
  let c := fmt % 32
  let elems := n * d * elemBits c / 8
  if isBlock c then [(0, elems), (ceilDiv (2 * d * elemBits c) 64 * 64, n * d / blockLen c)] else [(0, elems)]

/-- A byte string with each element's -0 made +0 and NaN canonical, as a trowel copies it. -/
def canonElems (fmt : Nat) (bs : List PByte) : List PByte :=
  let c := fmt % 32
  let w := elemBits c / 8
  if w = 0 then bs
  else
    (chunks w (bs.length / w + 1) bs).flatMap fun e =>
      let v := ofLe (e.map (·.b))
      let v' := match layOf c false with
        | some l => if (layDecode l v).isNaN then l.nanCode else if (layDecode l v).isZero then 0 else v
        | none => v
      if e.length = w then e.mapIdx fun i x => { x with b := nth (leBytes w v') i 0 } else e

/-- Bytes outside the copied ranges of a head area are undefined until written: free. -/
def freeRest (s : State) (area : Nat) (rs : List (Nat × Nat)) (dpa : Nat) : State :=
  let out := (List.range area).filter fun i => !rs.any fun r => decide (r.1 ≤ i) && decide (i < r.1 + r.2)
  let f := freeBytes s out.length
  (out.zip f.1).foldl (fun s x => writeMem s 4 225 .stream (dpa + x.1) [⟨x.2, false⟩]) f.2

/-- The copy of one head area from one frame, or from a page that has none and delivers poison (R393), to another. -/
def copyArea (s : State) (area d fmt n : Nat) (src : Option Nat) (dst : Nat) (trowel : Bool) : State :=
  let rs := tokenRanges d fmt n
  let s1 := freeRest s area rs dst
  rs.foldl (fun s r =>
    let x := match src with
      | some a => readMem s (if trowel then 2 else 4) .stream (a + r.1) r.2
      | none => (List.replicate r.2 ⟨0, true⟩, s)
    writeMem x.2 (if trowel then 2 else 4) 225 .stream (dst + r.1) (if trowel then canonElems fmt x.1 else x.1)) s1

/-- A copy of a step performed: every page of the source moved to the target where the target is placed here; then the
target leaves COPYING and the source's pin is released. -/
def performCopy (s : State) (m : Model) (src dst n : Nat) : State :=
  let a := entryAt s src
  let b := entryAt s dst
  let trowel := a.bank / 2 = b.bank / 2 ∧ trowelStoreOk (a.kfmt % 32) = true ∧ trowelStoreOk (a.vfmt % 32) = true
  let s1 :=
    if b.placed then
      let from_ := fun l h v => if a.placed then some (headDpa s m a.bank a.frame l h v) else none
      loopN m.lkv s fun l s => loopN m.hm s fun h s =>
        let k := copyArea s (headBytes m.d m.kfmt) m.d a.kfmt n (from_ l h false)
          (headDpa s m b.bank b.frame l h false) (decide trowel)
        copyArea k (headBytes m.d m.vfmt) m.d a.vfmt n (from_ l h true)
          (headDpa s m b.bank b.frame l h true) (decide trowel)
    else s
  let s2 := modEntry s1 dst fun e =>
    { e with state := if e.state ≠ .copying then e.state else if e.refcount ≤ 1 then .owned else .shared, src := 0 }
  settleEntry (dropPin s2 src) dst

/-- The copies of the step in progress, all performed before its first layer. -/
def performCopies (s : State) : State :=
  match s.srv.model, s.srv.core.run with
  | some m, some r => modRun (r.copies.foldl (fun s c => performCopy s m c.1 c.2.1 c.2.2) s) fun r => { r with copies := [] }
  | _, _ => s

/-! ### Retirement of frames (R384, R414) -/

/-- The location of a private bank index. -/
def bankPlace (p i : Nat) : Nat × Nat × Nat := (i / (8 * p) / 20, i / (8 * p) % 20, 64 - 8 * p + i % (8 * p))

/-- Whether a retirement covers a frame: one of its pages' rows lies in it. -/
def coversFrame (s : State) (m : Model) (r : Retire) (bank frame : Nat) : Bool :=
  let b := bankPlace s.mem.p bank
  r.stack == b.1 && r.die == b.2.1 && r.bank == b.2.2 &&
  (match r.page with
   | none => true
   | some g =>
     (List.range m.lkv).any fun l =>
       let lo := (l * m.f + frame) * m.rows
       decide (lo ≤ 8 * g + 7) && decide (8 * g < lo + m.rows))

/-- The ledger's part of a retirement: FREE frames it covers become RETIRED, blocks in use in it RETIRED with
retire_pending. -/
def retireFrames (s : State) (r : Retire) : State :=
  match s.srv.model with
  | none => s
  | some m =>
    let p := s.mem.p
    if p = 0 ∨ r.bank < 64 - 8 * p then s
    else
      let bank := bankIndex p r.stack r.die r.bank
      let s1 := loopN m.f s fun f s => if frameState s bank f = 0 ∧ coversFrame s m r bank f then setFrame s bank f 2 else s
      s1.srv.core.entries.foldl (fun s kv =>
        if kv.2.inUse && kv.2.placed && kv.2.bank == bank && coversFrame s m r bank kv.2.frame then
          raiseIf (setRegBit (modEntry s kv.1 fun e => { e with state := .retired, retirePending := true }) Reg.LDG_ERR 1)
            Reg.LDG_CTRL 0 0x0062 kv.1
        else s) s1

/-! ### Reserved stack memory (R302, R303, R378, R415, R486) -/

/-- The highest free range of `n` units of 64 KiB below the top of the interleaved region (the model's choice of
place). -/
def freeArea (s : State) (n : Nat) : Option Nat :=
  let top := interTop (stackCount s) s.mem.p / 0x10000
  let as := s.srv.areas
  (top :: as.map (·.base)).foldl (fun (b : Option Nat) e =>
    let ok := decide (n ≤ e) && as.all fun a => decide (e ≤ a.base) || decide (a.base + a.len ≤ e - n)
    if ok then (match b with | some x => some (max x (e - n)) | none => some (e - n)) else b) none

/-- Reserve a range for a user. -/
def reserve (s : State) (user n : Nat) : Option State :=
  (freeArea s n).map fun b => { s with srv := { s.srv with areas := s.srv.areas ++ [⟨user, b, n⟩] } }
/-- Give a user's ranges back. -/
def unreserve (s : State) (user : Nat) : State := { s with srv := { s.srv with areas := s.srv.areas.filter fun a => a.user ≠ user } }
/-- A user's range. -/
def areaOf (s : State) (user : Nat) : Option Area := s.srv.areas.find? fun a => a.user = user

/-! ### Page commands (R390, R466, R467, R484) -/

/-- Whether reference-changing page commands wait for the next admitted step: at a caravan's lead module (R484). -/
def defersPages (s : State) : Bool := s.cmd.role == .lead

/-- Status and state of PAGE_ALLOC of n blocks, whole or not at all (R466, R389). -/
def pageAlloc (s : State) (p : Packet) (m : Model) (n slot j : Nat) : State × Reply × List Nat :=
  let r := loopN n (some (([] : List Nat), s)) fun i a =>
    a.bind fun x => (allocBlock x.2 m slot (j + i)).map fun y => (x.1 ++ [y.1], y.2)
  match r with
  | some x => (x.2, doneC0 p n, x.1)
  | none => (ldgError s 2 0, reject p stBusy, [])

/-- References held by block tables (R382); the others are host references. -/
def tableRefs (s : State) (b : Nat) : Nat := s.srv.core.slots.foldl (fun n x => n + x.2.table.count b) 0

/-- Whether PAGE_REF or PAGE_FREE may name a block: in use, and not draining for the one, with a host reference for
the other. -/
def pageNames (s : State) (take : Bool) (b : Nat) : Bool :=
  let e := entryAt s b
  decide (b < 2097152) && e.inUse && (if take then e.refcount != 0 else decide (tableRefs s b < e.refcount))

/-- PAGE_REF or PAGE_FREE on a list of blocks, whole or not at all. -/
def pageRefs (s : State) (p : Packet) (take : Bool) (bs : List Nat) : State × Reply :=
  -- applied one by one on a trial state, so that a block named twice counts twice
  let r := bs.foldl (fun (a : State ⊕ (Nat × Nat)) b =>
    match a with
    | .inr e => .inr e
    | .inl s =>
      if !pageNames s take b then .inr (b, stBadParam)
      else
        match (if take then takeRef s b else dropRef s b) with
        | some s1 => .inl s1
        | none => .inr (b, if take then stBusy else stBadParam)) (.inl s)
  match r with
  | .inl s1 => (s1, doneC0 p bs.length)
  | .inr (b, st) => (if st = stBusy then ldgError s 2 b else s, rejectAt p st b 0xFFFFFFFF)

/-- Tokens of n blocks from host memory; none where one is at or above the vocabulary size (R394). -/
def hostTokens (hv : HostView) (a n : Nat) : Option (List (List Nat)) :=
  (hostImage hv a (64 * n) 4).map fun bs => (List.range n).map fun i => (List.range 16).map fun k => fieldAt bs (64 * i + 4 * k) 4

/-- Whether every token is in the vocabulary. -/
def tokensOk (m : Model) (ts : List (List Nat)) : Bool := ts.all fun t => t.all fun x => decide (x < m.vocab)

/-- A lookup's effects on the counters and the host references it takes; a reference that cannot be taken ends the
command BUSY (R382, R389). -/
def applyLookup (s : State) (p : Packet) (m : Model) (take : Bool) (ts : List (List Nat)) : State × Reply × List Nat :=
  let r := lookupAll s m (List.replicate 32 0) 0 ts
  let hits := r.1.length
  let s1 := bump (bump s Reg.PFX_HITS 32 32 hits) Reg.PFX_HITS 0 32 (if hits < ts.length then 1 else 0)
  let s2 := if r.2 then setRegBit s1 Reg.PFX_ERR 2 else s1
  if take then
    match takeAll takeRef s2 r.1 0 with
    | .inl s3 => (s3, doneC0 p hits, r.1)
    | .inr i => (ldgError s 2 (nth r.1 i 0), rejectAt p stBusy (nth r.1 i 0) 0xFFFFFFFF, [])
  else (s2, doneC0 p hits, r.1)

/-- A command that fills a window at once: BUSY where no window is free (R498). -/
def withWindow (s : State) (p : Packet) (fn bytes : Nat) (k : State → Nat → Verdict) : Verdict :=
  match allocWindow s fn bytes with
  | none => no s p stBusy
  | some (off, s1) => k s1 off

/-- Block indices as result bytes. -/
def idxBytes (bs : List Nat) : List PByte := clean (bs.flatMap (leBytes 4))

/-- Finish a windowed command: its words if it succeeded, tags clear otherwise (R499). -/
def windowed (s : State) (off : Nat) (r : Reply) (bs : List PByte) : Verdict :=
  if r.status < 0x0100 then .now (fillWindow s off bs) (r.withWindow off) else .now (closeWindow s off) r

/-- PREFIX_HASH. -/
def prefixHash (p : Packet) (hv : HostView) (s : State) (fn : Nat) : Verdict :=
  match s.srv.model with
  | none => no s p stWrongState
  | some m =>
    let n := prm p 0 0 17
    let j := prm p 4 0 32
    let par := prm p 16 0 64
    if j = 0 ∧ par ≠ 0 ∨ 65536 < n then no s p stBadParam
    else match hostTokens hv (prm p 8 0 64) n, (if j = 0 then some (List.replicate 32 0) else hostImage hv par 32 4) with
    | some ts, some parent =>
      if !tokensOk m ts then no (setRegBit s Reg.PFX_ERR 0) p stBadParam
      else withWindow s p fn (32 * n) fun s off => windowed s off (doneC0 p n) (clean (digests m parent ts).flatten)
    | _, _ => no s p (hostError hv ([(prm p 8 0 64, 64 * n, 4)] ++ if j = 0 then [] else [(par, 32, 4)]))
/-- PREFIX_HASH (R394, R397): the digests of n blocks. -/
def execPrefixHash (p : Packet) (hv : HostView) (s : State) : Host.Outcome State Fault Refusal :=
  command 0x0402 p (.prefixHash p hv) (prefixHash p hv) s

/-- PREFIX_LOOKUP. -/
def prefixLookup (p : Packet) (hv : HostView) (s : State) (fn : Nat) : Verdict :=
  match s.srv.model with
  | none => no s p stWrongState
  | some m =>
    let n := prm p 0 0 17
    let take := prm p 4 0 1 = 1
    if take ∧ s.cmd.work = .caravanLocked then no s p stWrongState
    else if 65536 < n then no s p stBadParam
    else match hostTokens hv (prm p 8 0 64) n with
    | none => no s p (hostError hv [(prm p 8 0 64, 64 * n, 4)])
    | some ts =>
      if !tokensOk m ts then no (setRegBit s Reg.PFX_ERR 0) p stBadParam
      else withWindow s p fn (4 * n) fun s off =>
        if take ∧ defersPages s then .later s (ts.flatten) (some off)
        else let r := applyLookup s p m (decide take) ts; windowed r.1 off r.2.1 (idxBytes r.2.2)
/-- PREFIX_LOOKUP (R397). -/
def execPrefixLookup (p : Packet) (hv : HostView) (s : State) : Host.Outcome State Fault Refusal :=
  command 0x0403 p (.prefixLookup p hv) (prefixLookup p hv) s

/-- PAGE_ALLOC's own checks: n from 1 to 4,096 and a sequence of at most 65,536 blocks. -/
def pageAllocOk (p : Packet) : Bool :=
  let n := prm p 0 0 13
  decide (1 ≤ n) && decide (n ≤ 4096) && decide (prm p 8 0 64 + n ≤ 65536)

/-- PAGE_ALLOC (R466, R484). -/
def execPageAlloc (p : Packet) (hv : HostView) (s : State) : Host.Outcome State Fault Refusal :=
  command 0x0404 p (.pageAlloc p hv) (fun s fn =>
    match s.srv.model with
    | none => no s p stWrongState
    | some m =>
      if !pageAllocOk p then no s p stBadParam
      else withWindow s p fn (4 * prm p 0 0 13) fun s off =>
        if defersPages s then .later s [] (some off)
        else let r := pageAlloc s p m (prm p 0 0 13) (prm p 4 0 12) (prm p 8 0 64); windowed r.1 off r.2.1 (idxBytes r.2.2)) s

/-- The block list of PAGE_REF and PAGE_FREE. -/
def blockList (p : Packet) (hv : HostView) : Option (List Nat) :=
  (hostImage hv (prm p 8 0 64) (4 * prm p 0 0 13) 4).map fun bs => (List.range (prm p 0 0 13)).map fun i => fieldAt bs (4 * i) 4

/-- PAGE_REF or PAGE_FREE begun: at once, or with the next admitted step (R484). -/
def pageRefBody (p : Packet) (hv : HostView) (take : Bool) (s : State) : Verdict :=
  match blockList p hv with
  | none => no s p (hostError hv [(prm p 8 0 64, 4 * prm p 0 0 13, 4)])
  | some bs =>
    if 4096 < bs.length then no s p stBadParam
    else if defersPages s then .later s bs none
    else let r := pageRefs s p take bs; .now r.1 r.2
/-- PAGE_REF (R466). -/
def execPageRef (p : Packet) (hv : HostView) (s : State) : Host.Outcome State Fault Refusal :=
  command 0x0405 p (.pageRef p hv) (fun s _ => pageRefBody p hv true s) s
/-- PAGE_FREE (R466). -/
def execPageFree (p : Packet) (hv : HostView) (s : State) : Host.Outcome State Fault Refusal :=
  command 0x0406 p (.pageFree p hv) (fun s _ => pageRefBody p hv false s) s

/-- A deferred page command applied in pass 1: whole or not at all, with its own status (R390). -/
def applyPage (s : State) (c : InProg) : State :=
  match s.srv.model with
  | none => s
  | some m =>
    let fin := fun (s1 : State) (r : Reply) (bs : List Nat) =>
      match c.window with
      | some off =>
        if r.status < 0x0100 then completeProg (fillWindow s1 off (idxBytes bs)) c (r.withWindow off)
        else completeProg (closeWindow s1 off) c r
      | none => completeProg s1 c r
    if c.op = 0x0404 then
      let r := pageAlloc s c.pkt m (prm c.pkt 0 0 13) (prm c.pkt 4 0 12) (prm c.pkt 8 0 64)
      fin r.1 r.2.1 r.2.2
    else if c.op = 0x0405 then let r := pageRefs s c.pkt true c.args; fin r.1 r.2 []
    else if c.op = 0x0406 then let r := pageRefs s c.pkt false c.args; fin r.1 r.2 []
    else if c.op = 0x0403 then let r := applyLookup s c.pkt m true (chunks 16 c.args.length c.args); fin r.1 r.2.1 r.2.2
    else s

/-- The deferred page commands in the order in which they began (R385). -/
def deferredPages (s : State) : List InProg := s.cmd.inProg.filter fun c => [0x0403, 0x0404, 0x0405, 0x0406].contains c.op

/-- The pages of a frame that PAGE_READ and PAGE_WRITE move: the DPA of each layer's page and its bytes. -/
def pageRanges (s : State) (m : Model) (e : LEntry) (p : Packet) : List (Nat × Nat) :=
  (List.range (prm p 4 8 8 + 1)).map fun i =>
    (interTop (stackCount s) s.mem.p + e.bank * 0x4000000 + ((prm p 4 0 8 + i) * m.f + e.frame) * m.rows * 2048, m.rows * 2048)

/-- A write to host memory, cut at 64-byte boundaries between clean and poisoned data (Table 13.10). -/
def hostWrite (s : State) (a : Nat) (bs : List PByte) : State :=
  let rec go : Nat → State → Nat → List PByte → State
    | 0, s, _, _ => s
    | k + 1, s, a, bs =>
      if bs.isEmpty then s
      else
        let n := 64 - a % 64
        let x := bs.take n
        let bad := x.any (·.poison)
        let s1 := emit s (.hostWrite a (x.map (·.b)) bad)
        go k (if bad then setRegBit s1 Reg.PCI_ERR 2 else s1) (a + n) (bs.drop n)
  go (bs.length + 1) s a bs

/-- PAGE_READ (R467): the pages of the named layers to host memory. -/
def execPageRead (p : Packet) (hv : HostView) (s : State) : Host.Outcome State Fault Refusal :=
  command 0x0407 p (.pageRead p hv) (fun s _ =>
    match s.srv.model with
    | none => no s p stWrongState
    | some m =>
      let b := prm p 0 0 21
      let e := entryAt s b
      if !e.inUse || e.state == .retired || !e.placed || decide (m.lkv < prm p 4 0 8 + prm p 4 8 8 + 1) then no s p stBadParam
      else
        match takePin s b with
        | none => no (ldgError s 2 b) p stBusy
        | some s0 =>
          let r := (pageRanges s m e p).foldl (fun (a : List PByte × State) g =>
            let x := readMem a.2 4 .stream g.1 g.2; (a.1 ++ x.1, x.2)) ([], s0)
          let s1 := dropPin (hostWrite r.2 (prm p 8 0 64) r.1) b
          .now s1 { doneC0 p r.1.length with status := if r.1.any (·.poison) then stPoisoned else stDone }) s

/-- PAGE_WRITE (R377, R467): host bytes into the pages of an OWNED frame. -/
def execPageWrite (p : Packet) (hv : HostView) (s : State) : Host.Outcome State Fault Refusal :=
  command 0x0408 p (.pageWrite p hv) (fun s _ =>
    match s.srv.model with
    | none => no s p stWrongState
    | some m =>
      let b := prm p 0 0 21
      let e := entryAt s b
      let kf := prm p 16 0 6
      let vf := prm p 16 8 6
      let n := prm p 4 8 8 + 1
      let whole := prm p 4 0 8 = 0 ∧ n = m.lkv
      let same := kf = e.kfmt ∧ vf = e.vfmt
      if !e.inUse || e.state == .retired || !e.placed then no s p stBadParam
      else if e.state ≠ .owned ∨ e.refcount ≠ 1 then no s p stWrongState
      else if m.lkv < prm p 4 0 8 + n then no s p stBadParam
      else if ¬ same ∧ (¬ whole ∨ e.fill < 16 ∨ fitsArea m.d (headBytes m.d m.kfmt) kf = false
                        ∨ fitsArea m.d (headBytes m.d m.vfmt) vf = false) then no s p stBadParam
      else
        match takePin s b with
        | none => no (ldgError s 2 b) p stBusy
        | some s0 =>
          let d := hostData s0 hv (prm p 8 0 64) (n * m.rows * 2048)
          let r := (pageRanges s m e p).foldl (fun (a : List PByte × State) g =>
            (a.1.drop g.2, writeMem a.2 4 225 .stream g.1 (a.1.take g.2))) d
          let s1 := dropPin (modEntry r.2 b fun e => { e with kfmt := kf, vfmt := vf }) b
          .now s1 { doneC0 p d.1.length with status := if d.1.any (·.poison) then stPoisoned else stDone }) s

/-- BLOCK_TABLE_READ (R381). -/
def execBlockTableRead (p : Packet) (hv : HostView) (s : State) : Host.Outcome State Fault Refusal :=
  command 0x0409 p (.blockTableRead p hv) (fun s fn =>
    let n := prm p 8 0 17
    if n = 0 ∨ 65536 < n then no s p stBadParam
    else
      let x := slotAt s (prm p 0 0 12)
      let es := (x.table.drop (prm p 4 0 32)).take n
      withWindow s p fn (4 * n) fun s off => windowed s off (doneC0 p es.length) (idxBytes es)) s

/-! ### Registers with checks (R412, R413) -/

/-- A write of LDG_ENTRY_SEL, ignored in whole with a nonzero reserved field. -/
def writeEntrySel (s : State) (v : Nat) : State :=
  if 2 ^ 21 ≤ v then setRegBit s Reg.LDG_ERR 0 else setReg s Reg.LDG_ENTRY_SEL v
/-- LDG_ENTRY_SEL. -/
def execLdgEntrySel (v : W64) (s : State) : Host.Outcome State Fault Refusal := .next (writeEntrySel s v.toNat)

/-- A write of LDG_CTRL. -/
def writeLdgCtrl (s : State) (v : Nat) : State :=
  let s1 := plainWrite s Reg.LDG_CTRL v
  if bitAt v 7 then setReg s1 Reg.LDG_OPS 0 else s1
/-- LDG_CLR_COUNTERS: a write of LDG_CTRL with clr_counters set. -/
def execLdgClrCounters (v : W64) (s : State) : Host.Outcome State Fault Refusal := .next (writeLdgCtrl s (v ||| 0x80).toNat)

/-- A write of PFX_CTRL. -/
def writePfxCtrl (s : State) (v : Nat) : State :=
  let s1 := plainWrite s Reg.PFX_CTRL v
  if bitAt v 7 then setField (setReg s1 Reg.PFX_HITS 0) Reg.PFX_STATUS 0 18 0 else s1
/-- PFX_CLR_COUNTERS: a write of PFX_CTRL with clr_counters set. -/
def execPfxClrCounters (v : W64) (s : State) : Host.Outcome State Fault Refusal := .next (writePfxCtrl s (v ||| 0x80).toNat)

/-- The number of entries in a state. -/
def countState (s : State) (x : LState) : Nat := (s.srv.core.entries.filter fun kv => kv.2.state = x).length

/-- The 128 bits of an entry (Table 10.2). -/
def LEntry.bits (e : LEntry) : Nat :=
  let st := match e.state with | .free => 0 | .owned => 1 | .shared => 2 | .copying => 3 | .retired => 4
  e.refcount * 2 ^ 112 + e.pins * 2 ^ 99 + st * 2 ^ 96 + e.kfmt * 2 ^ 90 + e.vfmt * 2 ^ 84 + e.fill * 2 ^ 79
    + b2n e.indexed * 2 ^ 78 + e.src * 2 ^ 57 + b2n e.placed * 2 ^ 43 + b2n e.retirePending * 2 ^ 42 + e.bank * 2 ^ 30
    + e.frame * 2 ^ 20 + e.pfx

/-- What the LDG_ and PFX_ registers that mirror the ledger read; none for the others. -/
def ledgerView (s : State) (a : Nat) : Option Nat :=
  let m? := s.srv.model
  if a = Reg.LDG_GEOM then
    some (match m? with
      | none => 0
      | some m => m.lkv * 2 ^ 55 + m.hm * 2 ^ 48 + (if m.d = 64 then 0 else if m.d = 128 then 1 else 2) * 2 ^ 46 + m.layout * 2 ^ 44
          + m.f * 2 ^ 33 + m.rows * 2 ^ 23 + m.glog2 * 2 ^ 18 + m.p * 2 ^ 16)
  else if a = Reg.LDG_FMT then
    some (match m? with | none => 0 | some m => m.kfmt * 2 ^ 48 + m.vfmt * 2 ^ 32 + m.qfmt * 2 ^ 16 + b2n m.wide)
  else if a = Reg.LDG_COUNT_0 then
    some (match m? with
      | none => 0
      | some m => (stackCount s * 160 * s.mem.p * m.f - s.srv.core.frames.length) * 2 ^ 32 + countState s .owned)
  else if a = Reg.LDG_COUNT_1 then some (countState s .shared * 2 ^ 32 + countState s .copying)
  else if a = Reg.LDG_COUNT_2 then
    some ((s.srv.core.frames.filter fun kv => kv.2 = 2).length * 2 ^ 32
      + (s.srv.core.entries.filter fun kv => kv.2.retirePending).length)
  else if a = Reg.LDG_AREA then some (match areaOf s 0 with | some x => x.len * 2 ^ 40 + x.base * 2 ^ 16 | none => 0)
  else if a = Reg.LDG_ENTRY_LO then some ((entryAt s (reg s Reg.LDG_ENTRY_SEL)).bits % 2 ^ 64)
  else if a = Reg.LDG_ENTRY_HI then some ((entryAt s (reg s Reg.LDG_ENTRY_SEL)).bits / 2 ^ 64)
  else if a = Reg.PFX_MODE then some (match m? with | none => 0 | some m => b2n m.verify * 2 + b2n m.autoIndex)
  else if a = Reg.PFX_SALT_0 then some (match m? with | none => 0 | some m => fieldAt m.salt 0 8)
  else if a = Reg.PFX_SALT_1 then some (match m? with | none => 0 | some m => fieldAt m.salt 8 8)
  else if a = Reg.PFX_STATUS then some (s.srv.core.index.length * 2 ^ 32 + regField s Reg.PFX_STATUS 0 18)
  else none

end Sys2Proof.Machine
end

