-- ==== Sys2Proof/Machine/Steps.lean ====
section
/-!
DEFINITION. Serving steps (chapter 11): the manifest, its checks, admission to slots and ledger, completion, and the
result records.
-/
namespace Sys2Proof.Machine

/-! ### The manifest (Tables 11.4 and 11.5) -/

/-- Word i of an entry. -/
def MEntry.w (e : MEntry) (i : Nat) : Nat := nth e.words i 0
/-- action: 0 CONTINUE, 1 JOIN, 2 LEAVE, 3 SKIP. -/
def MEntry.action (e : MEntry) : Nat := bitsOf (e.w 0) 30 2
def MEntry.reissue (e : MEntry) : Bool := bitAt (e.w 0) 29
def MEntry.constrained (e : MEntry) : Bool := bitAt (e.w 0) 28
def MEntry.useSampled (e : MEntry) : Bool := bitAt (e.w 0) 27
def MEntry.emitBit (e : MEntry) : Bool := bitAt (e.w 0) 26
def MEntry.msrc (e : MEntry) : Nat := bitsOf (e.w 0) 24 2
def MEntry.tenant (e : MEntry) : Nat := bitsOf (e.w 0) 12 8
def MEntry.slot (e : MEntry) : Nat := bitsOf (e.w 0) 0 12
def MEntry.chunk (e : MEntry) : Nat := bitsOf (e.w 1) 0 17
def MEntry.adapter (e : MEntry) : Nat := bitsOf (e.w 3) 24 8
def MEntry.generation (e : MEntry) : Nat := bitsOf (e.w 3) 8 16
def MEntry.adapterEn (e : MEntry) : Bool := bitAt (e.w 3) 7
def MEntry.deadline (e : MEntry) : Nat := bitsOf (e.w 5) 0 16 * 2 ^ 32 + e.w 4
/-- DPA of the sampler parameter block; zero for the defaults. -/
def MEntry.params (e : MEntry) : Nat := e.w 6 * 256
def MEntry.maskCount (e : MEntry) : Nat := bitsOf (e.w 7) 0 13
def MEntry.grammar (e : MEntry) : Nat := bitsOf (e.w 7) 0 6
def MEntry.maskRef (e : MEntry) : Nat := e.w 8
def MEntry.prefixCount (e : MEntry) : Nat := bitsOf (e.w 9) 0 17

/-- Whether an entry computes: a JOIN or CONTINUE that is not skipped. -/
def MEntry.runs (e : MEntry) : Bool := e.action == 0 || e.action == 1
/-- Whether an entry emits (R426). -/
def MEntry.emits (e : MEntry) : Bool := e.runs && e.emitBit

/-- An entry rewritten to SKIP. -/
def MEntry.skip (e : MEntry) : MEntry := { e with words := e.words.set 0 (setBits (e.w 0) 30 2 3) }

/-- Whether a reserved field of an entry is nonzero. -/
def MEntry.reservedSet (e : MEntry) : Bool :=
  bitsOf (e.w 0) 20 4 != 0 || e.w 1 / 2 ^ 17 != 0 || e.w 3 % 2 ^ 7 != 0 || e.w 5 / 2 ^ 16 != 0 || e.w 7 / 2 ^ 13 != 0
  || e.w 9 / 2 ^ 17 != 0 || e.w 11 != 0 || (e.useSampled && e.w 2 != 0)

/-- A list of `n` 32-bit elements of the image, aligned and inside it after the entries; none otherwise. -/
def imageList (img : List Byte) (entries off n : Nat) : Option (List Nat) :=
  if n = 0 then some []
  else if off % 4 = 0 ∧ 32 + 48 * entries ≤ off ∧ off + 4 * n ≤ img.length then
    some ((List.range n).map fun i => fieldAt img (off + 4 * i) 4)
  else none

/-- Entry i of an image, with its lists; none where a list lies outside. -/
def readEntry (img : List Byte) (n i : Nat) : Option MEntry :=
  let e : MEntry := ⟨(List.range 12).map fun k => fieldAt img (32 + 48 * i + 4 * k) 4, [], [], []⟩
  let tokens := if e.runs && !e.useSampled then imageList img n (e.w 2) e.chunk else some []
  let blocks := if e.action = 1 then imageList img n (e.w 10) e.prefixCount else some []
  let masks := if e.constrained && e.msrc == 1 then imageList img n e.maskRef e.maskCount else some []
  match tokens, blocks, masks with
  | some t, some b, some m => some { e with tokens := t, blocks := b, masks := m }
  | _, _, _ => none

/-! ### Sampler parameter blocks (R435) -/

/-- A sampler parameter block as read from memory. -/
structure SParams where
  seed : Nat
  temperature : Nat
  topP : Nat
  minP : Nat
  repetition : Nat
  frequency : Nat
  presence : Nat
  topK : Nat
  window : Nat
  bias : List (Nat × Nat)
  deriving DecidableEq, Repr

/-- Greedy choice with no bias and no penalty. -/
def SParams.greedy : SParams :=
  { seed := 0, temperature := 0, topP := 0x3F800000, minP := 0, repetition := 0x3F800000, frequency := 0, presence := 0,
    topK := 0, window := 0, bias := [] }

/-- A parameter block's 576 bytes read. -/
def paramBytes (s : State) (dpa : Nat) : List Byte := (readMem s 4 .normal dpa 576).1.map (·.b)

/-- Whether a poisoned byte stands in it. -/
def paramBad (s : State) (dpa : Nat) : Bool := (readMem s 4 .normal dpa 576).1.any (·.poison)

/-- The fields of a parameter block. -/
def readParams (bs : List Byte) : SParams :=
  { seed := fieldAt bs 0 8, temperature := fieldAt bs 8 4, topP := fieldAt bs 12 4, minP := fieldAt bs 16 4,
    repetition := fieldAt bs 20 4, frequency := fieldAt bs 24 4, presence := fieldAt bs 28 4, topK := fieldAt bs 32 2,
    window := fieldAt bs 34 2,
    bias := (List.range (min 64 (fieldAt bs 36 1))).map fun i => (fieldAt bs (64 + 8 * i) 4, fieldAt bs (68 + 8 * i) 4) }

/-- Whether an FP32 value is finite. -/
def f32Finite (v : Nat) : Bool := !(f32 v).isNaN && !(f32 v).isInf

/-- Whether a parameter block is valid (R435). -/
def paramsOk (m : Model) (bs : List Byte) : Bool :=
  let p := readParams bs
  let le := fun a b => !f32Lt b a
  f32Finite p.temperature && le 0 p.temperature && f32Finite p.topP && f32Lt 0 p.topP && le p.topP 0x3F800000
  && f32Finite p.minP && le 0 p.minP && le p.minP 0x3F800000 && f32Finite p.repetition && f32Lt 0 p.repetition
  && f32Finite p.frequency && f32Finite p.presence && decide (p.topK ≤ 1024) && decide (p.window ≤ 4096)
  && decide (fieldAt bs 36 1 ≤ 64) && (p.bias.all fun b => decide (b.1 < m.vocab) && f32Finite b.2)
  && ((bs.drop 37).take 27).all (· == 0)

/-! ### Checks of R420 -/

/-- The tenant's class and enable. -/
def tenantAt (s : State) (t : Nat) : Bool × Bool := mgetD (false, false) s.srv.tenants t
/-- An empty adapter slot. -/
def AdSlot.reset : AdSlot := { cur := none, ret := none, load := none, curUse := 0, retUse := 0 }
/-- An adapter slot. -/
def adapterAt (s : State) (a : Nat) : AdSlot := mgetD AdSlot.reset s.srv.adapters a
/-- An adapter slot replaced. -/
def setAdapter (s : State) (a : Nat) (x : AdSlot) : State :=
  { s with srv := { s.srv with adapters := mput AdSlot.reset s.srv.adapters a x } }

/-- Tokens that a JOIN's prefix blocks bring (R424). -/
def prefixTokens (s : State) (e : MEntry) : Nat := e.blocks.foldl (fun n b => n + (entryAt s b).fill) 0

/-- The slot's length after the step. -/
def lengthAfter (s : State) (e : MEntry) : Nat :=
  (if e.action = 1 then prefixTokens s e else (slotAt s e.slot).t) + e.chunk

/-- Whether a JOIN's prefix list may be shared. -/
def prefixOk (s : State) (bs : List Nat) : Bool :=
  (bs.mapIdx fun i b =>
    let e := entryAt s b
    decide (b < 2097152) && (e.state == .owned || e.state == .shared) && e.refcount != 0
      && (i + 1 == bs.length || decide (16 ≤ e.fill))).all id

/-- Whether the formats of a JOIN's block can be read (R411). -/
def blockReadable (m : Model) (e : LEntry) : Bool :=
  (workForm (e.kfmt % 32) m.wide).isSome && (workForm (e.vfmt % 32) m.wide).isSome
  && isInt (e.kfmt % 32) == isInt (m.qfmt % 32) && !isInt (e.vfmt % 32)

/-- Why an entry fails R420, if it does: whether its seed clashes (R437). `seed` is the itinerary's rounding seed. The rules
of chunk, tokens, prefix and length bind JOIN and CONTINUE alone, for a LEAVE appends nothing: DEDUCED. -/
def entryFails (s : State) (m : Model) (seed : Nat) (e : MEntry) : Option Bool :=
  let t := tenantAt s e.tenant
  let x := slotAt s e.slot
  let pb := paramBytes s e.params
  let bad :=
    e.reservedSet || e.action == 3 || e.msrc == 3 || !t.2 || t.1 != e.constrained
    || (e.action == 0 && x.state != 0 && x.tenant != e.tenant)
    || e.masks.any (fun k => decide (m.vocab ≤ k))
    || (!e.constrained && e.msrc != 0) || (e.constrained && e.emitBit && e.msrc == 0)
    || (e.constrained && e.msrc == 1 && (e.maskCount == 0 || decide (4096 < e.maskCount)))
    || (e.constrained && e.msrc == 2 && (match mget s.srv.grammars e.grammar with
         | some g => decide (g.maskOf.length ≤ e.maskRef)
         | none => true))
    || (e.adapterEn && (match (adapterAt s e.adapter).cur with | some c => c.1 != e.generation | none => true))
    || (e.runs &&
        (e.chunk == 0 || decide (65536 < e.chunk)
         || (e.useSampled && (e.chunk != 1 || e.constrained || x.last.isNone))
         || e.tokens.any (fun k => decide (m.vocab ≤ k))
         || (e.emitBit && e.params != 0 && !(memRange s e.params 576 && paramsOk m pb))
         || (e.action == 1 && (decide (65536 < e.prefixCount) || !prefixOk s e.blocks))
         || (e.action == 0 && e.prefixCount != 0)
         || decide (1048576 < lengthAfter s e)))
  if bad then some false
  else if e.emits && e.params != 0 && (readParams pb).seed == seed then some true
  else none

/-- The bucket of a slot of a length (R402). -/
def bucketOf (t : Nat) : Nat :=
  let pages := ceilDiv t 16
  if pages ≤ 1 then 0 else (pages - 1).log2 + 1

/-- The shape of a step: its 17 bucket counts and its prefill tokens (R402, R403). -/
def shapeOf (s : State) (es : List MEntry) : List Nat :=
  let rs := es.filter (·.runs)
  ((List.range 17).map fun b => (rs.filter fun e => bucketOf (lengthAfter s e) = b).length)
    ++ [rs.foldl (fun n e => n + e.chunk) 0]

/-- Whether a variant's capacities cover a shape. -/
def covers (shape caps : List Nat) : Bool := (List.range 18).all fun i => decide (nth shape i 0 ≤ nth caps i 0)

/-- Table 11.6 and R430 on one entry: the entry, SKIP where it is skipped, with the status of its record and whether
the slot becomes HELD with cause LATE. -/
def triage (s : State) (sendBell : Nat) (e : MEntry) : MEntry × Nat × Bool :=
  let x := slotAt s e.slot
  let legal := match e.action, x.state with
    | 1, 0 => true
    | 0, 1 => true
    | 0, 2 => x.cause != 4 && e.reissue
    | 2, 1 => true
    | 2, 2 => true
    | _, _ => false
  if !legal then (e.skip, stWrongState, false)
  else if e.runs && e.deadline != 0 && decide (e.deadline ≤ sendBell) then (e.skip, stDoneLate, e.action == 0)
  else (e, stDone, false)

/-- An entry's outcome at the start. -/
def SRes.fresh (status : Nat) (ran : Bool) : SRes :=
  { status := status, token := none, cands := [], ran := ran, empty := false, poison := false, flags := .none, logp := 0,
    set := 0, ready := false }

/-- A step about to be admitted. -/
def StepRun.fresh (index : Nat) (es : List MEntry) (rs : List SRes) : StepRun :=
  { index := index, entries := es, res := rs, admitted := false, pinned := [], copies := [], inserts := [], smpq := [],
    stnq := [], smpN := 0, stnN := 0 }

/-! ### Admission (R385, R386, R424) -/

/-- A LEAVE: the slot's references released, the slot FREE. -/
def admitLeave (s : State) (e : MEntry) : State :=
  let s1 := (slotAt s e.slot).table.foldl (fun s b => (dropRef s b).getD s) s
  setSlot s1 e.slot Slot.reset

/-- The chain of a JOIN: from the start, from the last prefix block's digest, or none (R395). -/
def joinChain (s : State) (bs : List Nat) : Option (List Byte) :=
  match bs.getLast? with
  | none => some (List.replicate 32 0)
  | some b =>
    let e := entryAt s b
    if e.fill = 16 ∧ e.indexed = true then (mget s.srv.core.index e.pfx).map (·.digest) else none

/-- A JOIN or CONTINUE: window, tokens and length; references, appends and pins. None where R389 or R390 refuses it. -/
def admitEntry (m : Model) (s : State) (e : MEntry) : Option State :=
  let x := slotAt s e.slot
  let tokens := if e.useSampled then [x.last.getD 0] else e.tokens
  let joined :=
    if e.action = 1 then
      match takeAll takeRef s e.blocks 0 with
      | .inr _ => none
      | .inl s1 =>
        let y := { Slot.reset with state := 1, tenant := e.tenant, constrained := e.constrained }
        some (setSlot s1 e.slot { y with t := prefixTokens s1 e, table := e.blocks, chain := joinChain s1 e.blocks })
    else some (modSlot s e.slot fun x => { x with state := 1, cause := 0 })
  joined.bind fun s1 =>
    let j := (slotAt s1 e.slot).t / 16
    let s2 := modSlot s1 e.slot fun x =>
      { x with t := x.t + e.chunk, window := (x.window ++ tokens).drop ((x.window ++ tokens).length - 4096),
               pend := if x.chain.isSome then x.pend ++ tokens else [] }
    (appendTokens m e.slot (e.chunk + 2) s2 e.chunk).bind fun s3 =>
      let s4 := advanceChain m e.slot (e.chunk + 1) s3 j
      (slotAt s4 e.slot).table.foldl (fun (a : Option State) b => a.bind fun s => pinForStep s b) (some s4)

/-- Whether a slot reads a page that this member should hold and has not placed (R393). -/
def unplaced (s : State) (m : Model) (slot : Nat) : Bool :=
  ((slotAt s slot).table.mapIdx fun j b => holdsBlock s m j && !(entryAt s b).placed).any id

/-- The three passes of R385 over the entries of the step in progress; pass 1 has been applied by the caller. None
where no entry, reference or pin is left. -/
def admitEntries (s : State) (m : Model) (es : List MEntry) : Option State :=
  let s1 := (es.filter fun e => e.action = 2).foldl admitLeave s
  (es.filter (·.runs)).foldl (fun (a : Option State) e => a.bind fun s => admitEntry m s e) (some s1)

/-- The slots of the plan that read a block, or a block pair, by (first block number, blocks). -/
def planUnits (s : State) (m : Model) (slot : Nat) : List (Nat × List Nat) :=
  let t := (slotAt s slot).table
  (List.range (ceilDiv t.length 2)).flatMap fun i =>
    let here := fun j => match t[j]? with | some b => if (entryAt s b).placed && holdsBlock s m j then some b else none | none => none
    match here (2 * i), here (2 * i + 1) with
    | some a, some b =>
      let x := entryAt s a
      let y := entryAt s b
      if x.bank / 2 = y.bank / 2 ∧ x.kfmt = y.kfmt ∧ x.vfmt = y.vfmt then [(2 * i, [a, b])] else [(2 * i, [a]), (2 * i + 1, [b])]
    | some a, none => [(2 * i, [a])]
    | none, some b => [(2 * i + 1, [b])]
    | none, none => []

/-- One command's plan: slots that read the same blocks, at most 512 / d of them. -/
def planCmd (s : State) (slots : List Nat) (first : Nat) (bs : List Nat) (head : Nat) : PlanCmd :=
  let e := entryAt s (nth bs 0 0)
  let p := bankPlace s.mem.p e.bank
  { stack := p.1, trowel := 32 * p.2.1 + p.2.2 / 2, slots := slots, first := first,
    blocks := bs.map fun b => ((entryAt s b).frame, (entryAt s b).fill), head := head, kfmt := e.kfmt, vfmt := e.vfmt }

/-- Attention plan lists, in ascending (slot, first block, head) order (R405). -/
def attentionPlans (s : State) (m : Model) (es : List MEntry) : List PlanCmd :=
  let units := (es.filter (·.runs)).flatMap fun e => (planUnits s m e.slot).map fun u => (e.slot, u.1, u.2)
  -- a command serves up to 512 / d slots that read the same blocks: a unit opens a command unless it joins one
  let cap := 512 / m.d
  let groups := units.foldl (fun (gs : List (List Nat × Nat × List Nat)) u =>
    if gs.any (fun g => g.2.2 == u.2.2 && g.2.1 == u.2.1 && decide (g.1.length < cap)) then
      gs.map fun g => if g.2.2 == u.2.2 && g.2.1 == u.2.1 && decide (g.1.length < cap) then (g.1 ++ [u.1], g.2.1, g.2.2) else g
    else gs ++ [([u.1], u.2.1, u.2.2)]) []
  groups.flatMap fun g => (List.range m.hm).map fun h => planCmd s g.1 g.2.1 g.2.2 h

/-- Use counts of the adapter generations that the entries name, advanced or reduced by the step (R445). -/
def adapterUse (s : State) (es : List MEntry) (up : Bool) : State :=
  let named := (es.filter fun e => e.runs && e.adapterEn).map fun e => (e.adapter, e.generation)
  named.eraseDups.foldl (fun s n =>
    let a := adapterAt s n.1
    let f := fun k => if up then k + 1 else k - 1
    let isGen := fun (g : Option (Nat × Nat)) => match g with | some c => c.1 == n.2 | none => false
    if isGen a.cur then setAdapter s n.1 { a with curUse := f a.curUse }
    else if isGen a.ret then setAdapter s n.1 { a with retUse := f a.retUse }
    else s) s

/-- A member's admission of the step in progress: entries, ledger, plans, and the marks of slots that read what is not
there (R385, R393, R405, R424, R446). -/
def admitStep (s : State) (m : Model) (r : StepRun) : Option State :=
  (admitEntries (modCore s fun c => { c with run := some r }) m r.entries).map fun s1 =>
    let late := s1.srv.core.run.map fun r1 =>
      { r1 with admitted := true,
                res := (r1.res.zip r1.entries).map fun x =>
                  let noAd := x.2.adapterEn && (match (adapterAt s1 x.2.adapter).cur with | some c => c.1 != x.2.generation | none => true)
                  if x.2.runs && (unplaced s1 m x.2.slot || noAd) then { x.1 with poison := true } else x.1 }
    adapterUse (modCore s1 fun c => { c with run := late, plans := attentionPlans s1 m r.entries }) r.entries true

/-! ### Completion (R427 to R434) -/

/-- The hold cause that the outcome of an entry of a completed step gives (Table 11.3), 0 for none. -/
def holdCause (r : SRes) (late : Bool) : Nat :=
  if r.poison then 2 else if late then 1 else if r.empty then 3 else 0

/-- Whether an entry's record comes after its deadline: it is written in the bell after the release (R430). -/
def entryLate (s : State) (e : MEntry) : Bool := e.deadline != 0 && decide (e.deadline < s.bell + 1)

/-- The status of a record. -/
def recordStatus (r : SRes) (late missed : Bool) : Nat :=
  if missed then stMissed else if r.poison then stPoisoned else if late then stDoneLate else r.status

/-- A result record (Table 11.8). -/
def recordBytes (s : State) (e : MEntry) (r : SRes) (status candOff : Nat) : List Byte :=
  let x := slotAt s e.slot
  let w := fun v => leBytes 4 v
  w (status * 2 ^ 16 + e.slot) ++ w (r.token.getD 0xFFFFFFFF)
    ++ w (r.cands.length * 2 ^ 16 + b2n e.constrained * 2 ^ 9 + b2n r.ran * 2 ^ 8 + b2n r.empty * 2 ^ 7 + r.flags.bits)
    ++ w r.logp ++ w r.set ++ w x.t ++ w candOff ++ w x.cause

/-- A candidate list: 64 pairs of token and log-probability. -/
def candBytes (r : SRes) : List Byte := padTo 512 (r.cands.flatMap fun c => leBytes 4 c.1 ++ leBytes 4 c.2)

/-- The result area (R428). -/
def resultArea (s : State) (es : List (MEntry × SRes)) (status : SRes → MEntry → Nat) : List Byte :=
  let lists := es.filter fun x => x.1.emits && x.1.constrained
  let base := 32 * es.length
  (es.mapIdx fun i x =>
    let k := ((es.take i).filter fun y => y.1.emits && y.1.constrained).length
    recordBytes s x.1 x.2 (status x.2 x.1) (if x.1.emits && x.1.constrained then base + 512 * k else 0)).flatten
  ++ (lists.map fun x => candBytes x.2).flatten

/-- Element and scale bytes of token positions lo to hi - 1 in a head area of a format. -/
def positionRanges (d fmt lo hi : Nat) : List (Nat × Nat) :=
  ((tokenRanges d fmt lo).zip (tokenRanges d fmt hi)).map fun x => (x.2.1 + x.1.2, x.2.2 - x.1.2)

/-- Token positions lo to hi - 1 of a head area undefined: free. -/
def undefineArea (s : State) (d fmt lo hi dpa : Nat) : State :=
  (positionRanges d fmt lo hi).foldl (fun s r =>
    let f := freeBytes s r.2
    writeMem f.2 4 225 .stream (dpa + r.1) (clean f.1)) s

/-- The KV positions that a step which missed a waystation had reserved for an entry hold undefined values: free bytes
in the blocks placed here (R429). -/
def undefineReserved (s : State) (m : Model) (e : MEntry) : State :=
  let x := slotAt s e.slot
  let first := x.t - e.chunk
  x.table.zipIdx.foldl (fun s bj =>
    let b := entryAt s bj.1
    let lo := max first (16 * bj.2) - 16 * bj.2
    let hi := min 16 (x.t - 16 * bj.2)
    if !b.placed || !holdsBlock s m bj.2 || decide (hi ≤ lo) then s
    else
      loopN m.lkv s fun l s => loopN m.hm s fun h s =>
        let k := undefineArea s m.d b.kfmt lo hi (headDpa s m b.bank b.frame l h false)
        undefineArea k m.d b.vfmt lo hi (headDpa s m b.bank b.frame l h true)) s

/-- One slot after its entry: its step index, token, adapter and hold (R427, R433); where the run ended, the hold
ABORTED alone (R429). -/
def settleSlot (s : State) (e : MEntry) (r : SRes) (missed : Bool) : State :=
  if !e.runs then s
  else if missed then modSlot s e.slot fun x => { x with state := 2, cause := 4 }
  else
    let late := entryLate s e
    let cause := holdCause r late
    let s1 := modSlot s e.slot fun x =>
      { x with steps := x.steps + 1, adapter := if e.adapterEn then e.adapter else x.adapter,
               gen := if e.adapterEn then e.generation else x.gen,
               last := if e.emits && !e.constrained then (if r.poison || r.empty then none else r.token) else x.last,
               state := if cause = 0 then 1 else 2, cause := cause }
    let s2 := if cause = 2 then raiseIf (setRegBit s1 Reg.SMP_ERR 3) Reg.SMP_CTRL 1 0x0069 e.slot else s1
    let s3 := if cause = 1 then raiseIf (setRegBit s2 Reg.SMP_ERR 1) Reg.SMP_CTRL 2 0x0068 e.slot else s2
    if cause = 3 then setRegBit s3 Reg.SMP_ERR 2 else s3

/-- Retiring generations whose use count has reached zero are freed (R445). -/
def freeRetired (s : State) : State :=
  { s with srv := { s.srv with adapters := (s.srv.adapters.map fun kv =>
      if kv.2.retUse = 0 then (kv.1, { kv.2 with ret := none }) else kv).filter fun kv => kv.2 ≠ AdSlot.reset } }

/-- A step completes, or ends with MISSED_WAYSTATION: the effects of R427 in order; `owner` is the STEP in progress at
the lead module. -/
def finishStep (s : State) (missed : Bool) (owner : Option InProg) : State :=
  match s.srv.model, s.srv.core.run with
  | some m, some r0 =>
    let s0 := performCopies s
    let s1 := r0.pinned.foldl dropPin s0
    let s2 := if missed then s1 else r0.inserts.foldl (fun s i => insertPrefix s m i.2.1 i.2.2.1 i.2.2.2) s1
    let es := r0.entries.zip r0.res
    let s3a := if missed && r0.admitted then (r0.entries.filter (·.runs)).foldl (fun s e => undefineReserved s m e) s2 else s2
    let s3 := es.foldl (fun s x => settleSlot s x.1 x.2 missed) s3a
    let s4 := freeRetired (adapterUse s3 r0.entries false)
    let stOf := fun (r : SRes) (e : MEntry) => if e.runs then recordStatus r (entryLate s e) missed else r.status
    let sts := es.map fun x => stOf x.2 x.1
    let late := sts.count stDoneLate
    let s5 := raiseIf (bump s4 Reg.SMP_COUNT 0 32 late) Reg.SMP_CTRL 0 0x006A (r0.index % 2 ^ 32)
    let s6 := modCore s5 fun c => { c with run := none, plans := [] }
    match owner with
    | none => s6
    | some c =>
      let ran := (es.filter fun x => x.1.runs && x.2.ran).length
      let skipped := (r0.entries.filter fun e => e.action = 3).length
      let rep := { plainReply c.pkt (if missed then stMissed else stDone) ran skipped late (sts.count stPoisoned)
                   with flags := s.itn.flags, poison := s.itn.poisoned }
      match c.window with
      | some off =>
        completeProg (fillWindow s6 off (clean (resultArea s6 es stOf))) c (rep.withWindow off)
      | none => completeProg s6 c rep
  | _, _ => match owner with
    | some c => completeProg s c (plainReply c.pkt (if missed then stMissed else stDone) 0 0 0 0)
    | none => s

/-! ### Launches of a plan (R215, R405, R406) -/

/-- The valid tokens of a block of a command, and of the command: no position at or beyond a block's fill is scored or
weighted (R406). -/
def PlanCmd.tokens (c : PlanCmd) (i : Nat) : Nat := (nth c.blocks i (0, 0)).2
def PlanCmd.valid (c : PlanCmd) : Nat := (c.blocks.map (·.2)).sum

/-- A parameter given a value. -/
def setParam (ps : List W16) (i : Option Nat) (v : Nat) : List W16 :=
  match i with | some k => ps.set k (BitVec.ofNat 16 v) | none => ps

/-- The parameters of a block that a command reads: the row and the beat of 64 bytes at which its head's data begin. -/
def blockParams (m : Model) (a : AttnPlan) (c : PlanCmd) (i : Nat) (row beat : Option Nat) (ps : List W16) : List W16 :=
  match c.blocks[i]? with
  | some b => let r := headRow m b.1 a.layer c.head a.values; setParam (setParam ps row r.1) beat (r.2 / 64)
  | none => ps

/-- The TRW_PARAM values that the plan gives a command. -/
def planParams (m : Model) (a : AttnPlan) (c : PlanCmd) (ps : List W16) : List W16 :=
  let p0 := ps.take 16 ++ List.replicate (16 - ps.length) 0
  let p1 := blockParams m a c 1 a.row1 a.beat1 (blockParams m a c 0 a.row0 a.beat0 p0)
  setParam (setParam (setParam p1 a.count0 (c.tokens 0)) a.count1 (c.tokens 1)) a.total c.valid

/-- A launch of an attention item: the next command of its plan list, with the formats that its blocks record (R405,
R409). A launch that breaks R217 does not take place. -/
def launchPlan (s : State) (t : TSite) (i : Item) (l : TrwLaunch) (a : AttnPlan) : State :=
  let n := planPos s i.id
  let s1 := if s.itn.begun.contains i.id then s else beginItem s i
  match (planOf s1 l.stack l.trowel)[n]?, s.srv.model with
  | some c, some m =>
    let wfmt := (if a.values then c.vfmt else c.kfmt) + 512 * b2n m.wide
    if !launchOk l.span wfmt l.ofmt l.qfmt then setRegBit s (Reg.TRW_ERR t.stack t.trowel) 3
    else
      let cmd := launchCmd l.entry wfmt l.ofmt l.qfmt (itinSeed s) s.itn.seqWord l.tag l.span (planParams m a c l.params) (some i.id)
        (some (i.start * 25 / 2 + n * l.span))
      startCmd { s1 with itn := { s1.itn with planAt := mset s1.itn.planAt i.id (n + 1) } } t
        { cmd with valid := if a.values then none else some c.valid }
  | _, _ => itemDone s1 (some i.id)

/-- Whether an item's next launch is due at a trowel: the item is ready, or an attention item begun and not done. -/
def launchDue (s : State) (t : TSite) (i : Item) : Bool :=
  match i.work with
  | .trowel l => l.stack == t.stack && l.trowel == t.trowel && itemReady s i
  | .attn l _ => l.stack == t.stack && l.trowel == t.trowel
      && (itemReady s i || (s.itn.begun.contains i.id && !s.itn.done.contains i.id))
  | _ => false

/-- TROWEL_LAUNCH: the sequencer launches the trowel's next planned command, or the re-run of a killed one
(R215, R247, R405). -/
def execTrowelLaunch (t : TSite) (s : State) : Host.Outcome State Fault Refusal :=
  let x := trowelAt s t
  if x.state ≠ .idle ∨ retireHolds s t = true then .next s
  else
    match x.rerun with
    | some c => .next (startCmd s t c)
    | none =>
      match (itinItems s).find? (launchDue s t) with
      | none => .next s
      | some i =>
        match i.work with
        | .trowel l => .next (startCmd (beginItem s i) t (launchCmd l.entry l.wfmt l.ofmt l.qfmt (itinSeed s) s.itn.seqWord l.tag l.span l.params (some i.id)
          (some (i.start * 25 / 2))))
        | .attn l v => .next (launchPlan s t i l v)
        | _ => .next s

/-! ### The merge across a caravan (R401) -/

/-- The member that merges a slot's attention results. -/
def mergeMember (s : State) (slot : Nat) : Nat := slot % memberCount s

/-- Whether a member holds any block of a slot. -/
def holdsSlot (s : State) (k slot : Nat) : Bool :=
  match s.srv.model with
  | some m => (List.range (slotAt s slot).table.length).any (memberHolds s m k)
  | none => false

/-- O* / L* from the results of the members that hold a block of the slot, in ascending member index: each is d lanes of O,
then M and L. Sums run left to right, each operation in FP32 with RNE, exp as the reducers' (R80): DESIGN CHOICE, the
formula alone is stated. Poison anywhere poisons every lane. -/
def caravanMerge (d : Nat) (parts : List (List FLane)) : List FLane :=
  let at_ := fun (p : List FLane) (i : Nat) => (nth p i ⟨0, false⟩).v
  let bad := parts.any fun p => p.any (·.poison)
  let top := fold1 f32Max (parts.map fun p => at_ p d)
  let ws := parts.map fun p => rExp (f32Sub (at_ p d) top)
  let sum := fold1 f32Add ((parts.zip ws).map fun x => f32Mul (at_ x.1 (d + 1)) x.2)
  (List.range d).map fun i =>
    ⟨f32Div (fold1 f32Add ((parts.zip ws).map fun x => f32Mul (at_ x.1 i) x.2)) sum, bad⟩

/-- FP32 lanes of bytes. -/
def laneList (n : Nat) (bs : List PByte) : List FLane :=
  (List.range n).map fun i => let b := (bs.drop (4 * i)).take 4; ⟨ofLe (b.map (·.b)), b.any (·.poison)⟩

/-- A merge item performed at its merge member. -/
def performMerge (s : State) (slot d : Nat) (parts : List Nat) (out : Nat) : State :=
  let mine := ((List.range parts.length).filter fun k => holdsSlot s k slot).map fun k => nth parts k 0
  let r := mine.foldl (fun (a : List (List FLane) × State) dpa =>
    let x := readMem a.2 4 .stream dpa (4 * (d + 2)); (a.1 ++ [laneList (d + 2) x.1], x.2)) ([], s)
  writeMem r.2 4 225 .stream out ((caravanMerge d r.1).flatMap fun l => (leBytes 4 l.v).map (⟨·, l.poison⟩))

/-- The plan's own actions that no command names, as they come due: a merge at its merge member, and the reception of a
result that its sender, which holds no block of the slot, does not send (R401). -/
def mergeStep (s : State) : Option State :=
  match (itinItems s).find? fun i => itemReady s i && (match i.work with
    | .merge slot _ _ _ => mergeMember s slot == memberIndex s
    | .orecv k _ _ slot => !holdsSlot s k slot
    | _ => false) with
  | some i =>
    match i.work with
    | .merge slot d parts out => some (itemDone (performMerge (beginItem s i) slot d parts out) (some i.id))
    | _ => some (itemDone (beginItem s i) (some i.id))
  | none => none

end Sys2Proof.Machine
end

