-- ==== Sys2Proof/Machine/Thermal.lean ====
section
/-!
DEFINITION. What the watchman derives from its measurements (chapter 14): sensor limits, hot and cool, the thermal and
budget requirements that enter the stretch, and the clusters that the power profile holds at PARK depth 2.
-/
namespace Sys2Proof.Machine

/-! ### Sensors (Table 14.6) -/

/-- Degrees in the unit of 1/16 °C. -/
def deg (n : Int) : Int := 16 * n

/-- The limits of a sensor in Table 14.6. -/
structure Limits where
  throttle : Option Int
  trip : Option Int
  /-- 1/16 °C per ms, per s for the outlet -/
  rate : Option Int
  /-- the group of THM_TRIP: 1 compute, 2 stack, 3 hub, 4 coolant -/
  group : Nat
  /-- every limit of the row, for the sampling rate (R557) -/
  all : List Int
  deriving DecidableEq, Repr

/-- The row of a sensor. The thresholds of R174 count among a DRAM die's limits, the inlet range of Table 18.10 as the
inlet's. -/
def limits (i : Nat) : Limits :=
  if i < 24 then ⟨some (deg 95), some (deg 105), some 64, 1, [deg 95, deg 105]⟩
  else if i < 264 then ⟨some (deg 95), some (deg 110), some 24, 2, [deg 83, deg 85, deg 95, deg 97, deg 100, deg 110]⟩
  else if i < 276 then ⟨some (deg 95), some (deg 110), some 24, 2, [deg 95, deg 97, deg 100, deg 110]⟩
  else if i = 276 then ⟨some (deg 95), some (deg 105), some 32, 3, [deg 95, deg 105]⟩
  else if i = 277 then ⟨none, none, none, 0, [deg (-5), deg 55]⟩
  else if i = 278 then ⟨none, none, none, 0, [deg 15, deg 40]⟩
  else if i = 279 then ⟨some (deg 60), some (deg 70), some 8, 4, [deg 60, deg 70]⟩
  else ⟨none, none, none, 0, [deg 0, deg 85]⟩

/-- Whether a sensor exists (R556). -/
def sensorPresent (v : Variant) (i : Nat) : Bool :=
  decide (i ≤ 280) && (v == .pm960 || !((decide (144 ≤ i) && decide (i ≤ 263)) || (decide (270 ≤ i) && decide (i ≤ 275))))

/-- A sensor as last sampled. -/
def sensorAt (s : State) (i : Nat) : Option Sensor := mget s.pwr.sensors i

/-- The stack whose die a sensor measures. -/
def sensorStack (i : Nat) : Option Nat :=
  if 24 ≤ i ∧ i < 264 then some ((i - 24) / 20) else if 264 ≤ i ∧ i < 276 then some (i - 264) else none

/-- Whether a sampled sensor is at or above its throttle, or over its rate limit. -/
def sensorHot (i : Nat) (x : Sensor) : Bool :=
  (match (limits i).throttle with | some t => decide (t ≤ x.temp) | none => false)
  || (match (limits i).rate with | some r => decide (r < x.rate) | none => false)

/-- Whether a sampled sensor is 3 °C below its throttle with at most half its rate limit. -/
def sensorCool (i : Nat) (x : Sensor) : Bool :=
  (match (limits i).throttle with | some t => decide (x.temp ≤ t - deg 3) | none => true)
  && (match (limits i).rate with | some r => decide (2 * x.rate ≤ r) | none => true)

/-- Hot (R558). -/
def isHot (s : State) : Bool := s.pwr.lowFlow || s.pwr.sensors.any fun x => sensorHot x.1 x.2
/-- Cool (R558): of the sensors sampled. -/
def isCool (s : State) : Bool := s.pwr.sensors.all fun x => sensorCool x.1 x.2

/-- The sensor nearest its throttle: its index and temperature; the lowest index of equals. -/
def hottest (s : State) : Option (Nat × Int) :=
  (s.pwr.sensors.foldl (fun (b : Option (Int × Nat × Int)) x =>
    match (limits x.1).throttle with
    | none => b
    | some t =>
      let gap := t - x.2.temp
      match b with
      | some y => if gap < y.1 then some (gap, x.1, x.2.temp) else b
      | none => some (gap, x.1, x.2.temp)) none).map (·.2)

/-! ### The thermal requirement (R558, R571) -/

/-- N_t at an epoch start. -/
def thermalStep (s : State) : Nat :=
  let n := s.itn.reqThermal
  if s.pwr.lowFlow then 64
  else if isHot s then min 64 (n + 4)
  else match s.pwr.coolSince with
    | some b => if b + 1024 ≤ s.bell then max 16 (n - 1) else n
    | none => n

/-! ### Power: limits, measurement and the budget requirement (Table 1.5, R552 to R555) -/

/-- The sustained module limit, the short-term limit, and the stack ceiling, in W. -/
def sustainedLimit (s : State) : Nat := match s.variant with | .pm960 => 4400 | .pm480 => 3400
def shortLimit (s : State) : Nat := match s.variant with | .pm960 => 5200 | .pm480 => 4000
def stackLimit (s : State) : Nat := match s.variant with | .pm960 => 1900 | .pm480 => 950

/-- The average of the last `n` samples of one figure. -/
def average (s : State) (n : Nat) (f : Nat × Nat × Nat × Nat → Nat) : Nat :=
  let xs := s.pwr.samples.take n
  (xs.foldl (fun a x => a + f x) 0) / max 1 xs.length
/-- The 1 ms averages that PWR_MEAS reports: module, compute, stacks, hub. -/
def measModule (s : State) : Nat := average s 100 (·.1)
def measCompute (s : State) : Nat := average s 100 (·.2.1)
def measStacks (s : State) : Nat := average s 100 (·.2.2.1)
def measHub (s : State) : Nat := average s 100 (·.2.2.2)
/-- The pool's measured draw over the last 1 ms. -/
def measPool (s : State) : Nat := measCompute s + measStacks s

/-- The phases of the loaded profile. -/
def phases (s : State) : List Phase := match s.itn.image with | some g => g.phases | none => []
/-- The phase in force. -/
def phaseNow (s : State) : Option Phase := s.pwr.phase.bind fun i => (phases s)[i]?

/-- ⌈a ÷ b⌉ clamped to 16 to 64; a division by a grant of zero gives 64. -/
def needOf (a b : Nat) : Nat := if a = 0 then 16 else if b = 0 then 64 else max 16 (min 64 (ceilDiv a b))

/-- N_b at an epoch start of a run (R555). -/
def budgetNeed (s : State) : Nat :=
  let declared := match phaseNow s with | some p => p.compute + p.stks | none => 0
  max (needOf (16 * declared) s.pwr.pool) (needOf (s.itn.inForce * measPool s) s.pwr.pool)

/-- The requirements as the watchman forms them at an epoch start: N_t always, N_b during a run (R555, R558). -/
def requireStep (s : State) : State :=
  let old := s.itn.reqBudget
  let nb := if runActive s then budgetNeed s else old
  let s1 := { s with itn := { s.itn with reqThermal := thermalStep s, reqBudget := nb } }
  if old = 16 ∧ 16 < nb then raiseIf s1 Reg.PWR_CTRL 1 0x0081 nb else s1

/-- The pool grant starts a run at the pool's measured draw (R554). -/
def startPool (s : State) : State := { s with pwr := { s.pwr with pool := measPool s, phase := none, parked := 0 } }

/-! ### Stacks coming out of self-refresh (R559) -/

/-- Whether some die of a stack reads at or above a temperature. -/
def stackAbove (s : State) (k : Nat) (t : Int) : Bool :=
  s.pwr.sensors.any fun x => sensorStack x.1 == some k && decide (t ≤ x.2.temp)

/-- A stack whose DRAM and logic are on serves accesses, holding writes where it is too hot (R559). -/
def wakeStack (s : State) (k : Nat) : State :=
  modStack s k fun x => { x with state := if stackAbove s k (deg 100) then .writeHold else .active }

/-- Every stack that is off or in self-refresh serves again. -/
def wakeStacks (s : State) : State :=
  loopN (stackCount s) s fun k s =>
    match (stackAt s k).state with
    | .off => wakeStack s k
    | .selfRefresh => wakeStack s k
    | _ => s

/-! ### Clusters and the power profile (R549, R131) -/

/-- The phase that an itinerary bell lies in, by index. -/
def phaseIndex (ps : List Phase) (b : Nat) : Option Nat :=
  let n := (ps.filter fun p => decide (p.start ≤ b)).length
  if n = 0 then none else some (n - 1)

/-- Whether a cluster is held at PARK depth 2 at an itinerary bell: the phase does not name it, and the next one that
does starts at least 2,000 bells after it and is more than 160 bells away. -/
def holdsCluster (ps : List Phase) (b c : Nat) : Bool :=
  match phaseIndex ps b with
  | none => false
  | some i =>
    match ps[i]? with
    | none => false
    | some cur =>
      !bitAt cur.clusters c &&
        (match (ps.drop (i + 1)).find? fun p => bitAt p.clusters c with
         | some nx => decide (cur.start + 2000 ≤ nx.start) && decide (b + 160 < nx.start)
         | none => false)

/-- The cluster domain of an array. -/
def clusterOfArr (a : Nat) : Nat := a / 96 * 12 + a % 96 / 8

/-- Whether every array of a cluster is IDLE or HELD, so that its power may be removed (R131), or its clock is lost and it is
off (Table 1.2). -/
def clusterQuiet (s : State) (c : Nat) : Bool :=
  let mine := s.arrays.filter fun kv => clusterOfArr kv.1 == c
  mine.any (fun kv => kv.2.state == .fault)
  || mine.all fun kv => kv.2.state == .idle || kv.2.state == .held || kv.2.state == .off

/-- The clusters that the profile holds at depth 2 now; one is newly held only once its arrays are quiet. -/
def parkStep (s : State) (b : Nat) : State :=
  let held := fun c => runActive s && holdsCluster (phases s) b c && (s.pwr.parked.getLsbD c || clusterQuiet s c)
  { s with pwr := { s.pwr with parked := BitVec.ofNat 24 ((List.range 24).foldl (fun n c => n + b2n (held c) * 2 ^ c) 0) } }

end Sys2Proof.Machine
end

