-- ==== Sys2Proof/Machine/Itinerary.lean ====
section
/-!
DEFINITION. Itineraries, bells and caravans (chapter 8): the bell and its frames, epochs, the plan clock, waystations,
stops, aborts and resumption, and the runs of an itinerary.
-/
namespace Sys2Proof.Machine

/-! ### The plan (R298, R309, R315) -/

/-- The waystation table of the variant in use. -/
def ways (s : State) : List WayEnt := match s.itn.image with | some g => nth g.ways s.itn.variant [] | none => []
/-- A waystation of it. -/
def wayAt (s : State) (i : Nat) : WayEnt := nth (ways s) i ⟨0, 0, 0, 0, []⟩
/-- Whether a waystation is caravan-wide. -/
def WayEnt.wide (w : WayEnt) : Bool := w.kind == 2 || w.kind == 3 || w.kind == 4
/-- Whether a waystation may serve as a pre-emption stop. -/
def WayEnt.canStop (w : WayEnt) : Bool := w.kind == 3 || w.kind == 4
/-- The first waystation from index i on that satisfies a condition; the table's length where none does. -/
def nextWay (s : State) (i : Nat) (f : WayEnt → Bool) : Nat :=
  (((List.range (ways s).length).drop i).find? fun k => f (wayAt s k)).getD (ways s).length
/-- The wave index of a waystation: low bits of the caravan-wide sequence number. -/
def waveOf (s : State) (i : Nat) : Nat := (((ways s).take i).filter (·.wide)).length % 4
/-- The planned release converted to a bell count. -/
def plannedBell (s : State) (i : Nat) : Nat := s.itn.startAt.getD 0 + s.itn.shift + (wayAt s i).release
/-- The itinerary bell (R309). -/
def ibell (s : State) : Nat := s.bell - s.itn.startAt.getD 0 - s.itn.shift
/-- D_max and this member's depth. -/
def dMax (s : State) : Nat := match s.itn.caravan with | some c => c.dmax | none => 0
def depth (s : State) : Nat := match s.itn.caravan with | some c => c.depth | none => 0
/-- Whether this is member 0, or runs alone. -/
def isLead (s : State) : Bool := memberIndex s == 0

/-- Whether a write of the itinerary's engines waits at a stack (R199): not one of the host or of another module. -/
def ownHeld (s : State) : Bool := s.mem.stks.any fun k => k.held.any fun h => h.write && decide (h.issuer < 256) && h.issuer != 224

/-- Whether every access of the run so far is performed, here and at other modules: what the full FENCE.C of a release
waits for (R280, R317, Table 7.4). -/
def allPerformed (s : State) : Bool := s.itn.schedOut.isEmpty && !ownHeld s

/-- Whether every item this member runs that is planned before a waystation has ended and its accesses are performed; a
member outside a BARRIER's expected list counts as arrived at once (Table 8.5, R316). -/
def hasArrived (s : State) (w : WayEnt) : Bool :=
  (w.kind == 2 && !w.list.isEmpty && !w.list.contains (memberIndex s))
  || (allPerformed s && (itinItems s).all fun i =>
        i.variant != s.itn.variant || decide (64 * w.release ≤ i.start) || s.itn.done.contains i.id)

/-- The items of the variant in use that are planned before a waystation. -/
def itemsBefore (s : State) (w : WayEnt) : List Nat :=
  ((itinItems s).filter fun i => i.variant = s.itn.variant ∧ i.start < 64 * w.release).map (·.id)

/-! ### The member's own requirement and stop cause (R322, R323) -/

/-- ITN_STRETCH.own. -/
def ownStretch (s : State) : Nat := max (regField s Reg.ITN_STRETCH 24 7) (max s.itn.reqBudget s.itn.reqThermal)
/-- ITN_STOP.halt_cause: a stack of this module holds writes (Table 8.9). -/
def haltCause (s : State) : Bool := s.mem.stks.any fun k => k.state = .writeHold
/-- The stop code this member raises. -/
def ownStop (s : State) : Nat :=
  if s.itn.cause ≠ 0 then 3 else if haltCause s then 2 else if s.itn.preemptReq ∧ isLead s = true then 1 else 0
/-- Whether queue 0x00 holds a word (R596). -/
def alarmPending (s : State) : Bool := !(queueAt s 0).cells.isEmpty

/-! ### Runs (R309 to R311, R331) -/

/-- The array sections' tiles of the variant in use that are not yet done go to their arrays, whose shadow buffers
start to load (R120, R330). -/
def loadArrays (s : State) : State :=
  let tiles := (itinItems s).filterMap fun i =>
    match i.work with
    | .tile a t => if i.variant == s.itn.variant && !s.itn.done.contains i.id then some (a, t) else none
    | _ => none
  ((tiles.map (·.1)).eraseDups).foldl (fun s a =>
    modArr s a fun x => loadNext { x with shadowState := .empty, shadow := none, active := none, bindPending := 0,
                                          todo := (tiles.filter fun t => t.1 = a).map (·.2) }) s

/-- The micro-programs of the run's trowel sections, in its variant, written into the stores (R544). -/
def loadPrograms (s : State) : State :=
  match s.itn.image with
  | none => s
  | some g =>
    { s with ustore := (g.programs.filter fun w => w.variant = s.itn.variant).foldl (fun u w =>
        mput 0 u (trwKey w.stack w.trowel * 256 + w.index) w.word) s.ustore }

/-- A run begins to wait for the release of waystation 0 at a bell. -/
def beginRun (s : State) (seq variant start : Nat) : State :=
  let t := { s.itn with run := .waitStart, variant := variant, seqWord := seq % 2 ^ 32, startAt := some start, shift := 0, way := 0, phase := 0 }
  let t := { t with ckpt := 0, begun := [], done := [], planAt := [], arrivals := [], tagged := [], ups := [], upSent := false, downAt := none }
  let t := { t with stopPoint := none, stopPre := false, segAborts := 0, runAborts := 0, runs := s.itn.runs + 1, flags := .none, poisoned := false }
  loadArrays (loadPrograms (startPool { s with itn := t }))

/-- The command that owns the run (R311). -/
def runOwner (s : State) : Option InProg :=
  s.cmd.inProg.find? fun c => (c.op = 0x0303 ∨ c.op = 0x0401) ∧ ctxKey c.fn (pktCtx c.pkt) = s.itn.ctx

/-- The run ends; the command that owns it completes (R331, R427). -/
def endRun (s : State) (missed : Bool) : State :=
  let s1 := { s with itn := { s.itn with run := .ended, stopPoint := none, downAt := none, preemptReq := false } }
  match runOwner s1 with
  | some c =>
    if c.op = 0x0401 then finishStep s1 missed (some c)
    else
      completeProg s1 c { plainReply c.pkt (if missed then stMissed else if s.itn.poisoned then stPoisoned else stDone) s.itn.runAborts 0 0 0
                          with flags := s.itn.flags, poison := s.itn.poisoned }
  | none => finishStep s1 missed none

/-- Whether every waystation of the variant has been released here, every item is done and its accesses are performed
(R296). -/
def runComplete (s : State) : Bool :=
  decide ((ways s).length ≤ nextWay s s.itn.way (·.wide))
  && (List.range (ways s).length).all (fun i => (wayAt s i).kind != 1 || (wayAt s i).owner != memberIndex s || s.itn.arrivals.contains i)
  && allPerformed s && (itinItems s).all fun i => i.variant != s.itn.variant || s.itn.done.contains i.id

/-! ### Stops (R323 to R327) -/

/-- The CONTEXT_PREEMPT commands that wait for a stop complete when it holds (R493). -/
def preemptHeld (s : State) : State :=
  let cs := s.cmd.inProg.filter fun c => c.op = 0x010E
  let s1 := cs.foldl (fun s c => completeProg s c (done c.pkt)) s
  match s1.cmd.holder with
  | some h => { s1 with cmd := { s1.cmd with ctxs := mmod s1.cmd.ctxs h fun x => { x with stopped := true } } }
  | none => s1

/-- The run holds at its stop point. -/
def holdStop (s : State) : State :=
  let st := if s.itn.stopPre then RunState.stoppedPreempt else .stoppedHalt
  if s.itn.run = st then s
  else
    let s1 := raiseIf { s with itn := { s.itn with run := st, phase := 2 } } Reg.ITN_CTRL 2 0x0041 s.itn.way
    if s.itn.stopPre then preemptHeld { s1 with itn := { s1.itn with preemptReq := false } } else s1

/-- Whether the run has been aborted and its CHECKPOINT not been released again since (R330, R331). -/
def unresumed (s : State) : Bool := decide (0 < s.itn.runAborts) && decide (s.itn.ckptBell ≤ s.itn.abortBell)

/-- The run state to which a stop's release returns. -/
def runAfterStop (s : State) : RunState :=
  if unresumed s then .resuming else if s.itn.way = 0 ∧ s.itn.begun = [] then .waitStart else .running

/-- The stop point is released: the member waits on as arrived; while a halt is decided the point still holds (R324). -/
def releaseStop (s : State) : State :=
  let p := if s.itn.decided = 2 then some s.itn.way else none
  let s1 := { s with itn := { s.itn with stopPoint := p, stopPre := false, phase := if s.itn.phase = 2 then 1 else s.itn.phase } }
  match s.itn.run with
  | .stoppedPreempt => raiseIf { s1 with itn := { s1.itn with run := runAfterStop s } } Reg.ITN_CTRL 2 0x0041 s.itn.way
  | .stoppedHalt => raiseIf { s1 with itn := { s1.itn with run := runAfterStop s } } Reg.ITN_CTRL 2 0x0041 s.itn.way
  | _ => s1

/-- The itinerary's trowel commands are killed, to be run again in full; one in COMMIT completes (R244, R246, R247). -/
def killForStop (s : State) : State :=
  let mine := s.trowels.filter fun kv => match kv.2.cmd with | some c => c.item.isSome | none => false
  mine.foldl (fun s kv => killCmd s ⟨kv.1 / 640, kv.1 % 640⟩) s

/-- A pre-emption chooses its stop point; on the way to a PREEMPTIBLE waystation running trowel commands are killed
(R244, R323). -/
def preemptAt (s : State) (w : Nat) : State :=
  let s1 := if s.itn.stopPoint ≠ some w ∧ (wayAt s w).kind = 3 then killForStop s else s
  { s1 with itn := { s1.itn with stopPoint := some w, stopPre := true } }

/-- The effect of the decided stop code at an epoch start (Table 8.9, R324, R325). -/
def applyStop (s : State) (code : Nat) : State :=
  if !runActive s then s
  else if code = 2 then
    if s.itn.run = .stoppedPreempt then s
    else { s with itn := { s.itn with stopPoint := some (nextWay s s.itn.way (·.wide)), stopPre := false } }
  else if code = 1 then
    let w := nextWay s s.itn.way (·.canStop)
    preemptAt (if s.itn.run = .stoppedHalt ∧ w ≠ s.itn.way then releaseStop s else s) w
  else if s.itn.stopPre then s
  else if s.itn.stopPoint.isSome then releaseStop s
  else s

/-! ### Releases (R317) -/

/-- What a CHECKPOINT's release commits and saves (R330, R429). Its release after an abort goes on with the same segment and
its count of aborts (R331). -/
def commitCheckpoint (s : State) (i : Nat) : State :=
  { s with itn := { s.itn with ckpt := i, ckptBell := s.bell, segAborts := if i = s.itn.ckpt then s.itn.segAborts else 0, lossMark := s.mem.losses }, srv := { s.srv with saved := some s.srv.core } }

/-- A member that holds at a stop leaves it with the release of its stop point, which DOWN brings (R316, R324). -/
def leaveStop (s : State) : State :=
  let s1 := { s with itn := { s.itn with stopPoint := none, stopPre := false } }
  match s.itn.run, s.cmd.holder with
  | .stoppedPreempt, some h =>
    raiseIf { s1 with cmd := { s1.cmd with ctxs := mmod s1.cmd.ctxs h fun x => { x with stopped := false } } } Reg.ITN_CTRL 2 0x0041 s.itn.way
  | .stoppedPreempt, none => raiseIf s1 Reg.ITN_CTRL 2 0x0041 s.itn.way
  | .stoppedHalt, _ => raiseIf s1 Reg.ITN_CTRL 2 0x0041 s.itn.way
  | _, _ => s

/-- The release of a caravan-wide waystation at this member: the shift of a late release, the event, the checkpoint,
and the next waystation worked toward (R317). -/
def releaseWay (s : State) (i : Nat) : State :=
  let late := s.bell - plannedBell s i
  let s := leaveStop s
  let s1 := { s with itn := { s.itn with shift := s.itn.shift + late, run := .running, way := nextWay s (i + 1) (·.wide), phase := 0, ups := [],
                                         upSent := false, downAt := none } }
  let s2 := if (wayAt s i).kind = 4 then commitCheckpoint s1 i else s1
  raiseIf s2 Reg.ITN_CTRL 0 0x0043 i

/-- Whether the waystation worked toward is at or past its release bell r + D_max. -/
def releaseDue (s : State) : Bool :=
  (match s.itn.run with | .running => true | .resuming => true | .stoppedPreempt => true | .stoppedHalt => true | _ => false)
  && decide (s.itn.way < (ways s).length)
  && (match s.itn.downAt with | some r => decide (r + dMax s ≤ s.bell) | none => false)

/-! ### Aborts (R328 to R332, R678) -/

/-- Every trowel command of the itinerary is killed, and none of it is kept (R329); one in COMMIT completes for itself
(R246). -/
def killItinTrowels (s : State) : State :=
  let s0 := killForStop s
  let s1 := { s0 with trowels := s0.trowels.map fun (kv : Nat × Trowel) =>
    (kv.1, { kv.2 with cmd := kv.2.cmd.map fun (c : TrwCmd) => { c with item := none } }) }
  let bare := s1.trowels.map fun (kv : Nat × Trowel) => (kv.1, { kv.2 with rerun := none })
  { s1 with trowels := bare.filter (fun (kv : Nat × Trowel) => decide (kv.2 ≠ Trowel.reset)) }

/-- A reducer with every slot EMPTY and no job; none where nothing else is held. -/
def emptied (kv : Nat × Reducer) : Option (Nat × Reducer) :=
  let r := { kv.2 with slots := [], jobs := [], running := none }
  if r = Reducer.reset then none else some (kv.1, r)

/-- The abort at bell A (R329, R678). -/
def abortRun (s : State) : State :=
  let own := s.itn.cause ≠ 0
  let way := if own then s.itn.causeWay else s.itn.way
  let cause := if own then s.itn.cause else 6
  let keep := itemsBefore s (wayAt s s.itn.ckpt)
  let seg := s.itn.segAborts + 1
  let s1 := killItinTrowels { s with arrays := faultsOnly s.arrays }
  let mine := fun (owner : Nat) => decide (65536 ≤ owner) && decide (owner < 65552)
  let ports := s1.fab.ports.map fun kv => (kv.1, { kv.2 with part := kv.2.part.filter fun t => decide (t.lane ≠ 0) })
  let fab := { s1.fab with inbox := s1.fab.inbox.filter (fun q => decide (pkClass q.bytes ≠ 0)), recvd := [], ports := ports }
  let fab := { fab with reqs := fab.reqs.filter (fun r => !mine r.owner), results := fab.results.filter (fun r => !mine r.owner) }
  let s2 := { s1 with reducers := s1.reducers.filterMap emptied, fab := fab,
                      dma := { s1.dma with runs := s1.dma.runs.filter (fun kv => decide (16 ≤ kv.1)) } }
  let t := { s2.itn with run := .aborting, cause := 0, lastWay := way, lastCause := cause, segAborts := seg }
  let t := { t with runAborts := t.runAborts + 1, abortBell := s.bell, done := t.done.filter keep.contains }
  let t := { t with begun := t.begun.filter keep.contains, planAt := t.planAt.filter fun x => keep.contains x.1 }
  let t := { t with tagged := t.tagged.filter (fun x => decide (x.2.2 ≤ t.ckptBell)),
                    arrivals := t.arrivals.filter (fun i => decide ((wayAt s i).release < (wayAt s s.itn.ckpt).release)) }
  let t := { t with way := t.ckpt, phase := 0, ups := [], upSent := false, downAt := none, stopPoint := none }
  let s2 := { s2 with itn := { t with stopPre := false, schedOut := [] } }
  let s3 := bump s2 Reg.ITN_ABORT 0 32 1
  let s4 := raiseIf s3 Reg.ITN_CTRL 3 0x0040 way
  let s5 := raiseAlarm (logCond s4 0x12 5 0x40 way (stMissed * 2 ^ 16 + min seg 15 * 2 ^ 8 + cause)) 0x03 way
  if regField s Reg.ITN_CTRL 12 4 < seg then
    endRun (setRegBit { s5 with itn := { s5.itn with lastCause := 5, segAborts := seg - 1 } } Reg.ITN_ERR 0) true
  else s5

/-- An abort cause raised by this member (R307, R319, R678); the first stands. -/
def raiseCause (s : State) (cause way : Nat) : State :=
  if s.itn.cause = 0 then { s with itn := { s.itn with cause := cause, causeWay := way } } else s

/-! ### The bell (R306 to R308, R316, R363, R364) -/

/-- The 64 bits of a frame, its check field included (Table 9.11). -/
def frameBits (bell stretch stop wave : Nat) (up down alarm : Bool) : Nat :=
  let v := bell % 2 ^ 48 * 2 ^ 16 + stretch % 64 * 2 ^ 10 + stop % 4 * 2 ^ 8 + wave % 4 * 2 ^ 6 + b2n up * 2 ^ 5 + b2n down * 2 ^ 4
    + b2n alarm * 2 ^ 3
  v + crc3 v

/-- The ports of links to other members, and whether a port is one. -/
def memberPorts (s : State) : List Nat := match s.itn.caravan with | some c => c.ports | none => []

/-- Whether DOWN travels in this bell's frames: member 0 from bell r, a member at depth d from r + d. -/
def sendsDown (s : State) : Bool := match s.itn.downAt with | some r => decide (r + depth s ≤ s.bell) | none => false

/-- One frame on each port whose bell lane runs. -/
def sendFrames (s : State) : State :=
  (List.range 16).foldl (fun s n =>
    if !(portAt s n).bellOk then s
    else if (memberPorts s).contains n then
      emit s (.frame n true (BitVec.ofNat 64 (frameBits s.bell (s.itn.pend - 16) s.itn.stopMax (waveOf s s.itn.way)
        s.itn.upSent (sendsDown s) s.itn.alarmMax)))
    else emit s (.frame n false (BitVec.ofNat 64 (frameBits s.bell 0 0 0 false false false)))) s

/-- Whether UP may be sent for the waystation worked toward: arrived, and every child has sent it. -/
def upReady (s : State) : Bool :=
  decide (1 ≤ s.itn.phase) && (childPorts s).all fun n => s.itn.ups.contains n

/-- The wave at the start of a bell: UP once the children have sent it, and at member 0 DOWN once nothing holds the
waystation (R316, R324, R330). -/
def waveStep (s : State) : State :=
  match s.itn.run with
  | .running | .resuming | .stoppedHalt | .stoppedPreempt =>
    let s1 := { s with itn := { s.itn with upSent := upReady s } }
    let held := s.itn.stopPoint == some s.itn.way
    let due := decide (plannedBell s s.itn.way ≤ s.bell + dMax s)
    let inWindow := !unresumed s || decide (s.bell + dMax s ≤ s.itn.abortBell + 65536)
    if isLead s && upReady s && s.itn.downAt.isNone && !held && due && inWindow && decide (s.itn.way < (ways s).length) then
      { s1 with itn := { s1.itn with downAt := some s.bell } }
    else s1
  | _ => s

/-- Arrival at the waystation worked toward, and the hold at a stop point (R324, R325); a member that resumes has arrived when
its reload is done. -/
def arrive (s : State) : State :=
  match s.itn.run with
  | .running | .resuming | .stoppedHalt | .stoppedPreempt =>
    let s1 := if s.itn.phase = 0 ∧ unresumed s = false ∧ s.itn.way < (ways s).length ∧ hasArrived s (wayAt s s.itn.way) = true then
        { s with itn := { s.itn with phase := 1 } } else s
    if 1 ≤ s1.itn.phase ∧ s1.itn.stopPoint = some s1.itn.way then holdStop s1 else s1
  | .waitStart => if s.itn.stopPoint = some 0 then holdStop { s with itn := { s.itn with phase := 1 } } else s
  | _ => s

/-- The host-time counter after a bell of N/16 microseconds: 62.5 ns per sixteenth (R306, R537). -/
def tickTime (s : State) : State :=
  let half := 125 * s.itn.inForce + b2n s.pci.halfNs
  let s1 := setReg s Reg.PCI_HOST_TIME ((reg s Reg.PCI_HOST_TIME + half / 2) % 2 ^ 64)
  { s1 with pci := { s1.pci with halfNs := half % 2 == 1 } }

/-- Array cycles gated in the first b bells from the one at which factor n took effect: of c cycles an array issues on
⌊16c / n⌋ (R312). -/
def gatedIn (n b : Nat) : Nat := let c := 2700 * n * b / 16; c - 16 * c / n

/-- ITN_GATE counts the gated cycles of a bell of a run. After 16 bells of one factor the count is whole. -/
def tickGate (s : State) : State :=
  let b := s.itn.gateBells
  let s1 := if runActive s then bump s Reg.ITN_GATE 0 64 (gatedIn s.itn.inForce (b + 1) - gatedIn s.itn.inForce b) else s
  { s1 with itn := { s1.itn with gateBells := (b + 1) % 16 } }

/-- The incident ring's countdown in bells (R595). -/
def tickRing (s : State) : State :=
  { s with dep := { s.dep with countdown := s.dep.countdown.map fun c => (c.1, c.2 - 1) } }

/-- The bell count advanced. -/
def nextBell (s : State) : State := { s with bell := (s.bell + 1) % 2 ^ 48 }

/-- The start of a bell: the wave's step, the frames, and the code they carried. At bell 16e they follow what the epoch
start decides and samples. -/
def startBell (s : State) : State :=
  let s1 := sendFrames (waveStep (parkStep s (ibell s)))
  { s1 with itn := { s1.itn with sent := s1.itn.stopMax } }

/-- A run whose last waystation and items are done ends. -/
def endIfComplete (s : State) : State := if s.itn.run == .running && runComplete s then endRun s false else s

/-- BELL: a bell begins (R306). What ended in the bell before counts as arrival; frames carry UP, DOWN, stop, stretch
and alarm; a run whose last waystation and items are done ends. -/
def execBell (s : State) : Host.Outcome State Fault Refusal :=
  let t := nextBell (tickRing (tickTime (tickGate (arrive (endDrains s)))))
  .next (endIfComplete (if t.bell % 16 = 0 then { t with itn := { t.itn with epochDue := true } } else startBell t))

/-- The tree field of a port (Table 9.16): 0 none, 1 parent, 2 child. -/
def setTree (s : State) (port role : Nat) : State := setField s (Reg.FAB_PORT_CFG port) 1 2 role

/-- The module leaves its caravan, or one that did not form: no role, no caravan hash, no tree. -/
def leaveCaravan (s : State) : State :=
  let s1 := loopN 16 s fun n s => setTree s n 0
  let s2 := setReg (setReg s1 Reg.FAB_CARAVAN_0 0) Reg.FAB_CARAVAN_1 0
  { s2 with itn := { s2.itn with caravan := none }, cmd := { s2.cmd with role := .none }, flt := { s2.flt with caravan := [], notices := [] } }

/-- The caravan has formed here: member 0 leads, another member is locked. -/
def joinCaravan (s : State) (c : Caravan) : State :=
  if c.index = 0 then { s with cmd := { s.cmd with role := .lead } }
  else setWork { s with cmd := { s.cmd with role := .member } } .caravanLocked

/-- A caravan frame while the caravan forms: from the parent it completes CARAVAN_FORM at a member, which takes the
parent's bell count; at member 0 every child must have sent one. -/
def formFrame (s : State) (c : InProg) (port bell : Nat) : State :=
  match s.itn.caravan with
  | none => s
  | some v =>
    if v.index = 0 then
      let seen := if c.args.contains port then c.args else c.args ++ [port]
      if v.childPorts.all seen.contains then completeProg (joinCaravan s v) c (done c.pkt)
      else { s with cmd := { s.cmd with inProg := s.cmd.inProg.map fun x => if x = c then { x with args := seen } else x } }
    else if v.parentPort = some port then completeProg (joinCaravan { s with bell := bell } v) c (done c.pkt)
    else s

/-- The CARAVAN_FORM in progress. -/
def forming (s : State) : Option InProg := s.cmd.inProg.find? fun c => c.op == 0x0304

/-- The use of a caravan frame from a member neighbour (R307, R308, R316). -/
def memberFrame (s : State) (port v : Nat) : State :=
  if v / 2 ^ 16 ≠ s.bell then raiseCause (setRegBit s Reg.ITN_ERR 2) 4 s.itn.way
  else
    let s1 := { s with itn := { s.itn with pend := max s.itn.pend (16 + min 48 (bitsOf v 10 6)), stopMax := max s.itn.stopMax (bitsOf v 8 2),
                                           alarmMax := s.itn.alarmMax || bitAt v 3 } }
    let mine := bitsOf v 6 2 = waveOf s s.itn.way
    let child := regField s (Reg.FAB_PORT_CFG port) 1 2 = 2
    let parent := regField s (Reg.FAB_PORT_CFG port) 1 2 = 1
    let s2 := if child ∧ mine ∧ bitAt v 5 = true ∧ s.itn.ups.contains port = false then
        { s1 with itn := { s1.itn with ups := s1.itn.ups ++ [port] } } else s1
    if parent ∧ mine ∧ bitAt v 4 = true ∧ s.itn.downAt = none ∧ runActive s = true then
        { s2 with itn := { s2.itn with downAt := some (s.bell + 1 - depth s) } } else s2

/-- BELL_FRAME: a frame arrives on a port (R307, R308, R316, R363, R364). A free frame changes nothing here. -/
def execBellFrame (port : Nat) (caravan : Bool) (bits : W64) (s : State) : Host.Outcome State Fault Refusal :=
  let v := bits.toNat
  if v % 8 ≠ crc3 v then .next (setRegBit s Reg.FAB_ERR 2)
  else if !caravan || !(memberPorts s).contains port then .next s
  else match forming s with
    | some c => .next (formFrame s c port (v / 2 ^ 16))
    | none => .next (memberFrame s port v)

/-- FRAME_TIMEOUT: no frame from a member neighbour for two bells (R307). -/
def execFrameTimeout (port : Nat) (s : State) : Host.Outcome State Fault Refusal :=
  if (memberPorts s).contains port then .next (raiseCause (setRegBit s Reg.ITN_ERR 2) 4 s.itn.way) else .next s

/-! ### Epochs (R308, R312, R596) -/

/-- The alarm bit decided at an epoch start (R596). -/
def decideAlarm (s : State) : State :=
  let on := s.itn.alarmMax && s.itn.caravan.isSome
  let s1 := { s with itn := { s.itn with alarmDecided := on }, dep := { s.dep with caravanAlarm := on && !alarmPending s } }
  if on && !s.itn.alarmDecided && !alarmPending s then raiseIf s1 Reg.DEP_CTRL 4 0x00C4 0 else s1

/-- The factor put into force (R312). -/
def decideStretch (s : State) : State :=
  let n := s.itn.pend
  if n = s.itn.inForce then s
  else raiseIf { s with itn := { s.itn with inForce := n, gateBells := 0 } } Reg.ITN_CTRL 1 0x0042 n

/-- What this member samples at an epoch start. -/
def sampleEpoch (s : State) : State :=
  { s with itn := { s.itn with pend := ownStretch s, stopMax := ownStop s, alarmMax := s.itn.caravan.isSome && alarmPending s } }

/-- EPOCH_START: at bell 16e the values of the epoch before are decided, the budget and thermal requirements are formed
(R555, R558), new values sampled (R308), and the bell's frames sent with them. -/
def execEpochStart (s : State) : Host.Outcome State Fault Refusal :=
  if s.itn.epochDue = false then .next s
  else
    let code := s.itn.stopMax
    let s1 := decideAlarm (decideStretch s)
    let s2 := { s1 with itn := { s1.itn with decided := code, epochDue := false } }
    -- a CHECKPOINT whose release bell has come counts (Table 8.11)
    let s3 := if code = 3 ∧ runActive s = true then abortRun (if releaseDue s2 then releaseWay s2 s2.itn.way else s2)
      else if code = 3 then { s2 with itn := { s2.itn with cause := 0 } } else applyStop s2 code
    .next (startBell (sampleEpoch (requireStep s3)))

/-! ### Waystations (R316 to R319) -/

/-- Whether the manifest or start record of the run has been processed here (R424). -/
def runAdmitted (s : State) : Bool := match s.srv.core.run with | some r => r.admitted | none => true

/-- WAYSTATION_RELEASE: waystation 0 at its bell starts the run; another one at bell r + D_max of its wave. -/
def execWaystationRelease (s : State) : Host.Outcome State Fault Refusal :=
  match s.itn.run with
  | .waitStart =>
    match s.itn.startAt with
    | some b => if b ≤ s.bell ∧ s.itn.stopPoint ≠ some 0 ∧ runAdmitted s = true then
        -- S is the bell of the release itself (R309)
        .next (releaseWay (performCopies { s with itn := { s.itn with startAt := some s.bell } }) 0) else .next s
    | none => .next s
  | .running | .resuming | .stoppedPreempt | .stoppedHalt =>
    if releaseDue s then
      let s1 := releaseWay s s.itn.way
      .next (if runComplete s1 then endRun s1 false else s1)
    else .next s
  | _ => .next s

/-- ARRIVAL_RELEASE: an ARRIVAL waystation of this owner, at the later of its planned release and the bell after the
last listed sender's transfer (R318). -/
def execArrivalRelease (i : Nat) (s : State) : Host.Outcome State Fault Refusal :=
  let w := wayAt s i
  let senders := if w.list.isEmpty then (List.range (memberCount s)).filter (· ≠ memberIndex s) else w.list
  if s.itn.run = .running ∧ w.kind = 1 ∧ w.owner = memberIndex s ∧ s.itn.arrivals.contains i = false
      ∧ w.release ≤ ibell s ∧ (senders.all fun m => s.itn.tagged.any fun x => x.1 == i && x.2.1 == m && decide (x.2.2 < s.bell)) = true then
    .next { s with itn := { s.itn with arrivals := s.itn.arrivals ++ [i] } }
  else .next s

/-- WAYSTATION_MISS: a waystation is not released by its planned release plus its slack (R319). -/
def execWaystationMiss (i : Nat) (s : State) : Host.Outcome State Fault Refusal :=
  let w := wayAt s i
  let passed := decide (w.release + w.slack < ibell s)
  -- a caravan-wide waystation is missed at the members that wait at it
  let open_ := if w.kind = 1 then w.owner == memberIndex s && !s.itn.arrivals.contains i
    else w.wide && i == s.itn.way && decide (1 ≤ s.itn.phase) && s.itn.stopPoint != some i
  if s.itn.run = .running ∧ passed = true ∧ open_ = true ∧ i < (ways s).length then
    .next (raiseCause (setRegBit s Reg.ITN_ERR 1) 1 i)
  else .next s

/-! ### Resumption (R330, R331) -/

/-- RESUME: the member reloads its buffers, restores the serving state of the checkpoint, and is ready. Where stack
contents have been lost since the checkpoint it never is. -/
def execResume (s : State) : Host.Outcome State Fault Refusal :=
  if s.itn.run ≠ .aborting then .next s
  else
    let back := { s with srv := { s.srv with core := s.srv.saved.getD s.srv.core } }
    let lost := s.mem.losses != s.itn.lossMark || s.mem.stks.any fun k => k.state == .off || k.state == .fault
    let s1 := loadArrays { back with itn := { back.itn with run := .resuming, phase := if lost then 0 else 1,
                                                            shift := s.bell - s.itn.startAt.getD 0 - (wayAt s s.itn.ckpt).release } }
    .next (if s.itn.preemptReq ∧ isLead s = true ∧ (wayAt s s.itn.ckpt).canStop = true then
        { s1 with itn := { s1.itn with stopPoint := some s.itn.ckpt, stopPre := true } } else s1)

/-- RESUME_TIMEOUT: bell A + 65,536 has come with no release; the run ends (R331). -/
def execResumeTimeout (s : State) : Host.Outcome State Fault Refusal :=
  if runActive s = true ∧ unresumed s = true ∧ s.itn.abortBell + 65536 ≤ s.bell then
    .next (endRun (setRegBit { s with itn := { s.itn with lastCause := 5 } } Reg.ITN_ERR 0) true)
  else .next s

/-! ### SCHED slots (R356) -/

/-- The flits of a packet whose bodies hold a byte of a poisoned source word (R615). -/
def poisonFlits (bs : List PByte) : List Nat :=
  (List.range ((24 + bs.length) / 120 + 1)).filter fun f => (bs.zipIdx).any fun x => x.1.poison && decide ((24 + x.2) / 120 = f)

/-- One packet of a SCHED transfer: sent on its route, or by every child port for TREE (R356, R358); the transfer's
channel keeps the running value of its CRC (R365, R532). -/
def schedPacket (s : State) (e : BitVec 384) (off : Nat) : State :=
  let n := min 4096 (slotF e 34 0 32 - off)
  let r := readMem s 0 .stream (slotF e 24 0 40 + off) n
  let tree := slotF e 8 0 8 == 8
  let fr := freeVal r.2
  -- what the destination field of a TREE packet holds is open
  let dest := if tree then fr.1 else match s.itn.caravan with | some c => nth c.ids (slotF e 10 0 10) 0 | none => 0
  let route := if tree then 0 else slotF e 16 0 64
  let p := mkHeader dest (slotF e 8 0 8) (selfId s) 0 (slotF e 14 0 16) (slotF e 12 0 16) route (slotF e 29 0 40 + off)
             (if tree then 0 else slotF e 9 0 2) n ++ r.1.map (·.b)
  let bad := poisonFlits r.1
  let send := fun (s : State) (port : Nat) => if mayUse s 0 && (portAt s port).schedOk then (true, sendOn s port 0 p bad) else (false, schedDrop s port)
  let s1 := chanSet (if tree then fr.2 else r.2) (slotF e 38 0 5) (Nat.xor (e2e p) 0xFFFFFFFF)
  if tree then (childPorts s1).foldl (fun s c => (send s c).2) s1
  else
    let o := send s1 (route % 16)
    if o.1 then { o.2 with itn := { o.2.itn with schedOut := o.2.itn.schedOut ++ [pkId p] } } else o.2

/-- The entry of an item that is a SCHED slot. -/
def slotOf (i : Item) : Option (BitVec 384) := match i.work with | .sched e => some e | .osend e _ => some e | _ => none

/-- Whether two slots have a target module in common: a TREE transfer goes to every member. -/
def sameTarget (a b : BitVec 384) : Bool := slotF a 8 0 8 == 8 || slotF b 8 0 8 == 8 || slotF a 10 0 10 == slotF b 10 0 10

/-- Whether the slots of the table that come before an item's and go to its target have begun (R273). -/
def slotTurn (s : State) (i : Item) (e : BitVec 384) : Bool :=
  ((itinItems s).takeWhile fun x => x.id != i.id).all fun x =>
    match slotOf x with
    | some y => x.variant != s.itn.variant || s.itn.begun.contains x.id || !sameTarget y e
    | none => true

/-- The packets of a slot, of at most 4,096 bytes each, in order (R357). -/
def sendSlot (s : State) (e : BitVec 384) : State :=
  loopN (ceilDiv (slotF e 34 0 32) 4096) s fun k s => schedPacket s e (4096 * k)

/-- Whether an item is a slot that may begin. -/
def slotDue (s : State) (i : Item) : Bool := match slotOf i with | some e => itemReady s i && slotTurn s i e | none => false

/-- SCHED_SLOT: the next slot of the fabric table that may begin sends its packets; a member that holds no block of a
slot has no result of it to send (R273, R357, R401). -/
def execSchedSlot (s : State) : Host.Outcome State Fault Refusal :=
  match (itinItems s).find? (slotDue s) with
  | none => .next s
  | some i =>
    let s1 := beginItem s i
    match i.work with
    | .sched e => .next (itemDone (sendSlot s1 e) (some i.id))
    | .osend e slot => .next (itemDone (if holdsSlot s (memberIndex s) slot then sendSlot s1 e else s1) (some i.id))
    | _ => .next s

/-! ### Registers (R333, R334) -/

/-- A write of ITN_STRETCH: host_min out of range is ignored in whole. -/
def writeStretch (s : State) (v : Nat) : State :=
  let n := bitsOf v 24 7
  if n < 16 ∨ 64 < n then setRegBit s Reg.ITN_ERR 3 else plainWrite s Reg.ITN_STRETCH v
/-- ITN_STRETCH. -/
def execItnStretch (v : W64) (s : State) : Host.Outcome State Fault Refusal := .next (writeStretch s v.toNat)

/-- A write of ITN_CTRL. -/
def writeItnCtrl (s : State) (v : Nat) : State :=
  let s1 := plainWrite s Reg.ITN_CTRL v
  if bitAt v 7 then setReg (setField s1 Reg.ITN_ABORT 0 32 0) Reg.ITN_GATE 0 else s1
/-- ITN_CLR_COUNTERS: a write of ITN_CTRL with clr_counters set. -/
def execItnClrCounters (v : W64) (s : State) : Host.Outcome State Fault Refusal := .next (writeItnCtrl s (v ||| 0x80).toNat)

/-- ITN_STATUS.state. -/
def runCode : RunState → Nat
  | .none => 0 | .loaded => 1 | .waitStart => 2 | .running => 3 | .stoppedPreempt => 4 | .stoppedHalt => 5 | .aborting => 6
  | .resuming => 7 | .ended => 8

/-- What the ITN_ registers that mirror the engine read; none for the others. -/
def itnView (s : State) (a : Nat) : Option Nat :=
  let w := wayAt s s.itn.way
  if a = Reg.ITN_STATUS then
    some (memberIndex s * 2 ^ 38 + depth s * 2 ^ 33 + dMax s * 2 ^ 28 + runCode s.itn.run * 2 ^ 24 + s.itn.variant)
  else if a = Reg.ITN_IMAGE then some (s.itn.len * 2 ^ 40 + s.itn.base * 2 ^ 16)
  else if a = Reg.ITN_BELL then some s.bell
  else if a = Reg.ITN_IBELL then some (if runActive s then ibell s else 0)
  else if a = Reg.ITN_STRETCH then
    some (regField s Reg.ITN_STRETCH 24 7 * 2 ^ 24 + ownStretch s * 2 ^ 16 + s.itn.pend * 2 ^ 8 + s.itn.inForce)
  else if a = Reg.ITN_STOP then
    some (b2n (s.itn.cause != 0) * 2 ^ 11 + b2n (haltCause s) * 2 ^ 10 + b2n s.itn.preemptReq * 2 ^ 9 + s.itn.decided * 2 ^ 4 + s.itn.sent)
  else if a = Reg.ITN_WAY then
    some (if s.itn.image.isSome then s.itn.way * 2 ^ 48 + w.kind * 2 ^ 44 + s.itn.phase * 2 ^ 42 + w.release % 2 ^ 40 else 0)
  else if a = Reg.ITN_CKPT then some (s.itn.ckpt * 2 ^ 48 + (wayAt s s.itn.ckpt).release)
  else if a = Reg.ITN_SHIFT then some s.itn.shift
  else if a = Reg.ITN_ABORT then
    some (s.itn.lastWay * 2 ^ 48 + s.itn.lastCause * 2 ^ 44 + min s.itn.segAborts 15 * 2 ^ 40 + regField s Reg.ITN_ABORT 0 32)
  else none

end Sys2Proof.Machine
end

