-- ==== Sys2Proof/Machine/Serving.lean ====
section
/-!
DEFINITION. The serving engines (chapter 11): model, tenants, adapters and grammars, the STEP at the lead module, the
manifest at a member, the sampler and the stencil engine, and the hub-list actions.
-/
namespace Sys2Proof.Machine

/-! ### The holder of the itinerary engine (R487) -/

/-- A context's engine state where it is not the holder. -/
def engineOf (s : State) (key : Nat) : Engine := mgetD { itn := Itn.reset, arrays := [], swapped := [] } s.engines key

/-- What the bell lane and the caravan give the engine stays with the module when the holder changes. -/
def keepCaravan (old new : Itn) : Itn :=
  { new with caravan := old.caravan, caravanOld := old.caravanOld, pend := old.pend, inForce := old.inForce, reqBudget := old.reqBudget, reqThermal := old.reqThermal,
             stopMax := old.stopMax, decided := old.decided, sent := old.sent, alarmMax := old.alarmMax,
             alarmDecided := old.alarmDecided, epochDue := old.epochDue, gateBells := old.gateBells }

/-- Bytes of an array's scratch. -/
def scratchLen : Nat := 0x180000
/-- Where a context's swap area keeps an array's scratch: one scratch after another, by array number. DESIGN CHOICE: the spec
gives the area's size and not its layout. -/
def swapDpa (r : Area) (arr : Nat) : Nat := r.base * 65536 + arr * scratchLen

/-- An array's scratch saved through the fill port to the swap area of its context (R130). Where a stack would make the copy
wait, or a DRAIN still has to read the scratch, the words stay with the context's engine state instead. -/
def saveScratch (key : Nat) (x : State × Engine) (kv : Nat × Arr) : State × Engine :=
  let keep := (x.1, { x.2 with arrays := mset x.2.arrays kv.1 kv.2 })
  match areaOf x.1 (1024 + key) with
  | none => keep
  | some r =>
    if !kv.2.drains.isEmpty || rangeWaits x.1 225 .stream (swapDpa r kv.1) scratchLen then keep
    else
      (writeMem x.1 4 225 .stream (swapDpa r kv.1) (scratchBytes kv.2 0 scratchLen),
       { x.2 with arrays := mset x.2.arrays kv.1 { kv.2 with scratch := [] }, swapped := x.2.swapped ++ [kv.1] })

/-- An array's scratch read back from the swap area: what a loss has taken or poisoned there comes back so (R130). -/
def loadScratch (key : Nat) (s : State) (arr : Nat) : State :=
  match areaOf s (1024 + key) with
  | none => s
  | some r =>
    let x := readMem s 4 .stream (swapDpa r arr) scratchLen
    modArr x.2 arr fun a => scratchWrite a 0 x.1

/-- A tile of a configuration buffer reloaded from the itinerary image (R130). -/
def reloadTile (s : State) (arr : Nat) (t : Tile) : Tile :=
  ((itinItems s).findSome? fun i => match i.work with
    | .tile a u => if a == arr && u.item == t.item then some u else none
    | _ => none).getD t

/-- The trowel commands of the holder as the engine leaves it (R244, R246): those in RUN or HELD are killed, and their items
begin again in full when the context is back; one in COMMIT completes for itself, and its item counts as ended. -/
def leaveTrowels (s : State) : State :=
  let s1 := s.trowels.foldl (fun s kv => killCmd s ⟨kv.1 / 640, kv.1 % 640⟩) s
  let again := s1.trowels.filterMap fun kv => kv.2.rerun.bind (·.item)
  let ends := s1.trowels.filterMap fun kv => kv.2.cmd.bind (·.item)
  let s2 := ends.foldl (fun s i => itemDone s (some i)) s1
  let bare := s2.trowels.map fun (kv : Nat × Trowel) =>
    (kv.1, { kv.2 with rerun := none, cmd := kv.2.cmd.map fun (c : TrwCmd) => { c with item := none } })
  { s2 with trowels := bare.filter (fun (kv : Nat × Trowel) => decide (kv.2 ≠ Trowel.reset)),
            itn := { s2.itn with begun := s2.itn.begun.filter fun i => !again.contains i } }

/-- The holder's engine saved with its arrays' scratch, and no holder (R130, R487). An array in FAULT stays so (R132). -/
def dropEngine (s : State) : State :=
  match s.cmd.holder with
  | none => s
  | some h =>
    let s1 := leaveTrowels s
    let live := s1.arrays.filter fun kv => kv.2.state ≠ .fault
    let x := live.foldl (saveScratch h) (s1, { itn := s1.itn, arrays := [], swapped := [] })
    { x.1 with engines := mset x.1.engines h x.2, itn := keepCaravan s1.itn Itn.reset, arrays := faultsOnly x.1.arrays,
               cmd := { x.1.cmd with holder := none } }

/-- The engine handed to a context: the holder's state is saved; the context's is restored, with scratch from its swap area,
the configuration buffers from its image and the programs of its run (R130, R487, R544). -/
def takeEngine (s : State) (key : Nat) : State :=
  if s.cmd.holder = some key then s
  else
    let s1 := dropEngine s
    let e := engineOf s1 key
    let live := e.arrays.filter fun kv => (mget s1.arrays kv.1).isNone
    let s2 := { s1 with engines := mdel s1.engines key, itn := keepCaravan s1.itn e.itn, cmd := { s1.cmd with holder := some key } }
    let put := fun (s : State) (kv : Nat × Arr) =>
      setArr s kv.1 { kv.2 with active := kv.2.active.map (reloadTile s kv.1), shadow := kv.2.shadow.map (reloadTile s kv.1) }
    let s3 := live.foldl put s2
    let back := e.swapped.filter fun i => live.any fun kv => kv.1 == i
    loadPrograms (back.foldl (loadScratch key) s3)

/-! ### Model (R373, R415) -/

/-- Whether a format code may be a frame format of keys. -/
def keyFmtOk (c : Nat) : Bool := [0x03, 0x04, 0x05, 0x06, 0x0B, 0x0C].contains c
/-- Whether a format code may be the format of queries. -/
def queryFmtOk (c : Nat) : Bool := [0x01, 0x02, 0x03, 0x04, 0x0B, 0x0C].contains c

/-- A model from its descriptor, checked (Table 10.1, Table 11.1, R373, R415). -/
def readModel (bs : List Byte) : Option Model :=
  let b := fun o n => fieldAt bs o n
  let d := match b 6 1 with | 0 => 64 | 1 => 128 | 2 => 256 | _ => 0
  let m : Model :=
    { vocab := b 0 4, p := b 4 1, layout := b 5 1, d := d, verify := bitAt (b 7 1) 0, autoIndex := bitAt (b 7 1) 1,
      wide := bitAt (b 7 1) 2, lkv := b 8 2, hm := b 10 1, glog2 := b 11 1, f := b 12 2, kfmt := b 14 2, vfmt := b 16 2,
      qfmt := b 18 2, salt := (bs.drop 20).take 16, store := b 36 4, maxRank := b 40 2, hash := sha256 bs }
  let k := m.kfmt % 32
  let v := m.vfmt % 32
  let q := m.qfmt % 32
  let ok := decide (1 ≤ m.vocab) && decide (m.vocab ≤ 262144) && decide (1 ≤ m.p) && decide (m.p ≤ 2)
    && (m.layout == 1 || m.layout == 2) && d != 0 && decide (b 7 1 < 8) && decide (1 ≤ m.lkv) && decide (m.lkv ≤ 256)
    && decide (1 ≤ m.hm) && decide (m.hm ≤ 64) && decide (m.glog2 ≤ 16) && decide (1 ≤ m.f) && decide (m.f ≤ 1024)
    && (fmtDecode m.kfmt).isSome && (fmtDecode m.vfmt).isSome && (fmtDecode m.qfmt).isSome
    && keyFmtOk k && keyFmtOk v && !isInt v && queryFmtOk q && isInt k == isInt q
    && m.store != 0 && m.store % 65536 == 0 && decide (1 ≤ m.maxRank) && decide (m.maxRank ≤ 256)
    && ((bs.drop 42).take 22).all (· == 0) && decide (m.lkv * m.f * m.rows ≤ 32768)
  if ok then some m else none

/-- p put in force; on a change the contents of memory are undefined until written, as memory never written
(R179). -/
def setGroups (s : State) (p : Nat) : State :=
  if s.mem.p = p then s
  else { s with mem := { s.mem with p := p, dram := [], chk := [] }, scr := { s.scr with lines := [], victims := [] } }

/-- The ranges that MODEL_LOAD reserves, in 64 KiB units: ledger entries and block tables, slot records and token
windows, adapter stores, stencil store. -/
def modelAreas (m : Model) : List (Nat × Nat) :=
  [(0, 512 + 16384), (1, 1028), (2, 256 * (m.store / 65536)), (3, 64 + 64 * ceilDiv m.vocab 512)]

/-- Reserve the model's ranges, all or none. -/
def reserveModel (s : State) (m : Model) : Option State :=
  (modelAreas m).foldl (fun (a : Option State) x => a.bind fun s => reserve s x.1 x.2) (some s)

/-- Serving state of a model just loaded: empty index, FREE entries and frames, retired frames RETIRED, no slot,
tenant, adapter or grammar (R414, R415). -/
def freshModel (s : State) (m : Model) : State :=
  let s1 := { s with srv := { s.srv with model := some m, core := SrvCore.reset, saved := none, nextStep := 0, tenants := [], adapters := [],
                                         grammars := [] } }
  s1.mem.retired.foldl retireFrames s1

/-- MODEL_LOAD (R415). -/
def execModelLoad (p : Packet) (hv : HostView) (s : State) : Host.Outcome State Fault Refusal :=
  command 0x0501 p (.modelLoad p hv) (fun s _ =>
    match (hostImage hv (prm p 0 0 64) 64 64).bind readModel with
    | none => no s p (hostError hv [(prm p 0 0 64, 64, 64)])
    | some m =>
      match reserveModel (setGroups s m.p) m with
      | none => no s p stBusy
      | some s1 => .now (setWork (freshModel s1 m) .loaded) (done p)) s

/-- Everything that MODEL_LOAD set is discarded (R415). -/
def dropModel (s : State) : State :=
  let s1 := [0, 1, 2, 3].foldl unreserve s
  { s1 with srv := { s1.srv with model := none, core := SrvCore.reset, saved := none, nextStep := 0, tenants := [], adapters := [],
                                 grammars := [] } }
/-- MODEL_UNLOAD, which empties the quarantine list (R622). -/
def execModelUnload (p : Packet) (hv : HostView) (s : State) : Host.Outcome State Fault Refusal :=
  command 0x0502 p (.modelUnload p hv) (fun s _ =>
    let s1 := dropModel s
    .now (setWork { s1 with flt := { s1.flt with quarantine := [], overflow := false } } .configured) (done p)) s

/-- TENANT_SET (R417). -/
def execTenantSet (p : Packet) (hv : HostView) (s : State) : Host.Outcome State Fault Refusal :=
  command 0x040A p (.tenantSet p hv) (fun s _ =>
    let t := prm p 0 0 8
    let cls := prm p 0 8 1 = 1
    let en := prm p 0 9 1 = 1
    let old := tenantAt s t
    let used := s.srv.core.slots.any fun x => x.2.state != 0 && x.2.tenant == t
    if used ∧ (old.1 ≠ decide cls ∨ ¬ en) then no s p stBusy
    else .now { s with srv := { s.srv with tenants := mput (false, false) s.srv.tenants t (decide cls, decide en) } } (done p)) s

/-! ### Adapters (R443 to R445) -/

/-- The stores in use. -/
def usedStores (s : State) : List Nat :=
  s.srv.adapters.flatMap fun kv => [kv.2.cur, kv.2.ret, kv.2.load].filterMap fun g => g.map (·.2)

/-- The DPA of an adapter store. -/
def storeDpa (s : State) (m : Model) (i : Nat) : Nat := (match areaOf s 2 with | some a => a.base * 65536 | none => 0) + i * m.store

/-- ADAPTER_LOAD (R444). -/
def execAdapterLoad (p : Packet) (hv : HostView) (s : State) : Host.Outcome State Fault Refusal :=
  command 0x0503 p (.adapterLoad p hv) (fun s _ =>
    match s.srv.model with
    | none => no s p stWrongState
    | some m =>
      let a := prm p 0 0 8
      let g := prm p 0 16 16
      let len := prm p 16 0 64
      let x := adapterAt s a
      let isG := fun (y : Option (Nat × Nat)) => match y with | some c => c.1 == g | none => false
      if g = 0 ∨ isG x.cur = true ∨ isG x.ret = true ∨ m.maxRank < prm p 4 0 9 ∨ len = 0 ∨ m.store < len then no s p stBadParam
      else
        match hostImage hv (prm p 8 0 64) len 64, x.load with
        | none, _ => no s p (hostError hv [(prm p 8 0 64, len, 64)])
        | some _, some _ => no s p stBusy
        | some img, none =>
          let put := fun (s : State) (i : Nat) (x : AdSlot) =>
            let s1 := writeMem s 4 225 .stream (storeDpa s m i) (clean img)
            Verdict.later (setAdapter s1 a { x with load := some (g, i) }) [] none
          match firstBelow 256 fun i => !(usedStores s).contains i with
          | some i => put s i x
          | none =>
            match x.cur with
            | some c => if x.curUse = 0 then put s c.2 { x with cur := none } else no s p stBusy
            | none => no s p stBusy) s

/-- Whether writes to an adapter store still wait at a stack (R199). -/
def storeHeld (s : State) (i : Nat) : Bool :=
  match s.srv.model with
  | some m => s.mem.stks.any fun k => k.held.any fun h => h.write && decide (storeDpa s m i ≤ h.dpa) && decide (h.dpa < storeDpa s m i + m.store)
  | none => false

/-- ADAPTER_LOAD_DONE: the loading generation of a slot becomes current, the former one retiring, or freed at once
where no step names it (R444, R445); it waits until the store's writes are performed (R296). -/
def execAdapterLoadDone (a : Nat) (s : State) : Host.Outcome State Fault Refusal :=
  let x := adapterAt s a
  match x.load with
  | none => .next s
  | some g =>
    if storeHeld s g.2 then .next s else
    let y := if x.cur.isSome ∧ x.curUse ≠ 0 then { x with cur := some g, load := none, curUse := 0, ret := x.cur, retUse := x.curUse }
      else { x with cur := some g, load := none, curUse := 0 }
    let s1 := setAdapter s a y
    .next (match s1.cmd.inProg.find? fun c => c.op = 0x0503 ∧ prm c.pkt 0 0 8 = a with
      | some c => completeProg s1 c (done c.pkt)
      | none => s1)

/-- ADAPTER_FREE (R444, R445). -/
def execAdapterFree (p : Packet) (hv : HostView) (s : State) : Host.Outcome State Fault Refusal :=
  command 0x0504 p (.adapterFree p hv) (fun s _ =>
    let a := prm p 0 0 8
    let x := adapterAt s a
    match x.cur with
    | none => .now s (done p)
    | some c =>
      let y := if x.curUse = 0 then { x with cur := none } else { x with cur := none, curUse := 0, ret := some c, retUse := x.curUse }
      .now (setAdapter s a y) (done p)) s

/-! ### Grammars (R440) -/

/-- A grammar image read and checked. -/
def readGrammar (m : Model) (bs : List Byte) : Option Grammar :=
  let states := fieldAt bs 0 4
  let masks := fieldAt bs 4 4
  let size := ceilDiv m.vocab 512 * 64
  let base := ceilDiv (64 + 4 * states) 64 * 64
  if 1 ≤ states ∧ states ≤ 1048576 ∧ 1 ≤ masks ∧ masks ≤ 65536 ∧ fieldAt bs 8 4 = m.vocab ∧ ((bs.drop 12).take 52).all (· == 0) = true
      ∧ base + masks * size ≤ bs.length then
    let idx := (List.range states).map fun i => fieldAt bs (64 + 4 * i) 4
    if idx.all fun i => decide (i < masks) then
      some ⟨idx, (List.range masks).map fun i => fieldAt bs (base + i * size) size % 2 ^ m.vocab⟩
    else none
  else none

/-- Whether an admitted step that has not completed names a grammar index. -/
def grammarNamed (s : State) (g : Nat) : Bool :=
  match s.srv.core.run with
  | some r => r.entries.any fun e => e.runs && e.constrained && e.msrc == 2 && e.grammar == g
  | none => false

/-- GRAMMAR_LOAD refused: STN_ERR and the event. -/
def grammarRefused (s : State) (p : Packet) (status : Nat) : Verdict :=
  no (raiseIf (setRegBit s Reg.STN_ERR 0) Reg.STN_CTRL 0 0x006C (prm p 0 0 6)) p status

/-- GRAMMAR_LOAD (R440). -/
def execGrammarLoad (p : Packet) (hv : HostView) (s : State) : Host.Outcome State Fault Refusal :=
  command 0x0505 p (.grammarLoad p hv) (fun s _ =>
    match s.srv.model with
    | none => no s p stWrongState
    | some m =>
      let i := prm p 0 0 6
      match hostImage hv (prm p 8 0 64) (prm p 16 0 64) 64, (hostImage hv (prm p 8 0 64) (prm p 16 0 64) 64).bind (readGrammar m) with
      | none, _ => no s p (hostError hv [(prm p 8 0 64, prm p 16 0 64, 64)])
      | _, none => grammarRefused s p stBadParam
      | some _, some g =>
        let others := s.srv.grammars.filter fun kv => kv.1 ≠ i
        let states := others.foldl (fun n kv => n + kv.2.maskOf.length) g.maskOf.length
        let masks := others.foldl (fun n kv => n + kv.2.masks.length) g.masks.length
        if grammarNamed s i ∨ 1048576 < states ∨ 65536 < masks then grammarRefused s p stBusy
        else
          .now (raiseIf { s with srv := { s.srv with grammars := mset s.srv.grammars i g } } Reg.STN_CTRL 0 0x006C i) (done p)) s

/-- GRAMMAR_FREE (R440). -/
def execGrammarFree (p : Packet) (hv : HostView) (s : State) : Host.Outcome State Fault Refusal :=
  command 0x0506 p (.grammarFree p hv) (fun s _ =>
    let i := prm p 0 0 6
    if grammarNamed s i then no s p stBusy
    else .now { s with srv := { s.srv with grammars := mdel s.srv.grammars i } } (done p)) s

/-! ### STEP at the lead module (R420 to R423, R430) -/

/-- The entries of an image up to the first whose lists lie outside it or whose slot does not ascend. -/
def readEntries (img : List Byte) (n : Nat) : Nat → Nat → Option Nat → List MEntry
  | 0, _, _ => []
  | k + 1, i, last =>
    match readEntry img n i with
    | none => []
    | some e =>
      if (match last with | some x => decide (e.slot ≤ x) | none => false) then []
      else e :: readEntries img n k (i + 1) (some e.slot)

/-- A manifest image from host memory: its bytes, its entry count and its entries up to the first that cannot be read;
none on a failure of the header. -/
def fetchManifest (hv : HostView) (a slot : Nat) : Option (List Byte × Nat × List MEntry) :=
  match hostImage hv a 32 64 with
  | none => none
  | some h =>
    let n := fieldAt h 0 4
    let len := fieldAt h 4 4
    if n = 0 ∨ 4096 < n ∨ len < 32 + 48 * n ∨ slot < len ∨ fieldAt h 8 24 ≠ 0 then none
    else (hostImage hv a len 64).map fun img => (img, n, readEntries img n n 0 none)

/-- The status of a manifest image that cannot be used. -/
def manifestError (hv : HostView) (a slot : Nat) : Nat :=
  let len := match hostImage hv a 32 64 with | some h => fieldAt h 4 4 | none => 32
  hostError hv [(a, if len ≤ slot then max 32 len else 32, 64)]

/-- The first JOIN that names a block which the step cannot read: its slot and block (R411). -/
def unreadable (s : State) (m : Model) (es : List MEntry) : Option (Nat × Nat) :=
  es.findSome? fun e => if e.action = 1 then (e.blocks.find? fun b => !blockReadable m (entryAt s b)).map fun b => (e.slot, b) else none

/-- The staged image: step index, variant, SKIP actions, and each sampled token in a list appended (R423). -/
def stageImage (s : State) (img : List Byte) (es : List MEntry) (index variant : Nat) : List Byte :=
  let used := es.filter fun e => e.runs && e.useSampled
  let base := ceilDiv img.length 4 * 4
  let entry := fun (e : MEntry) =>
    let k := used.findIdx fun u => u.slot == e.slot
    let ws := if e.runs && e.useSampled then e.words.set 2 (base + 4 * k) else e.words
    ws.flatMap (leBytes 4)
  let tail := used.flatMap fun e => leBytes 4 ((slotAt s e.slot).last.getD 0)
  leBytes 4 es.length ++ leBytes 4 (base + 4 * used.length) ++ leBytes 8 index ++ leBytes 1 variant ++ List.replicate 15 0
    ++ es.flatMap entry ++ padTo (base - (32 + 48 * es.length)) (img.drop (32 + 48 * es.length)) ++ tail

/-- A TREE packet of the manifest slot sent on every child port; what its destination field holds is open, and the slot's
channel keeps the running value of its CRC (R357, R365). -/
def sendManifest (e : BitVec 384) (s : State) (c : List Byte × Nat) : State :=
  let d := freeVal s
  let p := mkHeader d.1 0x08 (selfId s) 0 (slotF e 14 0 16) (slotF e 12 0 16) 0 (slotF e 29 0 40 + 4096 * c.2) 0 c.1.length ++ c.1
  let s1 := chanSet d.2 (slotF e 38 0 5) (Nat.xor (e2e p) 0xFFFFFFFF)
  (childPorts s1).foldl (fun s n => if mayUse s 0 && (portAt s n).schedOk then sendOn s n 0 p [] else schedDrop s n) s1

/-- The manifest or start record sent in the manifest slot, in TREE packets of at most 4,096 bytes (R310, R357, R358). -/
def broadcast (s : State) (bytes : List Byte) : State :=
  match s.itn.image with
  | none => s
  | some g =>
    let cs := chunks 4096 (bytes.length / 4096 + 1) bytes
    (cs.zip (List.range cs.length)).foldl (sendManifest g.slot) s

/-- The variant that covers a shape, or the first bucket that fails in the last variant (R403). -/
def pickVariant (g : ItinImage) (shape : List Nat) : Nat ⊕ Nat :=
  match g.shapes.findIdx? (covers shape) with
  | some v => .inl v
  | none => .inr ((firstBelow 18 fun i => decide (nth (g.shapes.getLast?.getD []) i 0 < nth shape i 0)).getD 0)

/-- The bytes of a step's result area (R428). -/
def resultBytes (es : List MEntry) : Nat := 32 * es.length + 512 * (es.filter fun e => e.emits && e.constrained).length

/-- The deferred page commands applied (pass 1 of R385). -/
def passOne (s : State) : State := (deferredPages s).foldl applyPage s

/-- A step accepted: index, staged image, run, and broadcast (R422, R423). -/
def acceptStep (s : State) (g : ItinImage) (img : List Byte) (tri : List (MEntry × Nat × Bool)) (variant off : Nat) : Verdict :=
  let es := tri.map (·.1)
  let idx := s.srv.nextStep
  let run := StepRun.fresh idx es (tri.map fun t => SRes.fresh t.2.1 t.1.runs)
  let s1 := { s with srv := { s.srv with nextStep := idx + 1, core := { s.srv.core with run := some run } } }
  let s2 := beginRun s1 idx variant (s.bell + g.mbells)
  .later (broadcast s2 (stageImage s img es idx variant)) [] (some off)

/-- The entries of a manifest with the parameter blocks of a VF's entries translated (R520, R522), up to the first whose
block the VF's table does not map to one run of addresses. -/
def vfParams (fn : Nat) : State → List MEntry → List MEntry × State
  | s, [] => ([], s)
  | s, e :: es =>
    let keep := fun (s : State) (e : MEntry) => let r := vfParams fn s es; (e :: r.1, r.2)
    if fn = 0 ∨ e.params = 0 then keep s e
    else
      let r := vfWalk fn false 3 s e.params 576
      match r.1 with
      | some [u] => keep r.2 { e with words := e.words.set 6 (u.1 / 256) }
      | some [u, v] => if v.1 = u.1 + u.2 then keep r.2 { e with words := e.words.set 6 (u.1 / 256) } else ([], r.2)
      | _ => ([], r.2)

/-- Whether an entry's parameter block reads poisoned (R617). -/
def paramPoison (s : State) (e : MEntry) : Bool := e.emits && e.params != 0 && memRange s e.params 576 && paramBad s e.params

/-- STEP's own rules once its manifest is read (R420 to R423); of its n entries those before the first that cannot be
read are given. The first entry at fault decides; a poisoned parameter block gives MEM_UNCORRECTABLE (R617). -/
def stepChecked (p : Packet) (s0 : State) (fn : Nat) (m : Model) (g : ItinImage) (img : List Byte) (n : Nat) (es : List MEntry) : Verdict :=
  let s := takeEngine s0 (ctxKey fn (pktCtx p))
  let at_ := fun i => nth es i ⟨[], [], [], []⟩
  match (List.range es.length).find? fun i => paramPoison s (at_ i) || (entryFails s m g.seed (at_ i)).isSome with
  | some i =>
    let clash := entryFails s m g.seed (at_ i) = some true
    if paramPoison s (at_ i) then no s0 p stMemUe
    else .now (if clash then setRegBit s0 Reg.SMP_ERR 4 else s0) (rejectAt p stBadParam i 0xFFFFFFFF)
  | none =>
    if es.length < n then .now s0 (rejectAt p stBadParam es.length 0xFFFFFFFF)
    else match unreadable s m es with
    | some x => .now s0 (rejectAt p stBadParam x.1 x.2)
    | none =>
      let tri := es.map (triage s s.bell)
      let kept := tri.map (·.1)
      match allocWindow s fn (resultBytes kept), pickVariant g (shapeOf s kept) with
      | none, _ => no s0 p stBusy
      | _, .inr b => .now s0 (rejectAt p stBadParam b 0xFFFFFFFF)
      | some (off, s1), .inl v =>
        match admitStep (passOne s) m (StepRun.fresh 0 kept (kept.map fun e => SRes.fresh 0 e.runs)) with
        | none => no (ldgError s0 2 0) p stBusy
        | some _ => acceptStep s1 g img tri v off

/-- STEP's own rules (R420 to R423). -/
def stepBody (p : Packet) (hv : HostView) (s0 : State) (fn : Nat) : Verdict :=
  let s := takeEngine s0 (ctxKey fn (pktCtx p))
  match s.srv.model, s.itn.image with
  | some m, some g =>
    if p.deadline ≠ 0 then no s0 p stBadParam
    else if g.flags / 2 % 2 = 0 then no s0 p stWrongState
    else if (quarantined s0).isSome then .now s0 (rejectAt p stBusy ((quarantined s0).getD 0) 0xFFFFFFFF)
    else
      match fetchManifest hv (prm p 0 0 64) (slotF g.slot 34 0 32) with
      | none => .now s0 (rejectAt p (manifestError hv (prm p 0 0 64) (slotF g.slot 34 0 32)) 0xFFFFFFFF 0xFFFFFFFF)
      | some x => let r := vfParams fn s0 x.2.2; stepChecked p r.2 fn m g x.1 x.2.1 r.1
  | _, _ => no s0 p stWrongState

/-- STEP (R423). -/
def execStep (p : Packet) (hv : HostView) (s : State) : Host.Outcome State Fault Refusal :=
  command 0x0401 p (.step p hv) (stepBody p hv) s

/-! ### The manifest at a member (R385, R424) -/

/-- A slot whose CONTINUE was skipped past its deadline is held (R430). -/
def holdSkipped (s : State) (x : MEntry × SRes) : State :=
  if x.1.action = 3 ∧ x.2.status = stDoneLate ∧ (slotAt s x.1.slot).state = 1 then
    raiseIf (setRegBit (modSlot s x.1.slot fun y => { y with state := 2, cause := 1 }) Reg.SMP_ERR 1) Reg.SMP_CTRL 2 0x0068 x.1.slot
  else s

/-- The admission of the step in progress at this member. -/
def admitHere (s : State) (m : Model) (r : StepRun) : State :=
  match admitStep s m r with
  | none => s
  | some s1 =>
    let nrw := m.qfmt % 32 = 1 ∨ m.qfmt % 32 = 2
    let s2 := modRun s1 fun r => { r with res := (r.res.zip r.entries).map fun x =>
      if nrw ∧ x.2.runs = true then { x.1 with flags := x.1.flags.or .onlyNrw } else x.1 }
    (r.entries.zip r.res).foldl holdSkipped s2

/-- A page operation of the lead's pass 1 as another member performs it: opcode, and blocks, or n, slot and first
block number of a PAGE_ALLOC. -/
def memberPage (m : Model) (s : State) (op : Nat × List Nat) : State :=
  if op.1 = 0x0404 then
    loopN (nth op.2 0 0) s fun i s => match allocBlock s m (nth op.2 1 0) (nth op.2 2 0 + i) with | some x => x.2 | none => s
  else op.2.foldl (fun s b => ((if op.1 = 0x0406 then dropRef else takeRef) s b).getD s) s

/-- The step that a received image describes, with the statuses of its skipped entries. -/
def receivedStep (s : State) (img : List Byte) (sent : Nat) : StepRun :=
  let n := fieldAt img 0 4
  let es := (List.range n).filterMap fun i => readEntry img n i
  StepRun.fresh (fieldAt img 8 8) (es.map fun e =>
      if e.runs && e.useSampled then { e with words := e.words.set 0 (setBits (e.w 0) 27 1 0), tokens := (imageList img n (e.w 2) 1).getD [] } else e)
    (es.map fun e => SRes.fresh (if e.action ≠ 3 then stDone else
      if e.deadline ≠ 0 ∧ e.deadline ≤ sent ∧ (slotAt s e.slot).state = 1 then stDoneLate else stWrongState) e.runs)

/-- MANIFEST_ADMIT: the module processes the manifest of its step, or at a member the manifest or start record that
arrived, sent at bell `sent`; `pages` are the page operations of the lead's pass 1 as that member learns them. -/
def execManifestAdmit (sent : Nat) (pages : List (Nat × List Nat)) (s : State) : Host.Outcome State Fault Refusal :=
  match s.srv.core.run, s.srv.model, s.fab.tree with
  | some r, some m, _ => .next (if r.admitted || !isLead s then s else admitHere (passOne s) m r)
  | none, m?, t :: ts =>
    if isLead s then .next s
    else
      let img := (t :: ts).flatten
      let s0 := { s with fab := { s.fab with tree := [] } }
      match s.itn.image, m? with
      | some g, some m =>
        if g.flags / 2 % 2 = 1 then
          let s1 := pages.foldl (memberPage m) (beginRun s0 (fieldAt img 8 4) (fieldAt img 16 1) (sent + g.mbells))
          let s2 := { s1 with srv := { s1.srv with nextStep := fieldAt img 8 8 + 1 } }
          .next (admitHere s2 m (receivedStep s2 img sent))
        else .next (beginRun s0 (fieldAt img 0 4) 0 (sent + g.mbells))
      | some g, none => .next (if g.flags / 2 % 2 = 1 then s0 else beginRun s0 (fieldAt img 0 4) 0 (sent + g.mbells))
      | none, _ => .next s0
  | _, _, _ => .next s

/-! ### Hub-list actions (R425, R426, R377) -/

/-- The next action of a code that may begin. -/
def nextAction (s : State) (code : Nat) : Option (Item × List Nat) :=
  (itinItems s).findSome? fun i => match i.work with
    | .hub c args => if c = code ∧ itemReady s i = true then some (i, args) else none
    | _ => none

/-- One emitting row taken by its engine: the k-th row goes to lane k mod 8, or k mod 4. -/
def takeRow (s : State) (item fmt dpa : Nat) (entry : Nat) (constrained : Bool) : State :=
  modRun s fun r =>
    if constrained then { r with stnq := r.stnq ++ [⟨entry, item, r.stnN % 4, dpa, fmt⟩], stnN := r.stnN + 1 }
    else { r with smpq := r.smpq ++ [⟨entry, item, r.smpN % 8, dpa, fmt⟩], smpN := r.smpN + 1 }

/-- Whether rows of an EMIT item are still to be done or to be taken. -/
def rowsLeft (s : State) (item : Nat) : Bool :=
  (mget s.itn.planAt item).isSome
  || (match s.srv.core.run with | some r => (r.smpq ++ r.stnq).any fun x => x.item == item | none => false)

/-- Whether the engine that a row goes to has room: each queues 4,096 rows (R447). -/
def rowRoom (s : State) (constrained : Bool) : Bool :=
  match s.srv.core.run with | some r => decide ((if constrained then r.stnq else r.smpq).length < 4096) | none => false

/-- The rows of an EMIT action from its k-th on, `n` of them: the action waits at the first whose engine has no room, and
goes on from there (R24, R447). -/
def emitRows (r : StepRun) (item : Nat) (a : List Nat) : Nat → Nat → State → State
  | 0, _, s => { s with itn := { s.itn with planAt := mdel s.itn.planAt item } }
  | n + 1, k, s =>
    match r.entries[nth a 2 0 + k]? with
    | some e =>
      if !e.emits then emitRows r item a n (k + 1) s
      else if rowRoom s e.constrained then
        emitRows r item a n (k + 1) (takeRow s item (nth a 0 0) (nth a 1 0 + k * nth a 4 0) (nth a 2 0 + k) e.constrained)
      else { s with itn := { s.itn with planAt := mset s.itn.planAt item k } }
    | none => emitRows r item a n (k + 1) s

/-- The EMIT action that waits for room, with how many of its rows are taken. -/
def waitingEmit (s : State) : Option (Item × List Nat × Nat) :=
  (itinItems s).findSome? fun i => match i.work with
    | .hub 1 args => (mget s.itn.planAt i.id).map fun k => (i, args, k)
    | _ => none

/-- EMIT: the EMIT action that waits for room, else the next one, sends its emitting rows to their engines, in ascending
entry order. Arguments: lfmt, dpa, first, count, stride. -/
def execEmit (s : State) : Host.Outcome State Fault Refusal :=
  let act := match waitingEmit s with
    | some (i, a, k) => some (s, i, a, k)
    | none => (nextAction s 1).map fun (x : Item × List Nat) => (beginItem s x.1, x.1, x.2, 0)
  match act, s.srv.core.run with
  | some (s0, i, a, k), some r =>
    let s1 := emitRows r i.id a (nth a 3 0 - k) k s0
    .next (if rowsLeft s1 i.id then s1 else itemDone s1 (some i.id))
  | _, _ => .next s

/-- RECODE: the next RECODE action records the new formats of full blocks. Arguments: kfmt, vfmt, first, count,
block. -/
def execRecode (s : State) : Host.Outcome State Fault Refusal :=
  match nextAction s 2, s.srv.core.run, s.srv.model with
  | some (i, a), some r, some m =>
    let s0 := beginItem s i
    let s1 := match r.entries[nth a 2 0]? with
      | none => s0
      | some e => loopN (nth a 3 0) s0 fun k s =>
          match (slotAt s e.slot).table[nth a 4 0 + k]? with
          | some b =>
            if (entryAt s b).fill = 16 ∧ fitsArea m.d (headBytes m.d m.kfmt) (nth a 0 0) = true
                ∧ fitsArea m.d (headBytes m.d m.vfmt) (nth a 1 0) = true then
              modEntry s b fun x => { x with kfmt := nth a 0 0, vfmt := nth a 1 0 }
            else s
          | none => s
    .next (itemDone s1 (some i.id))
  | _, _, _ => .next s

/-! ### Logits (stages 1 to 3 of R436) -/

/-- FP32 negative and positive infinity. -/
def f32NegInf : Nat := 0xFF800000
def f32PosInf : Nat := 0x7F800000

/-- A NaN becomes -infinity. -/
def dropNaN (v : Nat) : Nat := if (f32 v).isNaN then f32NegInf else v

/-- A row's logits as FP32, with whether a NaN stood there and whether any was poisoned; those of an entry whose adapter or pages
were not there at admission are poisoned whatever stands in memory (R393, R446). -/
def rowLogits (s : State) (m : Model) (x : LRow) (source : Nat) : List Nat × Bool × Bool × State :=
  let w := elemBits x.fmt / 8
  let r := readMem s source .normal x.dpa (m.vocab * w)
  let vs := (chunks w (m.vocab + 1) r.1).map fun e =>
    match layOf x.fmt false with | some l => toF32 (layDecode l (ofLe (e.map (·.b)))) | none => f32NaN
  let marked := match s.srv.core.run with | some q => (q.res[x.entry]?.map (·.poison)).getD false | none => false
  (vs.map dropNaN, vs.any fun v => (f32 v).isNaN, r.1.any (·.poison) || marked, r.2)

/-- The logits with each bias added in list order (stage 2). -/
def addBias (l : List Nat) (bs : List (Nat × Nat)) : List Nat := bs.foldl (fun l b => l.modify b.1 fun v => f32Add v b.2) l

/-- One token's penalties for c occurrences (stage 3). -/
def penalise (p : SParams) (v c : Nat) : Nat :=
  let a := if f32Lt 0 v then f32Div v p.repetition else f32Mul v p.repetition
  f32Sub (f32Sub a (f32Mul p.frequency (toF32 (.fin false c 0)))) p.presence

/-- The last w tokens of the window penalised. -/
def addPenalty (p : SParams) (l window : List Nat) : List Nat :=
  let t := window.drop (window.length - p.window)
  t.eraseDups.foldl (fun l x => l.modify x fun v => penalise p v (t.count x)) l

/-- Stages 2 and 3, with whether a NaN arose. -/
def adjusted (p : SParams) (l window : List Nat) : List Nat × Bool :=
  let r := addPenalty p (addBias l p.bias) window
  (r.map dropNaN, r.any fun v => (f32 v).isNaN)

/-- Whether a logit comes before another: larger first, ties by ascending token. -/
def before (a b : Nat × Nat) : Bool := f32Lt b.2 a.2 || (!f32Lt a.2 b.2 && decide (a.1 < b.1))

/-- Insert into an ordered list kept to k elements. -/
def insertTop (k : Nat) (x : Nat × Nat) : List (Nat × Nat) → List (Nat × Nat)
  | [] => if k = 0 then [] else [x]
  | y :: ys => if before x y then (x :: y :: ys).take k else (y :: insertTop (k - 1) x ys).take k

/-- The k largest of a list of (token, value), in order. -/
def topK (k : Nat) (xs : List (Nat × Nat)) : List (Nat × Nat) := xs.foldl (fun l x => insertTop k x l) []

/-- exp and ln of the sampler and stencil engine (R436). -/
def sExp (v : Nat) : Nat := f32Exp (fun x => Config.smpExpUp (BitVec.ofNat 32 x)) v
def sLn (v : Nat) : Nat := f32Ln (fun x => Config.smpLnUp (BitVec.ofNat 32 x)) v

/-- The weight of a logit against the largest (stage 6). -/
def weight (l0 l : Nat) : Nat :=
  if l0 = f32PosInf then (if l = f32PosInf then 0x3F800000 else 0) else sExp (f32Sub l l0)

/-! ### The sampler (R436 to R438) -/

/-- Running sums of weights. -/
def runSums : Nat → List Nat → List Nat
  | _, [] => []
  | acc, e :: es => let a := f32Add acc e; a :: runSums a es

/-- u of R437 for a seed and a slot step index. -/
def drawU (seed steps : Nat) : Nat :=
  let w := philoxWord (philox (steps % 2 ^ 32, steps / 2 ^ 32 % 2 ^ 32, 0, 0) (seed % 2 ^ 32, seed / 2 ^ 32 % 2 ^ 32)) 0
  toF32 (.fin false (w / 2 ^ 8) (-24))

/-- A choice: token, log-probability, final set size; none for EMPTY. -/
def choose (p : SParams) (l : List Nat) (u : Nat) : Option (Nat × Nat × Nat) :=
  let xs := (l.zip (List.range l.length)).map fun x => (x.2, x.1)
  let live := fun (xs : List (Nat × Nat)) => xs.filter fun x => x.2 ≠ f32NegInf
  if (f32 p.temperature).isZero then (topK 1 (live xs)).head?.map fun x => (x.1, 0, 1)
  else
    let cs := topK (if p.topK = 0 then 1024 else p.topK) (live (xs.map fun x => (x.1, f32Div x.2 p.temperature)))
    match cs with
    | [] => none
    | c0 :: _ =>
      let es := (cs.map fun c => (c.1, weight c0.2 c.2)).filter fun e => !f32Lt e.2 p.minP
      let sums := runSums 0 (es.map (·.2))
      let z := sums.getLastD 0
      let goal := f32Mul p.topP z
      let n := match sums.findIdx? fun a => !f32Lt a goal with | some i => i + 1 | none => es.length
      let z' := nth sums (n - 1) 0
      let tau := f32Mul u z'
      let i := match (sums.take n).findIdx? fun a => f32Lt tau a with | some i => i | none => n - 1
      let e := nth es i (0, 0)
      some (e.1, sLn (f32Div e.2 z'), n)

/-- The parameters of an entry. -/
def entryParams (s : State) (e : MEntry) : SParams := if e.params = 0 then .greedy else readParams (paramBytes s e.params)

/-- A row's result is staged and its EMIT item ends with its last row. -/
def stageRow (s : State) (x : LRow) (f : SRes → SRes) : State :=
  let s1 := modRun s fun r => { r with smpq := r.smpq.filter (· ≠ x), stnq := r.stnq.filter (· ≠ x),
                                       res := r.res.modify x.entry fun y => { f y with ready := true } }
  if rowsLeft s1 x.item then s1 else itemDone s1 (some x.item)

/-- SAMPLE_ROW: a sampler lane completes its OPEN row. -/
def execSampleRow (lane : Nat) (s : State) : Host.Outcome State Fault Refusal :=
  match s.srv.model, s.srv.core.run with
  | some m, some r =>
    match r.smpq.find? fun x => x.lane = lane with
    | none => .next s
    | some x =>
      match r.entries[x.entry]? with
      | none => .next s
      | some e =>
        let p := entryParams s e
        let l := rowLogits s m x 4
        let y := slotAt s e.slot
        let a := adjusted p l.1 y.window
        let inv := if l.2.1 || a.2 then Flags.onlyInv else .none
        let s1 := l.2.2.2
        if l.2.2.1 then .next (stageRow s1 x fun z => { z with poison := true, flags := z.flags.or inv })
        else
          match choose p a.1 (drawU p.seed y.steps) with
          | none => .next (stageRow s1 x fun z => { z with empty := true, flags := z.flags.or inv })
          | some c =>
            .next (bump (stageRow s1 x fun z => { z with token := some c.1, logp := c.2.1, set := c.2.2, flags := z.flags.or inv })
              Reg.SMP_COUNT 32 32 1)
  | _, _ => .next s

/-! ### The stencil engine (R439 to R441) -/

/-- The allowed set of an entry, in ascending token order. -/
def allowedSet (s : State) (m : Model) (e : MEntry) : List Nat :=
  if e.msrc = 1 then (List.range m.vocab).filter e.masks.contains
  else
    match mget s.srv.grammars e.grammar with
    | some g => let k := nth g.masks (nth g.maskOf e.maskRef 0) 0; (List.range m.vocab).filter fun t => bitAt k t
    | none => []

/-- The largest of some logits, -infinity for none. -/
def maxLogit (l : List Nat) : Nat := l.foldl (fun a b => if f32Lt a b then b else a) f32NegInf

/-- Log-probabilities of the allowed tokens. -/
def logProbs (xs : List (Nat × Nat)) : List (Nat × Nat) :=
  let m := maxLogit (xs.map (·.2))
  let z := (xs.map fun x => weight m x.2).foldl f32Add 0
  xs.map fun x =>
    (x.1, if m = f32PosInf then (if x.2 = f32PosInf then Nat.xor (sLn z) 0x80000000 else f32NegInf) else f32Sub (f32Sub x.2 m) (sLn z))

/-- STENCIL_ROW: a stencil lane completes its CONSTRAINED row. -/
def execStencilRow (lane : Nat) (s : State) : Host.Outcome State Fault Refusal :=
  match s.srv.model, s.srv.core.run with
  | some m, some r =>
    match r.stnq.find? fun x => x.lane = lane with
    | none => .next s
    | some x =>
      match r.entries[x.entry]? with
      | none => .next s
      | some e =>
        let p := entryParams s e
        let l := rowLogits s m x 4
        let a := adjusted p l.1 (slotAt s e.slot).window
        let inv := if l.2.1 || a.2 then Flags.onlyInv else .none
        let set := allowedSet s m e
        let v := if f32Lt 0 p.temperature then a.1.map fun y => f32Div y p.temperature else a.1
        let xs := set.map fun t => (t, nth v t f32NegInf)
        let s1 := l.2.2.2
        if l.2.2.1 then
          .next (stageRow (setRegBit s1 Reg.STN_ERR 2) x fun z => { z with poison := true, set := set.length, flags := z.flags.or inv })
        else if xs.all fun y => y.2 == f32NegInf then
          let s2 := raiseIf (bump (setRegBit s1 Reg.STN_ERR 1) Reg.STN_COUNT 0 32 1) Reg.STN_CTRL 1 0x006B e.slot
          .next (stageRow s2 x fun z => { z with empty := true, set := set.length, flags := z.flags.or inv })
        else
          let n := min (if p.topK = 0 then 64 else p.topK) 64
          let cs := topK n ((logProbs xs).filter fun y => y.2 ≠ f32NegInf)
          .next (stageRow (bump s1 Reg.STN_COUNT 32 32 1) x fun z => { z with cands := cs, set := set.length, flags := z.flags.or inv })
  | _, _ => .next s

/-! ### SMP_ and STN_ registers (R448, R449) -/

/-- A write of SMP_SEL, ignored in whole with a nonzero reserved field. -/
def writeSmpSel (s : State) (v : Nat) : State :=
  if v / 2 ^ 44 ≠ 0 ∨ bitsOf v 16 16 ≠ 0 then setRegBit s Reg.SMP_ERR 0 else setReg s Reg.SMP_SEL v
/-- SMP_SEL. -/
def execSmpSel (v : W64) (s : State) : Host.Outcome State Fault Refusal := .next (writeSmpSel s v.toNat)
/-- A write of STN_SEL, ignored in whole with a nonzero reserved field. -/
def writeStnSel (s : State) (v : Nat) : State := if 64 ≤ v then setRegBit s Reg.STN_ERR 3 else setReg s Reg.STN_SEL v
/-- STN_SEL. -/
def execStnSel (v : W64) (s : State) : Host.Outcome State Fault Refusal := .next (writeStnSel s v.toNat)
/-- A write of SMP_CTRL. -/
def writeSmpCtrl (s : State) (v : Nat) : State :=
  let s1 := plainWrite s Reg.SMP_CTRL v
  if bitAt v 7 then setReg s1 Reg.SMP_COUNT 0 else s1
/-- SMP_CLR_COUNTERS. -/
def execSmpClrCounters (v : W64) (s : State) : Host.Outcome State Fault Refusal := .next (writeSmpCtrl s (v ||| 0x80).toNat)
/-- A write of STN_CTRL. -/
def writeStnCtrl (s : State) (v : Nat) : State :=
  let s1 := plainWrite s Reg.STN_CTRL v
  if bitAt v 7 then setReg s1 Reg.STN_COUNT 0 else s1
/-- STN_CLR_COUNTERS. -/
def execStnClrCounters (v : W64) (s : State) : Host.Outcome State Fault Refusal := .next (writeStnCtrl s (v ||| 0x80).toNat)

/-- The lanes that hold rows, as a mask. -/
def busyLanes (xs : List LRow) (n : Nat) : Nat :=
  (List.range n).foldl (fun a k => if xs.any fun x => x.lane == k then a + 2 ^ k else a) 0

/-- What the SMP_ and STN_ registers that mirror the engines read; none for the others. -/
def servingView (s : State) (a : Nat) : Option Nat :=
  let sel := reg s Reg.SMP_SEL
  let x := slotAt s (bitsOf sel 32 12)
  let ad := adapterAt s (bitsOf sel 8 8)
  let tn := tenantAt s (bitsOf sel 0 8)
  let gen := fun (g : Option (Nat × Nat)) => match g with | some c => c.1 | none => 0
  let v := match s.srv.model with | some m => m.vocab | none => 0
  let q := match s.srv.core.run with | some r => (r.smpq, r.stnq) | none => ([], [])
  let phase := match s.srv.core.run with | some r => if r.admitted then 2 else 1 | none => 0
  let gr := mget s.srv.grammars (reg s Reg.STN_SEL)
  if a = Reg.SMP_STATUS then some (q.1.length * 2 ^ 32 + busyLanes q.1 8 * 2 ^ 24 + phase * 2 ^ 20)
  else if a = Reg.SMP_VOCAB then some (if v = 0 then 0 else (ceilDiv v 64 + 2048) * 2 ^ 32 + v)
  else if a = Reg.SMP_SLOTS then
    some ((s.srv.core.slots.filter fun y => y.2.state = 2).length * 2 ^ 32 + (s.srv.core.slots.filter fun y => y.2.state = 1).length)
  else if a = Reg.SMP_STEP then some (s.srv.nextStep - 1)
  else if a = Reg.SMP_SLOT then
    some (x.t * 2 ^ 43 + x.gen * 2 ^ 27 + x.adapter * 2 ^ 19 + x.tenant * 2 ^ 11 + b2n x.constrained * 2 ^ 10 + x.cause * 2 ^ 6 + x.state)
  else if a = Reg.SMP_SLOT_STEP then some x.steps
  else if a = Reg.SMP_ADAPTER then
    some (gen ad.cur * 2 ^ 48 + gen ad.ret * 2 ^ 32 + ad.curUse * 2 ^ 24 + ad.retUse * 2 ^ 16
      + (if ad.load.isSome then 2 else if ad.cur.isSome then 1 else 0))
  else if a = Reg.SMP_TENANT then some (b2n tn.1 * 2 + b2n tn.2)
  else if a = Reg.STN_STATUS then some ((if v = 0 then 0 else ceilDiv v 64 + 1536) * 2 ^ 48 + q.2.length * 2 ^ 32 + busyLanes q.2 4 * 2 ^ 24)
  else if a = Reg.STN_STORE then
    some ((s.srv.grammars.foldl (fun n g => n + g.2.maskOf.length) 0) * 2 ^ 32 + s.srv.grammars.foldl (fun n g => n + g.2.masks.length) 0)
  else if a = Reg.STN_GRAMMAR then
    some (match gr with
      | some g => g.maskOf.length * 2 ^ 43 + g.masks.length * 2 ^ 26 + b2n (grammarNamed s (reg s Reg.STN_SEL)) * 2 + 1
      | none => 0)
  else none

end Sys2Proof.Machine
end

