-- ==== Sys2Proof/Machine/Control.lean ====
section
/-!
DEFINITION. Device, queue, context, window, event and memory commands (chapter 12), and the doorbells.
-/
namespace Sys2Proof.Machine

/-! ### Images and work states (R468) -/

/-- The images loaded, the holder's and the others'. -/
def loadedImages (s : State) : List ItinImage :=
  s.itn.image.toList ++ s.engines.filterMap fun e => e.2.itn.image
/-- Whether a serving itinerary is loaded. -/
def servingLoaded (s : State) : Bool := (loadedImages s).any fun g => bitAt g.flags 1
/-- The home state (R468). -/
def homeState (s : State) : Work :=
  if servingLoaded s then .serving else if s.srv.model.isSome then .loaded else .configured
/-- The run state of a context's engine. -/
def runOf (s : State) (key : Nat) : RunState := if s.cmd.holder = some key then s.itn.run else (engineOf s key).itn.run
/-- The image of a context. -/
def imageOf (s : State) (key : Nat) : Option ItinImage := if s.cmd.holder = some key then s.itn.image else (engineOf s key).itn.image
/-- Whether a run state is a run in progress. -/
def RunState.active : RunState → Bool
  | .waitStart => true | .running => true | .stoppedPreempt => true | .stoppedHalt => true | .aborting => true | .resuming => true
  | _ => false

/-- A context's itinerary unloaded: its reserved range is given back and its engine state is cleared. -/
def unloadItin (s : State) (key : Nat) : State :=
  let s1 := unreserve s (256 + key)
  if s1.cmd.holder = some key then
    { s1 with itn := keepCaravan s1.itn Itn.reset, arrays := faultsOnly s1.arrays,
              trowels := (s1.trowels.map fun kv => (kv.1, { kv.2 with rerun := none })).filter fun kv => kv.2 ≠ Trowel.reset,
              cmd := { s1.cmd with holder := none } }
  else { s1 with engines := mdel s1.engines key }

/-- Every itinerary unloaded. -/
def unloadAll (s : State) : State :=
  let keys := s.cmd.holder.toList ++ s.engines.map (·.1)
  keys.foldl unloadItin s

/-! ### Device commands -/

/-- DEVICE_INIT: the stacks serve; the retired list has been in force since the boot (R210). -/
def execDeviceInit (p : Packet) (hv : HostView) (s : State) : Host.Outcome State Fault Refusal :=
  command 0x0102 p (.deviceInit p hv) (fun s _ =>
    let s1 := wakeStacks s
    let n := (s1.mem.stks.filter fun k => k.state = .active ∨ k.state = .writeHold).length
    .now (setWork s1 .configured) (doneC0 p n)) s

/-- DEVICE_QUIESCE (R480): it is in progress until every other command begun has completed. -/
def execDeviceQuiesce (p : Packet) (hv : HostView) (s : State) : Host.Outcome State Fault Refusal :=
  command 0x0103 p (.deviceQuiesce p hv) (fun s _ =>
    if s.cmd.inProg.isEmpty then .now (setWork s .quiesced) (done p) else .later s [] none) s

/-- DEVICE_RESUME (R468). -/
def execDeviceResume (p : Packet) (hv : HostView) (s : State) : Host.Outcome State Fault Refusal :=
  command 0x0104 p (.deviceResume p hv) (fun s _ => .now (setWork s (homeState s)) (done p)) s

/-- MAINT_ENTER: the model and every itinerary are discarded. -/
def execMaintEnter (p : Packet) (hv : HostView) (s : State) : Host.Outcome State Fault Refusal :=
  command 0x0107 p (.maintEnter p hv) (fun s _ => .now (setWork (dropModel (unloadAll s)) .maintenance) (done p)) s

/-- MAINT_EXIT: staged images are discarded (R652). -/
def execMaintExit (p : Packet) (hv : HostView) (s : State) : Host.Outcome State Fault Refusal :=
  command 0x0108 p (.maintExit p hv) (fun s _ =>
    .now (setWork { s with sec := { s.sec with staged := [] } } .configured) (done p)) s

/-! ### Queues (R450 to R456, R483) -/

/-- A new submission queue. -/
def SQueue.fresh (fn base size cq : Nat) : SQueue :=
  { fn := fn, base := base, size := size, tail := 0, head := 0, cq := cq, halted := false, fetched := [] }
/-- A new completion queue: its first pass carries phase 1 (R455). -/
def CQueue.fresh (fn base size vector : Nat) : CQueue :=
  { fn := fn, base := base, size := size, vector := vector, head := 0, widx := 0, phase := true, waiting := [], failed := false, last := none }

/-- Whether the fields of a QUEUE_CREATE are valid for its target function (R450, R517, R518, R523). -/
def queueCreateOk (s : State) (p : Packet) (fn : Nat) : Bool :=
  let i := prm p 0 8 8
  let target := if fn = 0 then prm p 16 0 7 else fn
  (fn == 0 || prm p 16 0 7 == 0) && decide (1 ≤ prm p 0 16 12) && decide (prm p 8 0 64 % 4096 = 0)
  && decide (target ≤ s.pci.numVfs) && queueOwner s i == target
  && (if prm p 0 0 1 = 0 then
        (sqAt s i).isNone && (match cqAt s (prm p 4 0 8) with | some c => c.fn == target | none => false)
      else (cqAt s i).isNone && decide (prm p 4 0 11 < vectorCount target))

/-- QUEUE_CREATE. -/
def execQueueCreate (p : Packet) (hv : HostView) (s : State) : Host.Outcome State Fault Refusal :=
  command 0x0109 p (.queueCreate p hv) (fun s fn =>
    let i := prm p 0 8 8
    let target := if fn = 0 then prm p 16 0 7 else fn
    let size := prm p 0 16 12 + 1
    let base := prm p 8 0 64
    if !queueCreateOk s p fn then no s p stBadParam
    else if prm p 0 0 1 = 0 then .now (setSq s i (.fresh target base size (prm p 4 0 8))) (done p)
    else .now (setCq s i (.fresh target base size (prm p 4 0 11))) (done p)) s

/-- Waiting packets of an SQ that PACKET_FETCH has not fetched. -/
def unfetched (s : State) (n : Nat) (q : SQueue) : Nat :=
  let ring := (q.tail + q.size - q.head) % q.size
  let direct := (s.cmd.deferred.filter fun d => d.pkt.sq = n ∧ q.fetched.contains ⟨d.op, d.pkt⟩ = false).length
  max ring direct

/-- Packets fetched but not begun end with ABORTED_HOST, where a condition selects them. -/
def abortFetched (s : State) (n : Nat) (sel : Fetched → Bool) : State :=
  match sqAt s n with
  | none => s
  | some q =>
    let gone := q.fetched.filter sel
    let s1 := setSq s n { q with fetched := q.fetched.filter fun f => !sel f }
    let s2 := { s1 with cmd := { s1.cmd with deferred := s1.cmd.deferred.filter fun d => d.pkt.sq ≠ n || !sel ⟨d.op, d.pkt⟩ } }
    gone.foldl (fun s f => complete s f.pkt (plainReply f.pkt stHost 0 0 0 0)) s2

/-- A queue taken away. -/
def removeQueue (s : State) (kind i : Nat) : State :=
  if kind = 0 then { s with cmd := { s.cmd with sqs := mdel s.cmd.sqs i } } else { s with cmd := { s.cmd with cqs := mdel s.cmd.cqs i } }

/-- Whether commands of an SQ other than one are begun and not completed. -/
def sqBusy (s : State) (i : Nat) (self : Packet) : Bool := s.cmd.inProg.any fun c => c.pkt.sq == i && c.pkt != self

/-- A QUEUE_DELETE of an SQ ends, and the queue goes, once no other command of it is in progress. -/
def finishDelete (p : Packet) (s : State) : State :=
  match s.cmd.inProg.find? fun c => c.op = 0x010A ∧ c.pkt = p with
  | some c => if sqBusy s (nth c.args 1 0) p then s else removeQueue (completeProg s c (doneC0 p (nth c.args 2 0))) 0 (nth c.args 1 0)
  | none => s

/-- QUEUE_DELETE (R483). -/
def execQueueDelete (p : Packet) (hv : HostView) (s : State) : Host.Outcome State Fault Refusal :=
  andThen (command 0x010A p (.queueDelete p hv) (fun s fn =>
    let kind := prm p 0 0 1
    let i := prm p 0 8 8
    let owner := if kind = 0 then (sqAt s i).map (·.fn) else (cqAt s i).map (·.fn)
    match owner with
    | none => no s p stBadParam
    | some f =>
      if i = 0 then no s p stBadParam
      else if fn ≠ 0 ∧ f ≠ fn then no s p stNotPermitted
      else if kind = 1 then
        if s.cmd.sqs.any fun q => q.2.cq = i then no s p stBusy else .now (removeQueue s 1 i) (done p)
      else
        match sqAt s i with
        | none => no s p stBadParam
        | some q =>
          let n := unfetched s i q
          let s1 := setSq (abortFetched s i fun _ => true) i { q with head := q.tail, fetched := [] }
          let s2 := { s1 with cmd := { s1.cmd with deferred := s1.cmd.deferred.filter fun d => d.pkt.sq ≠ i } }
          .later s2 [0, i, n] none) s) (finishDelete p)

/-! ### Contexts (R486 to R496) -/

/-- The packet at the head of an SQ: fetched, or waiting. -/
def headPacket (s : State) (n : Nat) (q : SQueue) : Option Fetched :=
  match q.fetched with
  | f :: _ => some f
  | [] => (s.cmd.deferred.find? fun d => d.pkt.sq = n).map fun d => ⟨d.op, d.pkt⟩

/-- Whether one of a context's fetched commands can begin, its residency apart (R488). -/
def ctxReady (s : State) (c : Nat) (x : XCtx) : Bool :=
  s.cmd.sqs.any fun kv =>
    kv.2.fn == x.fn && !kv.2.halted &&
    (match headPacket s kv.1 kv.2 with
     | some f => pktCtx f.pkt == c && readyToBegin s f.op f.pkt x.fn
     | none => false)

/-- Whether a resident context is blocked (R488, R493). -/
def ctxBlocked (s : State) (c : Nat) (x : XCtx) : Bool :=
  let mine := s.cmd.inProg.filter fun i => i.fn = x.fn ∧ pktCtx i.pkt = c
  let held := runOf s c == .stoppedPreempt
  x.stopped || (mine.all (fun i => held && (i.op == 0x0303 || i.op == 0x0401)) && !ctxReady s c x)

/-- Each context's blocked or runnable mark brought up to date, with the ordinal of its change. -/
def noteBlocked (s : State) : State :=
  let f := fun (kv : Nat × XCtx) =>
    let w := if kv.2.resident then ctxBlocked s kv.1 kv.2 else ctxReady s kv.1 kv.2
    if w = kv.2.waits then kv else (kv.1, { kv.2 with waits := w, since := s.cmd.clock })
  { s with cmd := { s.cmd with ctxs := s.cmd.ctxs.map f, clock := s.cmd.clock + 1 } }

/-- Resident contexts. -/
def residents (s : State) : Nat := (s.cmd.ctxs.filter fun kv => kv.2.resident).length

/-- Whether R489 allows a context to be swapped. -/
def movable (s : State) (c : Nat) : Bool := !(runOf s c).active || runOf s c == .stoppedPreempt

/-- A context is written to its swap area. -/
def swapOut (s : State) (c : Nat) : State :=
  let s1 := if s.cmd.holder = some c then dropEngine s else s
  { s1 with cmd := { s1.cmd with ctxs := mmod s1.cmd.ctxs c fun x => { x with resident := false, waits := false } } }
/-- A context is brought in. -/
def swapIn (s : State) (c : Nat) : State :=
  { s with cmd := { s.cmd with ctxs := mmod s.cmd.ctxs c fun x => { x with resident := true, waits := false } } }

/-- CONTEXT_CREATE (R486, R519): the lowest free number, with 292 MiB reserved. -/
def execContextCreate (p : Packet) (hv : HostView) (s : State) : Host.Outcome State Fault Refusal :=
  command 0x010B p (.contextCreate p hv) (fun s fn =>
    let held := (s.cmd.ctxs.filter fun kv => kv.2.fn = fn).length
    match ((List.range 256).drop 1).find? fun c => (mget s.cmd.ctxs c).isNone with
    | none => no s p stBusy
    | some c =>
      if fn ≠ 0 ∧ regField s Reg.PCI_VF_CFG 8 4 ≤ held then no s p stBusy
      else
        match reserve s (1024 + c) 4672 with
        | none => no s p stBusy
        | some s1 =>
          let x : XCtx := { fn := fn, group := prm p 0 0 4, resident := decide (residents s < 16), waits := false, since := s.cmd.clock,
                            stopped := false }
          .now (noteBlocked { s1 with cmd := { s1.cmd with ctxs := mset s1.cmd.ctxs c x } }) (doneC0 p c)) s

/-- The context that a parameter names, checked: it exists, and a VF names one of its own. Context 0 is the function's
device context. -/
def namedCtx (s : State) (p : Packet) (fn c : Nat) (zero : Bool) (k : Nat → Verdict) : Verdict :=
  if c = 0 then (if zero then k (ctxKey fn 0) else no s p stBadParam)
  else
    match mget s.cmd.ctxs c with
    | none => no s p stBadParam
    | some x => if fn ≠ 0 ∧ x.fn ≠ fn then no s p stNotPermitted else k c

/-- A context is destroyed: its fetched commands end with ABORTED_HOST, its swap area is free (R496). -/
def destroyCtx (s : State) (c : Nat) : State :=
  match mget s.cmd.ctxs c with
  | none => s
  | some x =>
    let qs := (s.cmd.sqs.filter fun kv => kv.2.fn = x.fn).map (·.1)
    let s1 := qs.foldl (fun s n => abortFetched s n fun f => pktCtx f.pkt == c) s
    let s3 := unloadItin (unreserve s1 (1024 + c)) c
    noteBlocked { s3 with cmd := { s3.cmd with ctxs := mdel s3.cmd.ctxs c } }

/-- CONTEXT_DESTROY (R496). -/
def execContextDestroy (p : Packet) (hv : HostView) (s : State) : Host.Outcome State Fault Refusal :=
  command 0x010C p (.contextDestroy p hv) (fun s fn =>
    namedCtx s p fn (prm p 0 0 8) false fun c =>
      let owner := match mget s.cmd.ctxs c with | some x => x.fn | none => 0
      let busy := s.cmd.inProg.any fun i => i.fn == owner && pktCtx i.pkt == c
      if (imageOf s c).isSome || busy then no s p stBusy else .now (destroyCtx s c) (done p)) s

/-- CONTEXT_POLICY. -/
def execContextPolicy (p : Packet) (hv : HostView) (s : State) : Host.Outcome State Fault Refusal :=
  command 0x010D p (.contextPolicy p hv) (fun s _ =>
    .now { s with cmd := { s.cmd with auto := BitVec.ofNat 16 (setBits s.cmd.auto.toNat (prm p 0 0 4) 1 (prm p 0 8 1)) } } (done p)) s

/-- What a command in progress holds is given up when it ends early; what it had begun to change is as it was. -/
def dropWork (s : State) (c : InProg) : State :=
  let s1 := match c.window with | some w => closeWindow s w | none => s
  if c.op = 0x0201 then { s1 with dma := { s1.dma with runs := mdel s1.dma.runs (nth c.args 0 0) } }
  else if c.op = 0x0106 then setField { s1 with pwr := { s1.pwr with wakeReq := false } } Reg.PWR_STATE 0 1 0
  else if c.op = 0x010E then { s1 with itn := { s1.itn with preemptReq := false } }
  else if c.op = 0x0304 then leaveCaravan s1
  else if c.op = 0x0503 then setAdapter s1 (prm c.pkt 0 0 8) { adapterAt s1 (prm c.pkt 0 0 8) with load := none }
  else s1

/-- Items that a command in progress has performed (R464). -/
def itemsDone (s : State) (c : InProg) : Nat :=
  if c.op = 0x0201 then (match mget s.dma.runs (nth c.args 0 0) with | some r => r.done.length | none => 0) else 0

/-- A command in progress ends early with a status. -/
def abortProg (s : State) (c : InProg) (status : Nat) : State :=
  completeProg (dropWork s c) c (plainReply c.pkt status (itemsDone s c) 0 0 0)

/-- The stop code decided for a context's run. -/
def decidedOf (s : State) (c : Nat) : Nat := if s.cmd.holder = some c then s.itn.decided else (engineOf s c).itn.decided

/-- A context counts as blocked until CONTEXT_RESUME (R493). -/
def blockCtx (s : State) (c : Nat) : State :=
  { s with cmd := { s.cmd with ctxs := mmod s.cmd.ctxs c fun x => { x with stopped := true } } }

/-- CONTEXT_PREEMPT (R493, R494). -/
def preemptBody (p : Packet) (s : State) (fn : Nat) : Verdict :=
  namedCtx s p fn (prm p 0 0 8) true fun c =>
    let owner := if c < 256 then (match mget s.cmd.ctxs c with | some x => x.fn | none => fn) else fn
    if prm p 4 0 1 = 1 then
      if decidedOf s c = 1 then no s p stBusy
      else
        let old := s.cmd.inProg.filter fun i => i.op = 0x010E ∧ i.args = [c]
        let s1 := if old.isEmpty then s else { s with itn := { s.itn with preemptReq := false } }
        .now (old.foldl (fun s i => completeProg s i (plainReply i.pkt stHost 0 0 0 0)) s1) (done p)
    else
      let isRun := fun (i : InProg) => i.op == 0x0303 || i.op == 0x0401
      let others := s.cmd.inProg.filter fun i => i.fn = owner ∧ ctxKey owner (pktCtx i.pkt) = c ∧ !isRun i
      let s1 := others.foldl (fun s i => abortProg s i stPreempt) s
      if (runOf s1 c).active && runOf s1 c != .stoppedPreempt then
        .later { s1 with itn := { s1.itn with preemptReq := true } } [c] none
      else .now (blockCtx s1 c) (done p)

/-- CONTEXT_PREEMPT. -/
def execContextPreempt (p : Packet) (hv : HostView) (s : State) : Host.Outcome State Fault Refusal :=
  command 0x010E p (.contextPreempt p hv) (preemptBody p) s

/-- CONTEXT_RESUME (R495): the context comes in, and its pre-emption stop is released. -/
def execContextResume (p : Packet) (hv : HostView) (s : State) : Host.Outcome State Fault Refusal :=
  command 0x010F p (.contextResume p hv) (fun s fn =>
    namedCtx s p fn (prm p 0 0 8) true fun c =>
      let out := match mget s.cmd.ctxs c with | some x => !x.resident | none => false
      if out && decide (16 ≤ residents s) then no s p stBusy
      else
        let s1 := if out then swapIn s c else s
        let s2 := { s1 with cmd := { s1.cmd with ctxs := mmod s1.cmd.ctxs c fun x => { x with stopped := false } } }
        if runOf s2 c = .stoppedPreempt then .now (noteBlocked (releaseStop (takeEngine s2 c))) (done p)
        else .now (noteBlocked s2) (done p)) s

/-- CONTEXT_SWAP (R495). -/
def execContextSwap (p : Packet) (hv : HostView) (s : State) : Host.Outcome State Fault Refusal :=
  command 0x0110 p (.contextSwap p hv) (fun s _ =>
    let a := prm p 0 0 8
    let b := prm p 4 0 8
    match mget s.cmd.ctxs a, mget s.cmd.ctxs b with
    | some x, some y =>
      if !x.resident || y.resident || !movable s a then no s p stWrongState
      else .now (noteBlocked (swapIn (swapOut s a) b)) (done p)
    | _, _ => no s p stBadParam) s

/-- The context with the smallest ordinal, ties to the lower number. -/
def longest (cs : List (Nat × XCtx)) : Option (Nat × XCtx) :=
  cs.foldl (fun b c => match b with | some x => if c.2.since < x.2.since then some c else b | none => some c) none

/-- Whether the device is stalled, and the runnable context that has waited longest (R488, R490). -/
def stalledOn (s : State) : Option (Nat × XCtx) :=
  let rs := s.cmd.ctxs.filter fun kv => kv.2.resident
  if rs.length = 16 ∧ (rs.all fun kv => kv.2.waits) = true then longest (s.cmd.ctxs.filter fun kv => !kv.2.resident && kv.2.waits) else none

/-- AUTO_EVICT (R490 to R492): in a stalled device the event is raised once for the episode, and under the AUTO policy
one pair is exchanged. -/
def execAutoEvict (s : State) : Host.Outcome State Fault Refusal :=
  let s0 := noteBlocked s
  match stalledOn s0 with
  | none => .next { s0 with cmd := { s0.cmd with stalled := false } }
  | some (c, x) =>
    let s1 := if s0.cmd.stalled then s0 else
      raiseEventOwned { s0 with cmd := { s0.cmd with stalled := true } } x.fn 0x0001 c
    let isAuto := fun (g : Nat) => s1.cmd.auto.getLsbD g
    let out := longest (s1.cmd.ctxs.filter fun kv => kv.2.resident && isAuto kv.2.group && movable s1 kv.1)
    match out with
    | some (o, _) => if isAuto x.group then .next (noteBlocked (swapIn (swapOut s1 o) c)) else .next s1
    | none => .next s1

/-! ### Result windows and events -/

/-- RELEASE (R500, R503). -/
def execRelease (p : Packet) (hv : HostView) (s : State) : Host.Outcome State Fault Refusal :=
  command 0x0208 p (.release p hv) (fun s fn =>
    match s.cmd.windows.find? fun w => w.start * 8192 = prm p 0 0 64 with
    | none => no s p stBadParam
    | some w =>
      if w.fn ≠ fn then no s p stNotPermitted
      else if !w.done then no s p stBusy
      else .now { s with cmd := { s.cmd with windows := s.cmd.windows.erase w } } (done p)) s

/-- The oldest pending entry of the function that owns a packet's SQ is delivered. -/
def deliverOwn (p : Packet) (s : State) : State := match sqAt s p.sq with | some q => deliverEvent s q.fn | none => s

/-- EVENT_WAIT (R504): at most 16 outstanding for a function; the oldest pending entry is delivered at once. -/
def execEventWait (p : Packet) (hv : HostView) (s : State) : Host.Outcome State Fault Refusal :=
  andThen (command 0x0701 p (.eventWait p hv) (fun s fn =>
    if 16 ≤ (s.cmd.inProg.filter fun c => c.op = 0x0701 ∧ c.fn = fn).length then no s p stBusy else .later s [] none) s)
    (deliverOwn p)

/-! ### Memory commands -/

/-- The pattern over a length. -/
def patternBytes (pat n : Nat) : List PByte := (List.range n).map fun i => ⟨BitVec.ofNat 8 (pat >>> (8 * (i % 8))), false⟩

/-- MEM_FILL: the pattern over a range with STREAM. -/
def execMemFill (p : Packet) (hv : HostView) (s : State) : Host.Outcome State Fault Refusal :=
  command 0x0202 p (.memFill p hv) (fun s fn =>
    let n := prm p 8 0 64
    let r := fnRange s fn (prm p 0 0 64) n true
    match r.1 with
    | none => no r.2 p stBadParam
    | some ps =>
      if n % 64 ≠ 0 ∨ (ps.all fun x => memRange s x.1 x.2) = false then no r.2 p stBadParam
      else
        let st := if ps.any fun x => rangeRetired s x.1 x.2 then stRetired else stDone
        .now (writePieces r.2 4 225 .stream ps (patternBytes (prm p 16 0 64) n)) (plainReply p st n 0 0 0)) s

/-- Whether a maintenance operation over both dies can run now: no die is busy with another, no line it would write is
held (R141, R167). -/
def maintFree (s : State) (op range : Nat) : Bool := s.scr.maint.isEmpty && !maintHeld s 0 op range && !maintHeld s 1 op range

/-- An operation of SCREED_MAINT on both dies: the lines acted on. -/
def maintBoth (s : State) (op range : Nat) : Nat × State :=
  let a := maintPass s 0 op range
  let b := maintPass (setReg a.2 (Reg.SCD_MAINT_STATUS 0) (a.1 * 2 ^ 32)) 1 op range
  (a.1 + b.1, setReg b.2 (Reg.SCD_MAINT_STATUS 1) (b.1 * 2 ^ 32))

/-- The ranges in SCD_MAINT_RANGE form that the command's value names: one per page for a VF. -/
def maintRanges (s : State) (fn v : Nat) : Option (List Nat) × State :=
  let base := bitsOf v 16 24
  let len := bitsOf v 40 24
  if fn = 0 ∨ len = 0 then (some [v], s)
  else
    let r := vfWalk fn false (len / 32 + 2) s (base * 65536) (len * 65536)
    (r.1.map fun ps => ps.map fun x => x.2 / 65536 * 2 ^ 40 + x.1 / 65536 * 65536, r.2)

/-- Whether a range in SCD_MAINT_RANGE form names mapped DPA only; length 0 names every line and no DPA (R182). -/
def maintMapped (s : State) (v : Nat) : Bool := bitsOf v 40 24 == 0 || memRange s (bitsOf v 16 24 * 65536) (bitsOf v 40 24 * 65536)

/-- SCREED_MAINT performed over its ranges. -/
def maintAll (s : State) (op : Nat) (rs : List Nat) : Nat × State :=
  rs.foldl (fun a r => let x := maintBoth a.2 op r; (a.1 + x.1, x.2)) (0, s)

/-- SCREED_MAINT (R166): while the walkers are busy or its lines are held it is in progress. -/
def execScreedMaint (p : Packet) (hv : HostView) (s : State) : Host.Outcome State Fault Refusal :=
  command 0x0203 p (.screedMaint p hv) (fun s fn =>
    let op := prm p 0 0 4
    let r := maintRanges s fn (prm p 8 0 64)
    match r.1 with
    | none => no r.2 p stBadParam
    | some rs =>
      if op = 0 ∨ 3 < op ∨ prm p 8 0 16 ≠ 0 ∨ (rs.all (maintMapped s)) = false then no s p stBadParam
      else if rs.all (maintFree r.2 op) then let x := maintAll r.2 op rs; .now x.2 (doneC0 p x.1)
      else .later r.2 (op :: rs) none) s

/-! ### Retirement (R205 to R210) -/

/-- A retirement entry in the physical form of RETIRE and RETIRE_LIST. -/
def Retire.word (r : Retire) : Nat :=
  r.stack + r.die * 2 ^ 4 + r.bank * 2 ^ 9 + (match r.page with | some m => m * 2 ^ 15 | none => 2 ^ 25)

/-- The location that a RETIRE names. -/
def retireTarget (s : State) (p : Packet) : Option Retire :=
  let k := prm p 0 0 2
  let v := prm p 8 0 64
  if k < 2 then
    match locateS s v with
    | some l => if 2 ^ 40 ≤ v then none else some ⟨l.stack, l.die, l.bank, if k = 0 then some (l.row / 32) else none⟩
    | none => none
  else
    let r : Retire := ⟨bitsOf v 0 4, bitsOf v 4 5, bitsOf v 9 6, if k = 2 then some (bitsOf v 15 10) else none⟩
    if v / 2 ^ 25 ≠ 0 ∨ stackCount s ≤ r.stack ∨ 20 ≤ r.die ∨ (k = 3 ∧ bitsOf v 15 10 ≠ 0) then none else some r

/-- Whether the retired list covers a whole entry. -/
def coveredBy (s : State) (r : Retire) : Bool :=
  s.mem.retired.any fun e => e.stack == r.stack && e.die == r.die && e.bank == r.bank && (e.page == none || e.page == r.page)

/-- Whether an entry's bank is interleaved. -/
def interBank (s : State) (r : Retire) : Bool := decide (r.bank < 64 - 8 * s.mem.p)

/-- The stack granules (DPA) that a page of an interleaved bank touches, ascending. -/
def pageGranules (s : State) (r : Retire) (m : Nat) : List Nat :=
  (List.range 32).map fun i => dpaOf (stackCount s) s.mem.p ⟨r.stack, r.die, r.bank, 32 * m + i, 0⟩ / 65536 * 65536

/-- The values that RETIRE returns (R207). -/
def retireValues (s : State) (r : Retire) : List Nat :=
  let st := stackCount s
  if interBank s r then
    match r.page with
    | some m => (pageGranules s r m).mergeSort
    | none =>
      let ch := channelOf r.die r.bank
      let slot := ((slotBanks ch s.mem.p).findIdx? fun db => db = (r.die, r.bank)).getD 0
      [2 ^ 63 + slot * 2 ^ 48 + ch * 2 ^ 40 + r.stack * 2 ^ 32]
  else
    match r.page with
    | some m => [dpaOf st s.mem.p ⟨r.stack, r.die, r.bank, 32 * m, 0⟩]
    | none => [2 ^ 63 + 2 ^ 62 + dpaOf st s.mem.p ⟨r.stack, r.die, r.bank, 0, 0⟩]

/-- The maintenance ranges that a retirement writes back: each granule of a page, or every line of the home die. -/
def retireRanges (s : State) (r : Retire) : List Nat :=
  if !interBank s r then []
  else match r.page with | some m => (pageGranules s r m).map fun a => 2 ^ 40 + a | none => [0]

/-- WB_INVALIDATE before a retirement: on both dies for granules, on the home die for a bank. -/
def retireFlush (s : State) (r : Retire) : State :=
  match r.page with
  | some _ => (retireRanges s r).foldl (fun s v => (maintPass (maintPass s 0 2 v).2 1 2 v).2) s
  | none => if interBank s r then (maintPass s (nearDie s r.stack) 2 0).2 else s

/-- The trowel whose banks a retirement touches. -/
def retireTrowel (r : Retire) : TSite := trowelOf r.stack r.die r.bank

/-- Whether a retirement may go on: the trowel of its bank is not running, and no line it writes back is held. -/
def retireReady (s : State) (r : Retire) : Bool :=
  !trowelBusy s (retireTrowel r) && (retireRanges s r).all fun v => !maintHeld s 0 2 v && !maintHeld s 1 2 v

/-- A retirement in force and in flash, or waiting for the flash window (R207, R208). -/
def applyRetire (s : State) (r : Retire) : State :=
  if coveredBy s r then s
  else
    let s1 := flashFirst (retireFlush s r)
    let m := { s1.mem with retired := s1.mem.retired ++ [r] }
    let m := if flashOpen s1 then { m with flashRet := m.flashRet ++ [r] } else { m with retPending := m.retPending ++ [r] }
    retireFrames { s1 with mem := m } r

/-- A direct launch that waited for a retirement is performed. -/
def launchWaiting (s : State) (x : TSite) : State :=
  match (trowelAt s x).starts with
  | none => s
  | some e => directLaunch (setTrowel s x { trowelAt s x with starts := none }) x e

/-- The bytes of 8-byte values. -/
def valueBytes (vs : List Nat) : List PByte := clean (vs.flatMap (leBytes 8))

/-- The end of a RETIRE: effects and reply. -/
def retireReply (s : State) (p : Packet) (r : Retire) (off : Nat) : State × Reply :=
  let fresh := !coveredBy s r
  let s1 := applyRetire s r
  let vs := retireValues s1 r
  let st := if fresh && !flashOpen s then stInhibit else stDone
  (fillWindow s1 off (valueBytes vs), (plainReply p st vs.length 0 0 0).withWindow off)

/-- RETIRE (R207 to R209). -/
def execRetire (p : Packet) (hv : HostView) (s : State) : Host.Outcome State Fault Refusal :=
  command 0x0204 p (.retire p hv) (fun s fn =>
    match retireTarget s p with
    | none => no s p stBadParam
    | some r =>
      if coveredBy s r = false ∧ 8192 ≤ s.mem.retired.length then no s p stBusy
      else
        match allocWindow s fn 256 with
        | none => no s p stBusy
        | some (off, s1) =>
          if retireReady s1 r then let x := retireReply s1 p r off; .now x.1 x.2
          else .later s1 [r.stack, (retireTrowel r).trowel, r.word] (some off)) s

/-- RETIRE_LIST. -/
def execRetireList (p : Packet) (hv : HostView) (s : State) : Host.Outcome State Fault Refusal :=
  command 0x0205 p (.retireList p hv) (fun s fn =>
    let n := s.mem.retired.length
    withWindow s p fn (8 * n) fun s off => windowed s off (doneC0 p n) (valueBytes (s.mem.retired.map Retire.word))) s

/-- RETIRE_CLEAR (R209): needs the flash window. -/
def execRetireClear (p : Packet) (hv : HostView) (s : State) : Host.Outcome State Fault Refusal :=
  command 0x0206 p (.retireClear p hv) (fun s _ =>
    if !flashOpen s then no s p stInhibit
    else let s1 := flashFirst s; .now { s1 with mem := { s1.mem with retired := [], flashRet := [], retPending := [] } } (done p)) s

/-! ### Fetching and doorbells (R451 to R456, R507) -/

/-- An error bit of HUB_CMD_ERR, in the PF's register and in the view of the VF concerned (R516). -/
def cmdErr (s : State) (fn bit : Nat) : State :=
  let s1 := setRegBit s Reg.HUB_CMD_ERR bit
  if fn = 0 then s1 else { s1 with cmd := { s1.cmd with vfErr := mput 0 s1.cmd.vfErr fn (mgetD 0 s1.cmd.vfErr fn ||| 2 ^ bit) } }

/-- The packet that 64 bytes spell (Table 12.1). -/
def packetOf (sq : Nat) (bs : List Byte) : Fetched :=
  ⟨fieldAt bs 0 2, { sq := sq, flags := BitVec.ofNat 16 (fieldAt bs 2 2), tag := BitVec.ofNat 32 (fieldAt bs 4 4),
                     ctxWord := BitVec.ofNat 32 (fieldAt bs 8 4), deadline := BitVec.ofNat 64 (fieldAt bs 12 8),
                     params := BitVec.ofNat 352 (fieldAt bs 20 44) }⟩

/-- Fetch up to `k` packets of an SQ (R453, R28). -/
def fetchSq (hv : HostView) (n : Nat) : Nat → State → State
  | 0, s => s
  | k + 1, s =>
    match sqAt s n with
    | none => s
    | some q =>
      let a := q.base + 64 * q.head
      if q.halted || q.head == q.tail || cqStuck s q.cq then s
      else if !hostOk hv a 64 then haltSq (cmdErr s q.fn 1) n
      else
        let f := packetOf n (hostBytes hv a 64)
        fetchSq hv n k (setSq s n { q with head := (q.head + 1) % q.size, fetched := q.fetched ++ [f] })

/-- A reply write that failed: the entry is written again once the halt of an SQ bound to the CQ is acknowledged
(R456). -/
def replyLost (s : State) (n : Nat) : State :=
  match cqAt s n with
  | none => s
  | some q =>
    match q.last with
    | none => s
    | some r =>
      let back := q.widx = 0
      let q1 := { q with widx := if back then q.size - 1 else q.widx - 1, phase := if back then !q.phase else q.phase,
                         waiting := r :: q.waiting, failed := true, last := none }
      let qs := (s.cmd.sqs.filter fun kv => kv.2.cq = n).map (·.1)
      qs.foldl haltSq (cmdErr (setCq s n q1) q.fn 0)

/-- The undefined opcode at the head of an SQ's fetched packets is answered, once it may begin (R459). -/
def badHead (s : State) : Option (Nat × Fetched) :=
  s.cmd.sqs.findSome? fun kv =>
    match kv.2.fetched with
    | f :: _ => if !opcodeDefined f.op && !kv.2.halted && mayBegin s f.op f.pkt kv.2.fn then some (kv.1, f) else none
    | [] => none
/-- The answer BAD_OPCODE. -/
def answerBad (s : State) (n : Nat) (f : Fetched) : State :=
  match sqAt s n with
  | some q => complete (setSq s n { q with fetched := q.fetched.erase f }) f.pkt (reject f.pkt stBadOpcode)
  | none => s

/-- PACKET_FETCH: one round over the SQs, in ascending index, at most 8 packets of each; `lost` names CQs whose last reply
write failed. -/
def execPacketFetch (hv : HostView) (lost : List Nat) (s : State) : Host.Outcome State Fault Refusal :=
  if !hubRuns s then .next s
  else
    let s1 := lost.foldl replyLost s
    let s2 := (s1.cmd.sqs.map (·.1)).foldl (fun s n => fetchSq hv n 8 s) s1
    .next (noteBlocked (match badHead s2 with | some x => answerBad s2 x.1 x.2 | none => s2))

/-- A write of tail doorbell `n` by function `fn` (R452), after every earlier posted write of it (R295). -/
def writeTail (s : State) (fn n : Nat) (v : W64) : State :=
  let t := bitsOf v.toNat 0 12
  if !memServed s fn then s
  else if mustWait s fn then waitHost s fn (.hubSqTail fn n v)
  else match sqAt s n with
  | some q => if q.fn = fn ∧ t < q.size then setSq s n { q with tail := t } else cmdErr s fn 2
  | none => cmdErr s fn 2

/-- A write of head doorbell `n` by function `fn`, after every earlier posted write of it (R295); replies that waited are
written (R28, R452). -/
def writeHead (s : State) (fn n : Nat) (v : W64) : State :=
  let h := bitsOf v.toNat 0 12
  if !memServed s fn then s
  else if mustWait s fn then waitHost s fn (.hubCqHead fn n v)
  else match cqAt s n with
  | some q =>
    if q.fn = fn ∧ h < q.size then drainReplies (q.waiting.length + 1) (setCq s n { q with head := h }) n else cmdErr s fn 2
  | none => cmdErr s fn 2

/-- One SQ resumes; a failed reply of its CQ is written again (R456, R479). -/
def ackHalt (s : State) (n : Nat) : State :=
  match sqAt s n with
  | none => s
  | some q =>
    let s1 := setSq s n { q with halted := false }
    match cqAt s1 q.cq with
    | some c => if q.halted && c.failed then drainReplies (c.waiting.length + 1) (setCq s1 q.cq { c with failed := false }) q.cq else s1
    | none => s1

/-- A write of HUB_SQ_HALT_k by function `fn`, after every earlier posted write of it (R294); a VF acknowledges its own queues only (R516). -/
def writeHalt (s : State) (fn k : Nat) (v : W64) : State :=
  let mine := (List.range 64).filter fun b =>
    v.getLsbD b && (match sqAt s (64 * k + b) with | some q => q.halted && (fn == 0 || q.fn == fn) | none => false)
  if !memServed s fn then s
  else if mustWait s fn then waitHost s fn (.hubSqHalt fn k v)
  else mine.foldl (fun s b => ackHalt s (64 * k + b)) s

/-- A write of HUB_CMD_CTRL by the PF, after every earlier posted write of it (R294): 1 in enable creates the admin pair
(R451, R507). -/
def writeEnable (s : State) (v : W64) : State :=
  let z := reg s Reg.HUB_AQ_SIZE
  if !memServed s 0 || !v.getLsbD 0 then s
  else if mustWait s 0 then waitHost s 0 (.hubCmdCtrlEnable v)
  else if bitsOf z 0 12 = 0 ∨ bitsOf z 16 12 = 0 then setRegBit s Reg.HUB_CMD_ERR 3
  else if s.cmd.ready then s
  else
    let s1 := setRegBit { s with cmd := { s.cmd with ready := true } } Reg.HUB_CMD_CTRL 0
    let s2 := setCq s1 0 (.fresh 0 (reg s Reg.HUB_AQ_CQ_BASE) (bitsOf z 16 12 + 1) 0)
    setSq s2 0 (.fresh 0 (reg s Reg.HUB_AQ_SQ_BASE) (bitsOf z 0 12 + 1) 0)

/-- HUB_SQ_TAIL. -/
def execHubSqTail (fn n : Nat) (v : W64) (s : State) : Host.Outcome State Fault Refusal := .next (writeTail s fn n v)
/-- HUB_CQ_HEAD. -/
def execHubCqHead (fn n : Nat) (v : W64) (s : State) : Host.Outcome State Fault Refusal := .next (writeHead s fn n v)
/-- HUB_SQ_HALT. -/
def execHubSqHalt (fn k : Nat) (v : W64) (s : State) : Host.Outcome State Fault Refusal := .next (writeHalt s fn k v)
/-- HUB_CMD_CTRL_ENABLE. -/
def execHubCmdCtrlEnable (v : W64) (s : State) : Host.Outcome State Fault Refusal := .next (writeEnable s v)

end Sys2Proof.Machine
end

