-- ==== Sys2Proof/Machine/Dma.lean ====
section
/-!
DEFINITION. DMA descriptors and queues (§13.5): their checks, the ranges they name, what each operation moves, and the
completion of a DMA_SUBMIT.
-/
namespace Sys2Proof.Machine

/-! ### Descriptor fields (Table 13.7) -/

/-- Bits of a descriptor: `n` bits from bit `lo` of byte `o`. -/
def dF (d : BitVec 512) (o lo n : Nat) : Nat := bitsOf d.toNat (8 * o + lo) n
def dOp (d : BitVec 512) : Nat := dF d 0 0 8
def dLsp (d : BitVec 512) : Nat := dF d 1 5 2
def dDsp (d : BitVec 512) : Nat := dF d 1 2 2
def dSsp (d : BitVec 512) : Nat := dF d 1 0 2
def dInit (d : BitVec 512) : Bool := dF d 3 7 1 == 1
def dCheck (d : BitVec 512) : Nat := dF d 3 5 2
def dChan (d : BitVec 512) : Nat := dF d 3 0 5
def dSrc (d : BitVec 512) : Nat := dF d 8 0 64
def dDst (d : BitVec 512) : Nat := dF d 16 0 64
def dLen (d : BitVec 512) : Nat := dF d 24 0 32
def dCount (d : BitVec 512) : Nat := dF d 28 0 32
def dList (d : BitVec 512) : Nat := dF d 32 0 64

/-- A hint code (Table 3.7). -/
def hintOf (n : Nat) : Hint := match n with | 0 => .normal | 1 => .stream | 2 => .keep | _ => .last

/-! ### The ranges that a descriptor names -/

/-- Element bytes of `n` elements of a format. -/
def elemBytesOf (c n : Nat) : Nat := (n * elemBits c + 7) / 8
/-- The arrays of a tensor of `n` elements at an address: the elements, and for a block format the scales at the next
64-byte boundary. A written block tensor holds whole blocks (R53). -/
def tensorRanges (c n a : Nat) (whole : Bool) : List (Nat × Nat) :=
  if isBlock c then
    let b := ceilDiv n (blockLen c)
    let e := if whole then b * blockLen c * elemBits c / 8 else elemBytesOf c n
    let all := b * blockLen c * elemBits c / 8
    [(a, e), ((a + all + 63) / 64 * 64, b)]
  else [(a, elemBytesOf c n)]

/-- The source and destination formats of a CONVERT. -/
def dSrcFmt (d : BitVec 512) : Option Fmt := fmtDecode (dF d 4 0 16)
def dDstFmt (d : BitVec 512) : Option Fmt := fmtDecode (dF d 6 0 16)

/-- Bytes that the destination of a COPY receives (R532). -/
def copyOut (s : State) (d : BitVec 512) : Nat :=
  if dCheck d = 1 then dLen d + chanBytes s (dChan d) else if dCheck d = 2 then dLen d - chanBytes s (dChan d) else dLen d

/-- Address and bytes of the source of a descriptor, its address list apart. -/
def srcRanges (d : BitVec 512) : List (Nat × Nat) :=
  match dOp d with
  | 1 => [(dSrc d, dLen d)]
  | 3 => [(dSrc d, 8 * dCount d)]
  | 4 => (match dSrcFmt d with | some f => tensorRanges f.code (dCount d) (dSrc d) false | none => [])
  | _ => []
/-- Address and bytes of its destination. -/
def dstRanges (s : State) (d : BitVec 512) : List (Nat × Nat) :=
  match dOp d with
  | 1 => [(dDst d, copyOut s d)]
  | 2 => [(dDst d, 8 * dCount d)]
  | 4 => (match dDstFmt d with | some f => tensorRanges f.code (dCount d) (dDst d) true | none => [])
  | 7 => [(dDst d, 8)]
  | _ => []

/-- A piece of a range: memory, control space, host memory, another module, or nothing that can be accessed. -/
inductive Piece where
  | mem (dpa n : Nat)
  | ctl (dpa n : Nat)
  | host (a n : Nat)
  | fab (id dpa n : Nat)
  | bad (n : Nat)
  deriving DecidableEq, Repr

def Piece.isFab : Piece → Bool | .fab _ _ _ => true | _ => false
def Piece.isBad : Piece → Bool | .bad _ => true | _ => false

/-- Whether a range meets the control-space window of a stack that the variant lacks (R5). -/
def namesAbsent (s : State) (a n : Nat) : Bool :=
  decide (0 < n) && (List.range 12).any fun k =>
    decide (stackCount s ≤ k) && decide (ctlBase + k * 0x100000000 < a + n) && decide (a < ctlBase + (k + 1) * 0x100000000)

/-- The pieces of a range of DPA. -/
def dpaPieces (s : State) (a n : Nat) : List Piece :=
  let top := memTop (stackCount s)
  if a + n ≤ top then [.mem a n]
  else if namesAbsent s a n then [.bad n]
  else if ctlBase ≤ a ∧ a + n ≤ 2 ^ 40 then [.ctl a n]
  else if top = ctlBase ∧ a < ctlBase ∧ a + n ≤ 2 ^ 40 then [.mem a (top - a), .ctl top (a + n - top)]
  else [.bad n]

/-- The pieces of a range in a space (R348, R520): another module's memory in pieces of at most 4,096 bytes. -/
def pieces (s : State) (fn sp : Nat) (write : Bool) (a n : Nat) : List Piece × State :=
  if n = 0 then ([], s)
  else if sp = 1 then ([if a + n ≤ 2 ^ 64 then .host a n else .bad n], s)
  else if sp = 2 then
    if 2 ^ 50 ≤ a ∨ 2 ^ 40 < a % 2 ^ 40 + n then ([.bad n], s)
    else if selfAssigned s ∧ a / 2 ^ 40 = selfId s then (dpaPieces s (a % 2 ^ 40) n, s)
    else ((List.range (ceilDiv n 4096)).map fun k => .fab (a / 2 ^ 40) (a % 2 ^ 40 + 4096 * k) (min 4096 (n - 4096 * k)), s)
  else if fn = 0 then (dpaPieces s a n, s)
  else
    let r := fnRange s fn a n write
    ((match r.1 with | some ps => ps.map fun p => .mem p.1 p.2 | none => [.bad n]), r.2)

/-- The pieces of several ranges. -/
def piecesAll (s : State) (fn sp : Nat) (write : Bool) (rs : List (Nat × Nat)) : List Piece × State :=
  rs.foldl (fun a r => let x := pieces a.2 fn sp write r.1 r.2; (a.1 ++ x.1, x.2)) ([], s)

/-! ### Checks (R527) -/

/-- The checks that look at the descriptor alone. -/
def descForm (d : BitVec 512) : Bool :=
  let op := dOp d
  let moves := op == 1 || op == 2 || op == 3 || op == 4
  let blk := fun (f : Option Fmt) (a : Nat) => match f with | some x => !isBlock x.code || a % 64 == 0 | none => false
  ((decide (1 ≤ op) && decide (op ≤ 4)) || (decide (6 ≤ op) && decide (op ≤ 8)))
  && dF d 1 4 1 == 0 && dF d 2 4 4 == 0 && dF d 56 0 64 == 0 && dCheck d != 3 && (dCheck d == 0 || op == 1)
  && (if op == 2 || op == 3 then decide (dLsp d ≤ 1) else dLsp d == 0)
  && dDsp d != 3 && (if op == 8 then dSsp d == 1 || dSsp d == 2 else dSsp d != 3)
  && !(moves && dSsp d == 1 && dDsp d == 1)
  && (op != 1 || decide (1 ≤ dLen d))
  && (op != 2 || (dList d % 8 == 0 && dDst d % 8 == 0)) && (op != 3 || (dList d % 8 == 0 && dSrc d % 8 == 0))
  && (op != 4 || (blk (dSrcFmt d) (dSrc d) && blk (dDstFmt d) (dDst d)))

/-- The whole check of a descriptor of a function: of a command's list, or of an itinerary's. A VF names no fabric
global address (R522). -/
def descOk (s : State) (fn : Nat) (itin : Bool) (d : BitVec 512) : Bool × State :=
  let names := dOp d != 6 && dOp d != 8
  let chan := match descChan d with | some c => itin || (c != 31 && !(decide (c < 16) && anyItin s)) | none => true
  let strip := dCheck d != 2 || (dDsp d == 0 && decide (chanBytes s (dChan d) < dLen d))
  if !descForm d || !chan || !strip || (fn != 0 && names && (dSsp d == 2 || dDsp d == 2)) then (false, s)
  else if !names then (true, s)
  else
    let a := piecesAll s fn (dSsp d) false (srcRanges d)
    let b := piecesAll a.2 fn (dDsp d) true (dstRanges s d)
    let l := if dOp d = 2 ∨ dOp d = 3 then pieces b.2 fn (dLsp d) false (dList d) (8 * dCount d) else ([], b.2)
    ((a.1 ++ b.1 ++ l.1).all fun p => !p.isBad, l.2)

/-- The check of a list. -/
def listOk (s : State) (fn : Nat) (itin : Bool) (ds : List (BitVec 512)) : Bool × State :=
  ds.foldl (fun a d => if a.1 then descOk a.2 fn itin d else a) (true, s)

/-! ### Reading and writing the pieces -/

/-- The issuer index of a DMA queue (Table 13.6). -/
def dmaIssuer (q : Nat) : Nat := 192 + q

/-- Words of control space written from bytes: the aligned 8- and 4-byte words that they cover. -/
def ctlWriteBytes (s : State) (a : Nat) (bs : List PByte) : State :=
  let n := bs.length
  (List.range (n / 8 + 2)).foldl (fun s k =>
    let w := a / 8 * 8 + 8 * k
    let part := fun (s : State) (x m : Nat) =>
      if a ≤ x ∧ x + m ≤ a + n then
        let y := (bs.drop (x - a)).take m
        ctlWrite s x m (ofLe (y.map (·.b))) (y.any (·.poison))
      else s
    if a ≤ w ∧ w + 8 ≤ a + n then part s w 8 else part (part s w 4) (w + 4) 4) s

/-- Read pieces, but those of other modules, whose bytes are given: the bytes, and whether a retired range was met. A
piece that names nothing reads as poison. -/
def readPiecesD (s : State) (hint : Hint) (hv : HostView) (dead : Bool) (ps : List Piece) (fab : List PByte) :
    List PByte × Bool × State :=
  let r := ps.foldl (fun (a : List PByte × Bool × State × List PByte) p =>
    let (bs, ret, s, fs) := a
    match p with
    | .mem dpa n => let x := readMem s 4 hint dpa n; (bs ++ x.1, ret || rangeRetired s dpa n, x.2, fs)
    | .ctl dpa n => (bs ++ ctlRead s dpa n, ret, s, fs)
    | .host h n =>
      if dead then (bs ++ List.replicate n ⟨0, true⟩, ret, setRegBit s Reg.PCI_ERR 4, fs)
      else let x := hostData s hv h n; (bs ++ x.1, ret, x.2, fs)
    | .fab _ _ n => (bs ++ fs.take n, ret, s, fs.drop n)
    | .bad n => (bs ++ poisonBytes n, ret, s, fs)) ([], false, s, fab)
  (r.1, r.2.1, r.2.2.1)

/-- Write pieces; those of other modules are sent as WRITE requests, whose identifiers are answered. -/
def writePiecesD (s : State) (q : Nat) (hint : Nat) (ps : List Piece) (bs : List PByte) : List Nat × Bool × State :=
  let r := ps.foldl (fun (a : List Nat × Bool × State × List PByte) p =>
    let (ids, ret, s, bs) := a
    match p with
    | .mem dpa n => (ids, ret || rangeRetired s dpa n, writeMem s 4 (dmaIssuer q) (hintOf hint) dpa (bs.take n), bs.drop n)
    | .ctl dpa n => (ids, ret, ctlWriteBytes s dpa (bs.take n), bs.drop n)
    | .host h n => (ids, ret, hostWrite s h (bs.take n), bs.drop n)
    | .fab id dpa n =>
      let y := bs.take n
      let x := sendReq s id 0x01 1 0 dpa (hint + 4 * b2n (y.any (·.poison))) n (y.map (·.b)) (65536 + q)
      (ids ++ [x.1], ret, x.2, bs.drop n)
    | .bad n => (ids, ret, s, bs.drop n)) ([], false, s, bs)
  (r.1, r.2.1, r.2.2.1)

/-- READ requests for the pieces of other modules. -/
def requestPieces (s : State) (q : Nat) (ps : List Piece) : List Nat × State :=
  ps.foldl (fun a p =>
    match p with
    | .fab id dpa n => let x := sendReq a.2 id 0x03 1 0 dpa 0 n [] (65536 + q); (a.1 ++ [x.1], x.2)
    | _ => a) ([], s)

/-! ### Conversion (R63, R676) -/

/-- The value of element `i` of a source tensor, its flags, and whether it is poisoned. -/
def srcElem (f : Fmt) (n : Nat) (bs : List PByte) (i : Nat) : FVal × Flags × Bool :=
  let w := elemBits f.code
  let cover := (bs.drop (w * i / 8)).take ((w * i % 8 + w + 7) / 8)
  let v := bitsOf (ofLe (cover.map (·.b))) (w * i % 8) w
  let sc := if isBlock f.code then bs[elemBytesOf f.code n + i / blockLen f.code]? else none
  let x := elemDecode f.code f.elem v (match sc with | some b => b.b.toNat | none => 0)
  (x.1, x.2, cover.any (·.poison) || (match sc with | some b => b.poison | none => false))

/-- Codes of `w` bits packed from the first byte (R51); the bits after the last are free. -/
def packCodes (s : State) (w : Nat) (cs : List (Nat × Bool)) : List PByte × State :=
  let n := (w * cs.length + 7) / 8
  let tail := 8 * n - w * cs.length
  let f := if tail = 0 then (0, s) else freeVal s
  let v := cs.foldr (fun c v => v * 2 ^ w + c.1 % 2 ^ w) (f.1 % 2 ^ tail)
  ((leBytes n v).mapIdx fun k b =>
     ⟨b, (List.range (8 / w + 2)).any fun j => let i := 8 * k / w + j; decide (w * i < 8 * k + 8) && (match cs[i]? with | some c => c.2 && decide (8 * k < w * i + w) | none => false)⟩,
   f.2)

/-- CONVERT: the destination arrays' bytes, the flags, and the state after the free bits are taken. -/
def convertBytes (s : State) (d : BitVec 512) (f t : Fmt) (bs : List PByte) : List PByte × Flags × State :=
  let n := dCount d
  let mode := fun i => modeFor (convRound t.code t.round) (dF d 40 0 64) (dF d 52 0 32) (dF d 48 0 32) i
  let xs := (List.range n).map fun i =>
    let x := srcElem f n bs i
    let y := viaFp32 f.code t.code t.ovf x.1
    (y.1, x.2.1.or y.2, x.2.2)
  let fl := xs.foldl (fun a x => a.or x.2.1) Flags.none
  if isBlock t.code then
    let l := blockLen t.code
    let bl := (List.range (ceilDiv n l)).map fun b =>
      let mine := (xs.drop (b * l)).take l
      let r := blockEncode t.code t.elem (fun j => mode (b * l + j)) (mine.map (·.1) ++ List.replicate (l - mine.length) (.fin false 0 0))
      (r, mine.any (·.2.2))
    let p := packCodes s (elemBits t.code) (bl.flatMap fun b => b.1.2.1.map fun c => (c, b.2))
    (p.1 ++ bl.map fun b => (⟨BitVec.ofNat 8 b.1.1, b.2⟩ : PByte), bl.foldl (fun a b => a.or b.1.2.2) fl, p.2)
  else
    let es := xs.mapIdx fun i x => (toScalar t.code (mode i) t.ovf x.1, x.2.2)
    let p := packCodes s (elemBits t.code) (es.map fun e => (e.1.1, e.2))
    (p.1, es.foldl (fun a e => a.or e.1.2) fl, p.2)

/-! ### What a descriptor delivers -/

/-- The addresses of an element list, from its bytes: the low 3 bits of an entry are ignored; none where the entry is
poisoned. -/
def listEntries (bs : List PByte) (n : Nat) : List (Option Nat) :=
  (List.range n).map fun i =>
    let e := (bs.drop (8 * i)).take 8
    if e.any (·.poison) then none else some (ofLe (e.map (·.b)) / 8 * 8)

/-- The pieces of a list of elements of 8 bytes. -/
def entryPieces (s : State) (fn sp : Nat) (write : Bool) (es : List (Option Nat)) : List Piece × State :=
  es.foldl (fun a e => match e with
    | some x => let r := pieces a.2 fn sp write x 8; (a.1 ++ r.1, r.2)
    | none => (a.1 ++ [.bad 8], a.2)) ([], s)

/-- The pieces of a descriptor's source or destination, with the list's where it has one. -/
def sidePieces (s : State) (fn : Nat) (hv : HostView) (dead : Bool) (d : BitVec 512) (write : Bool) : List Piece × State :=
  let sp := if write then dDsp d else dSsp d
  if dOp d = (if write then 3 else 2) then
    let l := pieces s fn (dLsp d) false (dList d) (8 * dCount d)
    let r := readPiecesD l.2 .stream hv dead l.1 []
    entryPieces r.2.2 fn sp write (listEntries r.1 (dCount d))
  else piecesAll s fn sp write (if write then dstRanges s d else srcRanges d)

/-- What the source's bytes become: the destination's bytes, flags, and whether a CHECK_STRIP failed. -/
def transform (s : State) (d : BitVec 512) (bs : List PByte) : List PByte × Flags × Bool × State :=
  let c := dChan d
  let raw := fun (xs : List PByte) => xs.map (·.b)
  match dOp d with
  | 1 =>
    if dCheck d = 0 then (bs, .none, false, s)
    else
      let s1 := feedAll s c
      let s2 := if dInit d then chanSet s1 c (setInit (chanKind s1 c)) else s1
      if dCheck d = 1 then
        let s3 := chanRun s2 c (raw bs)
        (bs ++ clean (chanFinal s3 c), .none, false, s3)
      else
        let n := bs.length - chanBytes s2 c
        let s3 := chanRun s2 c (raw (bs.take n))
        if raw (bs.drop n) = chanFinal s3 c then (bs.take n, .none, false, s3)
        else (poisonBytes n, .none, true, setRegBit s3 Reg.DMA_ERR 3)
  | 4 =>
    match dSrcFmt d, dDstFmt d with
    | some f, some t => let r := convertBytes s d f t bs; (r.1, r.2.1, false, r.2.2)
    | _, _ => ([], .none, false, s)
  | 7 => let s1 := feedAll s c; (clean (leBytes 8 (chanValue s1 c)), .none, false, s1)
  | _ => (bs, .none, false, s)

/-! ### Queues (R273, R524, R528) -/

/-- The list in progress at a queue; an itinerary's queue has one from its first descriptor. -/
def runAt (s : State) (q : Nat) : DmaRun :=
  (mget s.dma.runs q).getD { fn := 0, descs := [], done := [], waiting := [], retired := false, poison := false, flags := .none, failed := none }
/-- The list replaced. -/
def setRun (s : State) (q : Nat) (r : DmaRun) : State := { s with dma := { s.dma with runs := mset s.dma.runs q r } }

/-- The descriptors of a queue in list order with their numbers and whether they have been performed. -/
def queueList (s : State) (q : Nat) : List (Nat × BitVec 512 × Bool) :=
  if q < 16 then
    (itinItems s).filterMap fun (x : Item) =>
      match x.work with
      | .dma k d => if k = q ∧ x.variant = s.itn.variant then some (x.id, d, s.itn.done.contains x.id) else none
      | _ => none
  else (runAt s q).descs.mapIdx fun i d => (i, d, (runAt s q).done.contains i)

/-- Whether a descriptor is due but for its channel: not before a fence ahead of it, nor, for a fence, before any
descriptor ahead of it; for an itinerary's, its item ready. -/
def descDue (s : State) (q i : Nat) (d : BitVec 512) : Bool :=
  let ahead := (queueList s q).takeWhile fun x => x.1 != i
  let mine := (runAt s q).waiting.any fun w => w.1 == i
  ahead.all (fun x => x.2.2 || (dOp d != 8 && dOp x.2.1 != 8)) && (runAt s q).failed.isNone
  && (if q < 16 then
        mine || (itinItems s).any fun (x : Item) => x.id == i && itemReady s x
      else !(runAt s q).done.contains i)

/-- Whether a queue of a lower issuer index has a descriptor due on a channel: it is served first (R534). -/
def chanWanted (s : State) (c q : Nat) : Bool :=
  (List.range q).any fun k => (queueList s k).any fun x => !x.2.2 && descChan x.2.1 == some c && descDue s k x.1 x.2.1

/-- Whether a descriptor may be performed now: it is due, and its channel serves it already, or is free and its queue's
turn (R534). -/
def descReady (s : State) (q i : Nat) (d : BitVec 512) : Bool :=
  let turn := match descChan d with | some c => !chanBound s c && !chanWanted s c q | none => true
  descDue s q i d && (turn || (runAt s q).waiting.any fun w => w.1 == i)

/-- The status with which a list completes (R529). -/
def runStatus (r : DmaRun) : Nat :=
  if r.retired then stRetired else if r.poison || r.failed.isSome then stPoisoned else stDone

/-- A list whose descriptors have all been performed, or which a fabric failure stopped, completes its DMA_SUBMIT and
frees its queue (R528, R529). -/
def finishRun (s : State) (q : Nat) : State :=
  let r := runAt s q
  if q < 16 ∨ (mget s.dma.runs q).isNone then s
  else if r.waiting.isEmpty && (r.failed.isSome || decide (r.descs.length ≤ r.done.length)) then
    match s.cmd.inProg.find? fun c => c.op = 0x0201 ∧ c.args = [q] with
    | none => s
    | some c =>
      let f := r.failed.getD (0, 0xFFFFFFFF)
      let reply := { plainReply c.pkt (runStatus r) r.done.length f.1 f.2 0 with flags := r.flags, poison := r.poison }
      completeProg { s with dma := { s.dma with runs := mdel s.dma.runs q } } c reply
  else s

/-- A descriptor performed. -/
def descDone (s : State) (q i : Nat) (retired poison : Bool) (fl : Flags) : State :=
  let s1 := if poison then setRegBit s Reg.DMA_ERR 1 else s
  if q < 16 then
    let s2 := itemDone s1 (some i)
    let r := runAt s2 q
    let rest := { r with retired := false, poison := false, flags := .none }
    { s2 with itn := { s2.itn with flags := (s2.itn.flags.or r.flags).or fl, poisoned := s2.itn.poisoned || r.poison || poison },
              dma := { s2.dma with runs := if r.waiting.isEmpty then mdel s2.dma.runs q else mset s2.dma.runs q rest } }
  else
    let r := runAt s1 q
    finishRun (setRun s1 q { r with done := r.done ++ [i], retired := r.retired || retired, poison := r.poison || poison, flags := r.flags.or fl }) q

/-- A descriptor stops at a fabric failure (R360, R529). An itinerary's run is marked poisoned. -/
def descFailed (s : State) (q i status : Nat) : State :=
  let s1 := setRegBit s Reg.DMA_ERR 2
  if q < 16 then descDone s1 q i false true .none
  else finishRun (setRun s1 q { runAt s1 q with failed := some (i, status) }) q

/-- A descriptor that waits for other modules, or no longer does. -/
def setWaiting (s : State) (q i : Nat) (ids : List Nat) : State :=
  let r := runAt s q
  let w := r.waiting.filter fun x => x.1 != i
  setRun s q { r with waiting := if ids.isEmpty then w else w ++ [(i, ids)] }

/-- The function whose addresses a context's itinerary uses: a VF's device addresses are translated wherever a command of it
names them (R520), an itinerary's descriptors among them. -/
def ctxFn (s : State) (key : Nat) : Nat :=
  if 256 ≤ key then key - 256 else match mget s.cmd.ctxs key with | some x => x.fn | none => 0
/-- The function for which a queue works. -/
def queueFn (s : State) (q : Nat) : Nat := if q < 16 then ctxFn s s.itn.ctx else (runAt s q).fn

/-- The source's bytes are at hand: they are transformed and written (R528, R532, R676). -/
def deliverDesc (s : State) (q i : Nat) (hv : HostView) (dead : Bool) (d : BitVec 512) (bs : List PByte) (retired : Bool) : State :=
  let fn := queueFn s q
  let t := transform s d bs
  let ps := sidePieces t.2.2.2 fn hv dead d true
  let w := writePiecesD ps.2 q (dF d 2 2 2) ps.1 t.1
  let poison := t.1.any (·.poison) || t.2.2.1 || ps.1.any (·.isBad)
  if w.1.isEmpty then descDone w.2.2 q i (retired || w.2.1) poison t.2.1
  else
    let s1 := setWaiting w.2.2 q i w.1
    let r := runAt s1 q
    setRun s1 q { r with retired := r.retired || retired || w.2.1, poison := r.poison || poison, flags := r.flags.or t.2.1 }

/-- The bytes that a failing descriptor was to write, undefined in this module's memory (R529). -/
def undefineDst (s : State) (q : Nat) (hv : HostView) (dead : Bool) (d : BitVec 512) : State :=
  let ps := sidePieces s (queueFn s q) hv dead d true
  ps.1.foldl (fun s p => match p with
    | .mem dpa n => let f := freeBytes s n; writeMem f.2 4 (dmaIssuer q) (hintOf (dF d 2 2 2)) dpa (clean f.1)
    | _ => s) ps.2

/-- The data of an answer to a READ: poisoned where the answer is, and all of it where no data came (R360). -/
def answerBytes (r : FResult) (n : Nat) : List PByte :=
  if 2 < r.status then poisonBytes n
  else (r.data.map fun b => (⟨b, decide (r.status ≠ 0)⟩ : PByte)).take n ++ poisonBytes (n - r.data.length)

/-- The data that answers to READs give a descriptor's pieces at other modules, in order. -/
def fabData : List Piece → List FResult → List PByte
  | [], _ => []
  | .fab _ _ n :: ps, r :: rs => answerBytes r n ++ fabData ps rs
  | .fab _ _ n :: ps, [] => poisonBytes n ++ fabData ps []
  | _ :: ps, rs => fabData ps rs

/-- A descriptor's data delivered, with what the answers to its READs gave. -/
def deliverAnswers (s : State) (q i : Nat) (hv : HostView) (dead : Bool) (d : BitVec 512) (rs : List FResult) (retired : Bool) :
    State :=
  let ps := sidePieces s (queueFn s q) hv dead d false
  let x := readPiecesD ps.2 (hintOf (dF d 2 0 2)) hv dead ps.1 (fabData ps.1 rs)
  deliverDesc x.2.2 q i hv dead d x.1 (retired || x.2.1)

/-- The answers to a descriptor's requests have all come: its data is delivered or its writes are done. A failure stops
a command's list, the descriptor's bytes undefined; an itinerary's READ delivers the data that failed as poison (R360,
R529). -/
def resumeDesc (s : State) (q i : Nat) (hv : HostView) (dead : Bool) (d : BitVec 512) (ids : List Nat) : State :=
  let rs := ids.filterMap fun id => s.fab.results.find? fun r => r.id = id ∧ r.owner = 65536 + q
  if rs.length < ids.length then s
  else
    let s1 := setWaiting { s with fab := { s.fab with results := s.fab.results.filter fun r => !rs.contains r } } q i []
    let retired := rs.any fun r => r.status == 2
    let failed := rs.find? fun r => decide (2 < r.status)
    let reads := rs.any fun r => r.kind == 0x03
    match failed with
    | some r =>
      if 16 ≤ q then descFailed (undefineDst s1 q hv dead d) q i r.status
      else if reads then deliverAnswers (setRegBit s1 Reg.DMA_ERR 2) q i hv dead d rs retired
      else descFailed s1 q i r.status
    | none =>
      if reads then deliverAnswers s1 q i hv dead d rs retired
      else descDone s1 q i retired (rs.any fun r => r.status == 1) .none

/-- Whether a descriptor waits for a write hold to end: a stack would keep a write of its destination back (R199). It
completes once its writes are performed, so it is not performed in part (R300, R528). -/
def descHeld (s : State) (q : Nat) (hv : HostView) (dead : Bool) (d : BitVec 512) : Bool :=
  let fn := queueFn s q
  (sidePieces s fn hv dead d true).1.any fun p => match p with
    | .mem dpa n => rangeWaits s (dmaIssuer q) (hintOf (dF d 2 2 2)) dpa n
    | _ => false

/-- Descriptor i of queue q performed, where it is of the operation and may be (R526 to R528). -/
def performDesc (s : State) (q i op : Nat) (hv : HostView) (dead : Bool) : State :=
  match queueDesc s q i with
  | none => s
  | some d =>
    if dOp d ≠ op ∨ descReady s q i d = false ∨ descHeld s q hv dead d = true then s
    else
      match (runAt s q).waiting.find? fun w => w.1 = i with
      | some w => resumeDesc s q i hv dead d w.2
      | none =>
        let s0 := if q < 16 then (match (itinItems s).find? fun (x : Item) => x.id = i with | some x => beginItem s x | none => s) else s
        let fn := queueFn s0 q
        if op = 6 then descDone (chanSet (feedAll s0 (dChan d)) (dChan d) (dF d 40 0 64)) q i false false .none
        else if op = 8 then descDone s0 q i false false .none
        else
          let ps := sidePieces s0 fn hv dead d false
          let hint := if op = 2 then .stream else hintOf (dF d 2 0 2)
          if ps.1.any (·.isFab) then
            let r := requestPieces ps.2 q ps.1
            setWaiting r.2 q i r.1
          else
            let x := readPiecesD ps.2 hint hv dead ps.1 []
            deliverDesc x.2.2 q i hv dead d x.1 x.2.1

/-! ### The commands -/

/-- DMA_SUBMIT: checks its list, takes the lowest idle queue and is in progress until the list completes. -/
def execDmaSubmit (p : Packet) (hv : HostView) (s : State) : Host.Outcome State Fault Refusal :=
  command 0x0201 p (.dmaSubmit p hv) (fun s fn =>
    let a := prm p 0 0 64
    let n := prm p 8 0 16
    match hostImage hv a (64 * n) 64, idleQueue s with
    | none, _ => no s p (hostError hv [(a, 64 * n, 64)])
    | _, none => no s p stBusy
    | some bs, some q =>
      let ds := (List.range n).map fun i => BitVec.ofNat 512 (fieldAt bs (64 * i) 64)
      let c := listOk s fn false ds
      if !c.1 then no c.2 p stBadParam
      else if n = 0 then .now c.2 (plainReply p stDone 0 0 0xFFFFFFFF 0)
      else .later (setRun c.2 q { fn := fn, descs := ds, done := [], waiting := [], retired := false, poison := false, flags := .none, failed := none })
             [q] none) s

/-- COPY: descriptor (or itinerary item) i of queue q. -/
def execCopy (q i : Nat) (hv : HostView) (s : State) : Host.Outcome State Fault Refusal := .next (performDesc s (q % 32) i 1 hv false)
/-- GATHER. -/
def execGather (q i : Nat) (hv : HostView) (s : State) : Host.Outcome State Fault Refusal := .next (performDesc s (q % 32) i 2 hv false)
/-- SCATTER. -/
def execScatter (q i : Nat) (hv : HostView) (s : State) : Host.Outcome State Fault Refusal := .next (performDesc s (q % 32) i 3 hv false)
/-- CONVERT. -/
def execConvert (q i : Nat) (hv : HostView) (s : State) : Host.Outcome State Fault Refusal := .next (performDesc s (q % 32) i 4 hv false)
/-- CHAN_LOAD. -/
def execChanLoad (q i : Nat) (s : State) : Host.Outcome State Fault Refusal := .next (performDesc s (q % 32) i 6 [] false)
/-- CHAN_STORE. -/
def execChanStore (q i : Nat) (s : State) : Host.Outcome State Fault Refusal := .next (performDesc s (q % 32) i 7 [] false)
/-- FENCE (R274, R275). -/
def execDmaFence (q i : Nat) (s : State) : Host.Outcome State Fault Refusal := .next (performDesc s (q % 32) i 8 [] false)

/-- COMPLETION_TIMEOUT: the host answers none of a descriptor's reads; what it was to give is poison (Table 13.10). -/
def execCompletionTimeout (q i : Nat) (s : State) : Host.Outcome State Fault Refusal :=
  match queueDesc s (q % 32) i with
  | none => .next s
  | some d =>
    if dSsp d = 1 ∧ (dOp d = 1 ∨ dOp d = 2 ∨ dOp d = 3 ∨ dOp d = 4) ∨ dLsp d = 1 then .next (performDesc s (q % 32) i (dOp d) [] true) else .next s

end Sys2Proof.Machine
end

