-- ==== Sys2Proof/Machine/Link.lean ====
section
/-!
DEFINITION. The host link (chapter 13): BAR2 accesses, AtomicOps, functions and their resets, vectors and the PCI_
registers.
-/
namespace Sys2Proof.Machine

/-! ### Whether a request is served -/

/-- Whether BAR2 is served in the power state (Table 14.2). -/
def bar2Served (s : State) (fn : Nat) : Bool := memServed s fn && decide (powerState s < 2)

/-! ### BAR2 (R512, R513, R520, R522) -/

/-- The PF's BAR2 size in bytes, and the DPA of its start. -/
def bar2Size (s : State) : Nat := 2 ^ (30 + s.pci.bar2Log)
def bar2Base (s : State) : Nat := regField s Reg.PCI_BAR2_BASE 0 10 * 2 ^ 30

/-- The pieces that a BAR2 access names; none where it is refused, with the error that says so. -/
def bar2Pieces (s : State) (fn off n : Nat) (write : Bool) : Option (List Piece) × State :=
  if fn = 0 then
    if bar2Size s < off + n then (none, s)
    else
      match dpaPieces s (bar2Base s + off) n with
      | [.mem a m] => (some [.mem a m], s)
      | [.ctl a m] => if ctlFormOk m a && decide (ctlStack a < stackCount s) then (some [.ctl a m], s) else (none, setRegBit s Reg.PCI_ERR 1)
      | _ => (none, setRegBit s Reg.PCI_ERR 1)
  else
    let r := vfWalk fn write (n / 0x200000 + 2) s off n
    (r.1.map fun ps => ps.map fun p => .mem p.1 p.2, r.2)

/-- A completion that reports an Unsupported Request. -/
def answerUr (s : State) (fn : Nat) : State := emit s (.completion fn 2 [])

/-- Bytes from an address cut into the parts of its 64-byte lines. -/
def lineParts : Nat → Nat → List PByte → List (List PByte)
  | 0, _, _ => []
  | _, _, [] => []
  | k + 1, a, bs => bs.take (64 - a % 64) :: lineParts k (a / 64 * 64 + 64) (bs.drop (64 - a % 64))

/-- Neighbouring parts that are both clean or both poisoned, joined. -/
def joinParts : List (List PByte) → List (Bool × List PByte)
  | [] => []
  | p :: ps =>
    let bad := p.any (·.poison)
    match joinParts ps with
    | (b, q) :: rest => if b = bad then (b, p ++ q) :: rest else (bad, p) :: (b, q) :: rest
    | [] => [(bad, p)]

/-- Completions with data, split at every 64-byte boundary between clean and poisoned data (Table 13.10). -/
def answerData (s : State) (fn a : Nat) (bs : List PByte) : State :=
  (joinParts (lineParts (bs.length + 1) a bs)).foldl (fun s p =>
    let s1 := emit s (.completion fn (b2n p.1) (p.2.map (·.b)))
    if p.1 then setRegBit s1 Reg.PCI_ERR 2 else s1) s

/-- A BAR2 read performed. -/
def bar2Read (s : State) (fn off n : Nat) : State :=
  if bootStage s = 0xE ∧ linkDown s = false then
    if fn ≠ 0 ∨ 0x4000000 < off + n then answerUr s fn
    else answerData s fn off ((List.range n).map fun i => ⟨mgetD 0 s.sec.sram (off + i), false⟩)
  else if linkDown s then s
  else if !bar2Served s fn then answerUr s fn
  else
    let r := bar2Pieces s fn off n false
    match r.1 with
    | none => answerUr r.2 fn
    | some ps =>
      let x := ps.foldl (fun (a : List PByte × State) p =>
        match p with
        | .mem dpa m => let y := readMem a.2 0 .stream dpa m; (a.1 ++ y.1, y.2)
        | .ctl dpa m => (a.1 ++ ctlRead a.2 dpa m, a.2)
        | _ => a) ([], r.2)
      answerData x.2 fn off x.1

/-- The bank's queue entry of a BAR2 read whose first byte lies in a bank where a trowel runs (R252). -/
def bar2Busy (s : State) (fn off n : Nat) : Option (Nat × BankReq) :=
  if linkDown s ∨ bootStage s = 0xE ∨ bar2Served s fn = false ∨ n = 0 then none
  else match (bar2Pieces s fn off n false).1 with
    | some (.mem dpa _ :: _) => if bankBusy s dpa then bankReqAt s dpa 0 (hostIssuer fn) false (.host fn) else none
    | _ => none

/-- BAR2_READ: function `fn` reads n bytes at an offset of its BAR2. It is performed after the posted writes of the
function that came before it (R294); at a bank whose trowel runs it waits in the bank's queue for a channel window (R252,
R255, R297). -/
def execBar2Read (fn off n : Nat) (s : State) : Host.Outcome State Fault Refusal :=
  if mustWait s fn then .next (waitHost s fn (.bar2Read fn off n))
  else if s.pci.granted.contains fn then
    .next (bar2Read { s with pci := { s.pci with granted := s.pci.granted.erase fn } } fn off n)
  else match bar2Busy s fn off n with
    | some x =>
      let queued := (stackAt s x.1).bankq.any fun r => r.work == .host fn
      .next (waitHost (if queued then s else joinBank s x.1 x.2) fn (.bar2Read fn off n))
    | none => .next (bar2Read s fn off n)

/-- The bytes of a received write, poisoned by whole 8-byte words where its EP bit is set (R535). -/
def receivedBytes (bs : List Byte) (ep : Bool) : List PByte := bs.map (⟨·, ep⟩)

/-- A BAR2 write performed: written through to the bank (R293); one that is refused is discarded. -/
def bar2Write (s : State) (fn off : Nat) (bs : List Byte) (ep : Bool) : State :=
  let n := bs.length
  if bootStage s = 0xE ∧ linkDown s = false then
    if fn ≠ 0 ∨ 0x4000000 < off + n ∨ ep then s
    else { s with sec := { s.sec with sram := bs.zipIdx.foldl (fun m x => mput 0 m (off + x.2) x.1) s.sec.sram } }
  else
    let s := if ep && !linkDown s then setRegBit s Reg.PCI_ERR 3 else s
    if linkDown s ∨ bar2Served s fn = false then s
    else
      let r := bar2Pieces s fn off n true
      match r.1 with
      | none => r.2
      | some ps =>
        (ps.foldl (fun (a : State × List Byte) p =>
          match p with
          | .mem dpa m => (writeMem a.1 0 (hostIssuer fn) .stream dpa (receivedBytes (a.2.take m) ep), a.2.drop m)
          | .ctl dpa m => (ctlWrite a.1 dpa m (ofLe (a.2.take m)) ep, a.2.drop m)
          | _ => a) (r.2, bs)).1

/-- BAR2_WRITE: function `fn` writes bytes at an offset of its BAR2; `ep` is the EP bit. -/
def execBar2Write (fn off : Nat) (bytes : List Byte) (ep : Bool) (s : State) : Host.Outcome State Fault Refusal :=
  if mustWait s fn then .next (waitHost s fn (.bar2Write fn off bytes ep)) else .next (bar2Write s fn off bytes ep)

/-- The screed operation of an AtomicOp (R510): 0 FetchAdd, 1 Swap, 2 CAS, of 64 bits. -/
def atomicOpCode (op size : Nat) : Option Nat :=
  if size ≠ 8 then none
  else match op with | 0 => some 0x01 | 1 => some 0x0F | 2 => some 0x10 | _ => none

/-- ATOMICOP: function `fn` performs an AtomicOp of `size` bytes at an offset of its BAR2; x is the operand (the compare
value of CAS), y the swap value of CAS. -/
def execAtomicop (fn off op size : Nat) (x y : W64) (s : State) : Host.Outcome State Fault Refusal :=
  if mustWait s fn then .next (waitHost s fn (.atomicop fn off op size x y))
  else if linkDown s then .next s
  else if !bar2Served s fn ∨ bootStage s = 0xE then .next (answerUr s fn)
  else
    let r := bar2Pieces s fn off size true
    match r.1, atomicOpCode op size with
    | some [.mem dpa _], some a =>
      if dpa % 8 ≠ 0 ∨ regionOf r.2 dpa ≠ .interleaved then .next (answerUr r.2 fn)
      else
        let q : AtomReq := { slice := homeSlice r.2 dpa, issuer := 224, slot := none, aop := a, dpa := dpa, x := x, y := y,
                             keep := false, poison := false, who := .host fn }
        match enqueueAtomic r.2 q with
        | some s1 => .next s1
        | none => .next (waitHost (bumpSlice r.2 Reg.SCD_BP q.slice 1) fn (.atomicop fn off op size x y))
    | _, _ => .next (answerUr r.2 fn)

/-! ### Functions and their resets (R511, R517, R536) -/

/-- An itinerary unloaded by an event of the link or of power: a serving one takes the work state to the home state. -/
def unloadHome (s : State) (key : Nat) : State :=
  let serving := match imageOf s key with | some g => bitAt g.flags 1 | none => false
  let s1 := unloadItin s key
  if serving && s1.cmd.work == .serving then setWork s1 (homeState s1) else s1

/-- A context (or a VF's context 0) whose function is reset: destroyed now, or once its run ends. -/
def doomCtx (s : State) (key : Nat) : State :=
  if (runOf s key).active then
    { s with cmd := { s.cmd with doomed := if s.cmd.doomed.contains key then s.cmd.doomed else s.cmd.doomed ++ [key] } }
  else destroyCtx (unloadHome s key) key

/-- The contexts that wait to be destroyed and whose runs have ended. -/
def endDoomed (s : State) : State :=
  let ready := s.cmd.doomed.filter fun k => !(runOf s k).active
  let s1 := { s with cmd := { s.cmd with doomed := s.cmd.doomed.filter fun k => !ready.contains k } }
  ready.foldl (fun s k => destroyCtx (unloadHome s k) k) s1

/-- The commands of a function end without replies; what they had taken is given back. A run goes on, and so does an
admitted STEP. -/
def endCommands (s : State) (fn : Nat) : State :=
  let mine := s.cmd.inProg.filter fun c => c.fn == fn
  let s1 := mine.foldl dropWork s
  let gone := s1.cmd.sqs.filter fun kv => kv.2.fn == fn
  let stepGone := mine.any (fun c => c.op == 0x0401) && (match s1.srv.core.run with | some r => !r.admitted | none => false)
  let s2 := { s1 with cmd := { s1.cmd with inProg := s1.cmd.inProg.filter fun c => c.fn != fn,
                                            deferred := s1.cmd.deferred.filter fun d => !gone.any fun kv => kv.1 == d.pkt.sq } }
  if stepGone then modCore s2 fun c => { c with run := none, plans := [] } else s2

/-- Function Level Reset of one function, its contexts apart. -/
def flrCore (s : State) (fn : Nat) : State :=
  let s1 := endCommands s fn
  let keep := fun (xs : List Nat) => xs.filter fun k => k / 256 != fn
  { s1 with cmd := { s1.cmd with sqs := s1.cmd.sqs.filter fun kv => kv.2.fn != fn, cqs := s1.cmd.cqs.filter fun kv => kv.2.fn != fn,
                                 windows := s1.cmd.windows.filter fun w => w.fn != fn },
            pci := { s1.pci with msixMask := keep s1.pci.msixMask, msixPend := keep s1.pci.msixPend,
                                 msixMsg := s1.pci.msixMsg.filter fun kv => kv.1 / 512 != fn,
                                 d3hot := s1.pci.d3hot.filter (· != fn), waits := s1.pci.waits.filter fun w => w.1 != fn,
                                 granted := s1.pci.granted.filter (· != fn) },
            mem := { s1.mem with stks := s1.mem.stks.map fun k => { k with bankq := k.bankq.filter fun r => r.work != .host fn } } }

/-- The contexts of a function, by key: those created for it, and a VF's context 0. -/
def ctxKeysOf (s : State) (fn : Nat) : List Nat :=
  (s.cmd.ctxs.filter fun kv => kv.2.fn == fn).map (·.1) ++ if fn = 0 then [] else [256 + fn]

/-- FLR of a VF (Table 13.11). -/
def flrVf (s : State) (v : Nat) : State := (ctxKeysOf s v).foldl doomCtx (flrCore s v)
/-- FLR of the PF: every function, VF Enable and HUB_CMD_CTRL.enable. -/
def flrPf (s : State) : State :=
  let s1 := (List.range 65).foldl (fun s v => (ctxKeysOf s v).foldl doomCtx (flrCore s v)) s
  setField { s1 with cmd := { s1.cmd with ready := false }, pci := { s1.pci with vfEnable := false, numVfs := 0 } } Reg.HUB_CMD_CTRL 0 1 0

/-- FLR_VF. -/
def execFlrVf (v : Nat) (s : State) : Host.Outcome State Fault Refusal := if v = 0 ∨ 64 < v then .next s else .next (flrVf s v)
/-- FLR_PF. -/
def execFlrPf (s : State) : Host.Outcome State Fault Refusal := .next (flrPf s)
/-- HOT_RESET: as an FLR of the PF; PCI_LINK shows nothing until the link has retrained. -/
def execHotReset (s : State) : Host.Outcome State Fault Refusal := .next (setReg (flrPf s) Reg.PCI_LINK 0)
/-- HOST_LINK_TRAINED: rate code, lanes and FLIT mode (R508). -/
def execHostLinkTrained (rate width : Nat) (flit : Bool) (s : State) : Host.Outcome State Fault Refusal :=
  .next (setReg s Reg.PCI_LINK (rate % 16 * 2 ^ 12 + width % 32 * 2 ^ 7 + b2n flit * 2 ^ 6))
/-- D3HOT: a function enters D3hot or returns to D0; nothing else changes (R511). -/
def execD3hot (fn : Nat) (on : Bool) (s : State) : Host.Outcome State Fault Refusal :=
  let rest := s.pci.d3hot.filter (· != fn)
  .next { s with pci := { s.pci with d3hot := if on then fn :: rest else rest } }

/-- VF_ENABLE: VF Enable and NumVFs as configuration software writes them (R517). -/
def execVfEnable (on : Bool) (n : Nat) (s : State) : Host.Outcome State Fault Refusal :=
  if 64 < n then .next s
  else
    let s1 := { s with pci := { s.pci with vfEnable := on, numVfs := if on then n else 0 } }
    .next (if on ∧ 256 < 16 + n * regField s Reg.PCI_VF_CFG 0 4 then setRegBit s1 Reg.PCI_ERR 6 else s1)

/-! ### Vectors (R523) -/

/-- A vector masked or unmasked; a pending message is sent when it is unmasked. -/
def maskVector (s : State) (fn vec : Nat) (mask : Bool) : State :=
  let k := fn * 256 + vec
  if mask then { s with pci := { s.pci with msixMask := if s.pci.msixMask.contains k then s.pci.msixMask else s.pci.msixMask ++ [k] } }
  else
    let s1 := { s with pci := { s.pci with msixMask := s.pci.msixMask.filter (· != k), msixPend := s.pci.msixPend.filter (· != k) } }
    if s.pci.msixPend.contains k then emitMsix s1 fn vec else s1
/-- VECTOR_UNMASK. -/
def execVectorUnmask (fn vec : Nat) (s : State) : Host.Outcome State Fault Refusal :=
  if vectorCount fn ≤ vec then .next s else .next (maskVector s fn vec false)

/-! ### PCI_ registers (R512, R517, R521, R537, R539) -/

/-- A write of PCI_BAR2_BASE: a base that is not a multiple of the BAR2 size is ignored. -/
def writeBar2Base (s : State) (v : Nat) : State :=
  if v % 2 ^ 10 % 2 ^ s.pci.bar2Log ≠ 0 then setRegBit s Reg.PCI_ERR 0 else plainWrite s Reg.PCI_BAR2_BASE v
/-- A write of PCI_VF_CFG: per_vf is 1 to 15, and keeps its value while VF Enable is 1. DESIGN CHOICE: a write that
gives per_vf the value it has is not taken as one that changes it, and sets no error. -/
def writeVfCfg (s : State) (v : Nat) : State :=
  if v % 16 = 0 then setRegBit s Reg.PCI_ERR 0
  else if s.pci.vfEnable ∧ v % 16 ≠ regField s Reg.PCI_VF_CFG 0 4 then
    setRegBit (plainWrite s Reg.PCI_VF_CFG (setBits v 0 4 (regField s Reg.PCI_VF_CFG 0 4))) Reg.PCI_ERR 0
  else plainWrite s Reg.PCI_VF_CFG v
/-- A write of PCI_VF_XLAT_v flushes the cached entries of VF v. -/
def writeVfXlat (s : State) (vf v : Nat) : State :=
  let s1 := plainWrite s (Reg.PCI_VF_XLAT vf) v
  { s1 with pci := { s1.pci with xlat := s1.pci.xlat.filter fun e => e.vf != vf } }
/-- A write of PCI_HOST_TIME. -/
def writeHostTime (s : State) (v : Nat) : State := { setReg s Reg.PCI_HOST_TIME v with pci := { s.pci with halfNs := false } }

/-- PCI_BAR2_BASE: performed after the PF's earlier requests, each of which uses the base in force when it came (R294,
R512). -/
def execPciBar2Base (v : W64) (s : State) : Host.Outcome State Fault Refusal :=
  .next (if mustWait s 0 then waitHost s 0 (.pciBar2Base v) else writeBar2Base s v.toNat)
/-- PCI_VF_CFG. -/
def execPciVfCfg (v : W64) (s : State) : Host.Outcome State Fault Refusal := .next (writeVfCfg s v.toNat)
/-- PCI_VF_XLAT of VF `vf`. -/
def execPciVfXlat (vf : Nat) (v : W64) (s : State) : Host.Outcome State Fault Refusal :=
  if vf = 0 ∨ 64 < vf then .next s else .next (writeVfXlat s vf v.toNat)
/-- PCI_HOST_TIME. -/
def execPciHostTime (v : W64) (s : State) : Host.Outcome State Fault Refusal := .next (writeHostTime s v.toNat)
/-- PTM_UPDATE: the host time that a PTM exchange gives. -/
def execPtmUpdate (ns : W64) (s : State) : Host.Outcome State Fault Refusal := .next (writeHostTime s ns.toNat)
/-- BAR2_RESIZE: a Resizable BAR write of a function, the size as log2 of GiB: to 10 for the PF, to 6 for a VF (Table
13.3). -/
def execBar2Resize (fn size : Nat) (s : State) : Host.Outcome State Fault Refusal :=
  if fn = 0 then
    if 10 < size then .next s
    else if regField s Reg.PCI_BAR2_BASE 0 10 % 2 ^ size ≠ 0 then .next (setRegBit s Reg.PCI_ERR 0)
    else .next { s with pci := { s.pci with bar2Log := size } }
  else if 6 < size ∨ 64 < fn then .next s
  else .next { s with pci := { s.pci with vfBar2Log := mput 0 s.pci.vfBar2Log fn size } }

end Sys2Proof.Machine
end

