-- ==== Sys2Proof/Machine/Load.lean ====
section
/-!
DEFINITION. Loading and running itineraries (chapter 8): the reading of an image, every check of a load command, ITIN_LOAD,
ITIN_UNLOAD and ITIN_RUN.
-/
namespace Sys2Proof.Machine

/-! ### Reading an image (Tables 8.1, 8.6, 14.4) -/

/-- A waystation table entry at an offset of an image. -/
def readWay (b : List Byte) (o : Nat) : WayEnt :=
  let w0 := fieldAt b o 8
  let w1 := fieldAt b (o + 8) 8
  let kind := bitsOf w0 60 4
  let off := bitsOf w1 0 32
  let list := if kind = 1 then (List.range (bitsOf w1 32 16)).map fun i => fieldAt b (off + 2 * i) 2
    else if off = 0 then [] else (List.range 1024).filter fun i => bitAt (fieldAt b (off + i / 8) 1) (i % 8)
  { kind := kind, owner := bitsOf w0 50 10, release := bitsOf w0 0 48, slack := bitsOf w1 48 16, list := list }

/-- The waystation tables: one per variant, in order. -/
def readWays (b : List Byte) : List (List WayEnt) :=
  let n := fieldAt b 0x1C 4
  (List.range (fieldAt b 0x0E 2)).map fun v => (List.range n).map fun i => readWay b (fieldAt b 0x20 8 + 16 * (v * n + i))

/-- A record of the power profile. -/
def readPhase (b : List Byte) (o : Nat) : Phase :=
  { start := fieldAt b o 6, compute := fieldAt b (o + 6) 2, stks := fieldAt b (o + 8) 2, hub := fieldAt b (o + 10) 2,
    clusters := fieldAt b (o + 12) 3 }

/-- The power profile. -/
def readPhases (b : List Byte) : List Phase :=
  let o := fieldAt b 0x28 8
  (List.range (fieldAt b o 4)).map fun i => readPhase b (o + 8 + 16 * i)

/-- Whether a reserved field of the header, of a waystation table or of the power profile is nonzero. -/
def headReserved (b : List Byte) : Bool :=
  let o := fieldAt b 0x28 8
  fieldAt b 6 2 / 4 != 0 || fieldAt b 0x1A 2 != 0 || fieldAt b 0x50 48 != 0 || fieldAt b (o + 4) 4 != 0
  || (List.range (fieldAt b o 4)).any (fun i => fieldAt b (o + 8 + 16 * i + 15) 1 != 0)
  || (List.range (fieldAt b 0x1C 4 * fieldAt b 0x0E 2)).any fun i => bitsOf (fieldAt b (fieldAt b 0x20 8 + 16 * i) 8) 48 2 != 0

/-- An image's parts with what its bytes give: header, waystation tables and power profile. The operand gives this
member's sections, whose directory and lists the tables do not lay out. -/
def withBytes (g : ItinImage) (b : List Byte) : ItinImage :=
  { g with magic := fieldAt b 0 4, version := fieldAt b 4 2, flags := fieldAt b 6 2, ordering := fieldAt b 8 2,
           groups := fieldAt b 0x0A 1, dmax := fieldAt b 0x0B 1, members := fieldAt b 0x0C 2, variants := fieldAt b 0x0E 2,
           seed := fieldAt b 0x10 8, mbells := fieldAt b 0x18 2, length := fieldAt b 0x38 8, mapHash := fieldAt b 0x40 16,
           clean := g.clean && !headReserved b, ways := readWays b, phases := readPhases b }

/-! ### The plan (R300, R302, R315) -/

/-- The items of a variant. -/
def itemsOf (g : ItinImage) (v : Nat) : List Item := g.items.filter fun i => i.variant == v

/-- The latest planned end of the items of a variant that are planned before a bell, in 1/64 bells. -/
def lastEnd (is : List Item) (bell : Nat) : Nat :=
  (is.filter fun i => decide (i.start < 64 * bell)).foldl (fun n i => Nat.max n i.stop) 0

/-- Whether the gaps between consecutive releases are above zero and at most a bound. -/
def gapsOk (most : Nat) : List Nat → Bool
  | a :: b :: rs => decide (a < b) && decide (b ≤ a + most) && gapsOk most (b :: rs)
  | _ => true

/-- A waystation table against R315 and Table 8.6. -/
def waysOk (g : ItinImage) (v : Nat) (ws : List WayEnt) : Bool :=
  let is := itemsOf g v
  (match ws with | w :: _ => w.kind == 4 && w.release == 0 | [] => false)
  && ws.all (fun w => decide (1 ≤ w.kind) && decide (w.kind ≤ 4) && decide (1 ≤ w.slack) && (w.kind == 1 || w.owner == 0))
  && gapsOk 4096 ((ws.filter (·.wide)).map (·.release)) && gapsOk 65536 ((ws.filter (·.canStop)).map (·.release))
  && (ws.filter (·.wide)).all fun w => lastEnd is w.release == 0 || decide (lastEnd is w.release + 64 * (2 * g.dmax + 1) ≤ 64 * w.release)

/-- The items left after those whose dependencies all lie outside the list are taken away, repeatedly. -/
def stripReady : Nat → List Item → List Item
  | 0, is => is
  | n + 1, is => stripReady n (is.filter fun i => i.deps.any fun d => is.any fun j => j.id == d)

/-- Dependencies: at most 8 each, on no item that is planned later, and without a cycle. -/
def depsOk (is : List Item) : Bool :=
  is.all (fun i => decide (i.deps.length ≤ 8) && is.all fun j => !i.deps.contains j.id || decide (j.start ≤ i.start))
  && (stripReady is.length is).isEmpty

/-! ### Tiles (R114, R122, R136, R154) -/

/-- Whether an operation code of a recipe is listed (Table 3.5). -/
def recipeOp (op : Nat) : Bool := decide (op ≤ 0x0C) || (decide (0x10 ≤ op) && decide (op ≤ 0x14)) || op == 0x18

/-- A binding descriptor against R114 and R136. -/
def bindOk (b : BitVec 256) : Bool :=
  let k := bKind b
  bField b 224 26 == 0 && bField b 0 40 == 0 && decide (k ≤ 4)
  && (k == 0 || bLen b != 0)
  && (!(decide (1 ≤ k) && decide (k ≤ 3)) || decide (bBase b + bLen b ≤ 0x180000))
  && (!decide (2 ≤ k) || decide (bDpa b + bLen b ≤ ctlBase))

/-- Whether a step's bindings are of the kinds that its operation and the feeders it names take (R111). -/
def stepBinds (t : Tile) (w : BitVec 512) (cell x : Nat) : Bool :=
  let op := sOp x
  let ka := bKind (t.bind (sBindA x))
  let kb := bKind (t.bind (sBindB x))
  let scratch := fun k => decide (1 ≤ k) && decide (k ≤ 3)
  let west := cell % 32 == 0 && rEdgeW w == 1 && (sAsel x == 1 || sBsel x == 1)
  let north := cell / 32 == 0 && rEdgeN w == 1 && (sAsel x == 2 || sBsel x == 2)
  (!(op == 0x10 || op == 0x11) || scratch ka) && (!(decide (0x12 ≤ op) && decide (op ≤ 0x14)) || ka == 4)
  && (!west || scratch ka) && (!north || scratch kb)

/-- A step of a recipe word against R99, R114 and R154. -/
def stepOk (t : Tile) (w : BitVec 512) (cell x : Nat) : Bool :=
  let op := sOp x
  recipeOp op && x % 2 ^ 27 == 0 && sBus x != 3 && sFscope x != 3 && sFkind x != 3
  && (op == 0x14 || sAop x == 0) && (op != 0x14 || (aopOk (sAop x) && (sAop x != 0x10 || sSa x % 2 == 0)))
  && !(sSend x 3 && sSend x 1) && !(sSend x 2 && sSend x 0)
  && (!(op == 0x01 || op == 0x0A) || sSa x % 2 == 0) && (op != 0x01 || sSb x % 2 == 0)
  && !(cell % 32 == 0 && rEdgeW w == 0 && (sAsel x == 1 || sBsel x == 1))
  && !(cell / 32 == 0 && rEdgeN w == 0 && (sAsel x == 2 || sBsel x == 2))
  && stepBinds t w cell x

/-- The four step slots of a recipe word (R107). -/
def stepSlots (w : BitVec 512) : List Nat := (List.range 4).map (rStep w)

/-- The descriptors of a word: R41, and for a multiply R76 and R77. -/
def wordFmts (w : BitVec 512) : Bool :=
  match fmtDecode (rFmtA w), fmtDecode (rFmtB w), fmtDecode (rFmtOut w) with
  | some a, some b, some _ =>
    (stepSlots w).all fun x => sOp x != 0x01 || (a.code != 0x0A && b.code != 0x0A && isInt a.code == isInt b.code)
  | _, _, _ => false

/-- The bindings that a step names for its operation and its feeders. -/
def stepNames (w : BitVec 512) (cell x : Nat) : List Nat :=
  let west := cell % 32 = 0 ∧ rEdgeW w = 1 ∧ (sAsel x = 1 ∨ sBsel x = 1)
  let north := cell / 32 = 0 ∧ rEdgeN w = 1 ∧ (sAsel x = 2 ∨ sBsel x = 2)
  (if (0x10 ≤ sOp x ∧ sOp x ≤ 0x14) ∨ west then [sBindA x] else []) ++ (if north then [sBindB x] else [])

/-- The bindings through which a word reaches arrays of a block format: those with a DPA begin on a 64-byte boundary
(R52). -/
def blockBinds (t : Tile) (w : BitVec 512) (cell : Nat) : Bool :=
  !(isBlock (rFmtA w % 32) || isBlock (rFmtB w % 32) || isBlock (rFmtOut w % 32))
  || ((stepSlots w).flatMap (stepNames w cell)).all fun b => decide (bKind (t.bind b) < 2) || bDpa (t.bind b) % 64 == 0

/-- A recipe word of any cell, all its step slots included; only trip depends on ctx_en (R41, R76, R99, R114, R154). -/
def recipeOk (t : Tile) (cell : Nat) (w : BitVec 512) : Bool :=
  hdr w 384 38 == 0 && rEdgeW w != 3 && rEdgeN w != 3 && (rCtxEn w == 0 || rTrip w != 0)
  && wordFmts w && (stepSlots w).all (stepOk t w cell) && blockBinds t w cell

/-- A tile. -/
def tileOk (t : Tile) : Bool :=
  decide (t.duration ≤ 54000) && t.words.all (fun c => recipeOk t c.1 c.2) && t.binds.all bindOk

/-! ### Trowel sections (R217, R218) -/

/-- A micro-program word of a section; 0 where the section gives none. -/
def progAt (g : ItinImage) (v stack trowel i : Nat) : Nat :=
  match g.programs.find? fun w => w.variant == v && w.stack == stack && w.trowel == trowel && w.index == i with
  | some w => w.word.toNat
  | none => 0

/-- A program followed from an index with its open loops' ends, innermost first: none where it breaks R218, else whether
it holds a COMMIT to the reducer. A loop whose count is zero goes on after its end. -/
def walkProg (f : Nat → Nat) : Nat → Nat → List Nat → Option Bool
  | 0, _, _ => none
  | n + 1, i, loops =>
    let w := f i
    let open_ := loops.filter fun e => decide (i ≤ e)
    if 255 < i ∨ uReserved w = true then none
    else if uXop w = 6 then (match open_ with | [] => some false | e :: es => walkProg f n (e + 1) es)
    else if uXop w = 5 then
      if i = 255 ∨ uXop (f (i + 1)) ≠ 6 then none else (walkProg f n (i + 1) open_).map fun b => b || uX w 17 1 == 1
    else if uXop w = 0x0A then
      let e := uX w 0 8
      if e ≤ i ∨ 2 ≤ open_.length ∨ (match open_ with | o :: _ => decide (o < e) | [] => false) = true then none
      else walkProg f n (i + 1) (e :: open_)
    else walkProg f n (i + 1) open_

/-- A launch of a trowel section; `wfmt` is not the item's own where the plan gives it. -/
def trwLaunchOk (g : ItinImage) (v wfmt : Nat) (l : TrwLaunch) : Bool :=
  launchOk l.span wfmt l.ofmt l.qfmt
  && (match walkProg (progAt g v l.stack l.trowel) 1024 l.entry [] with
      | none => false
      | some toSlot => !toSlot || reducerSlotOk (bitsOf l.ofmt 0 5))

/-- What the load check knows of a command's pointers, which begin as its parameters, after an instruction: a SETP gives one the value of a parameter, an ADDP
outside every loop moves it, anything else that moves it leaves it unknown. -/
def knownPtrs (ps : List W16) (looped : Bool) (w : Nat) (ptr : List (Option Nat)) : List (Option Nat) :=
  let moved := (match uXop w with | 1 => [uX w 13 4] | 2 => [uX w 13 4] | 3 => [uX w 12 4] | 4 => [uX w 10 4] | _ => [])
    ++ (if uWop w = 1 then [uScale w] else []) ++ (if uCop w ≠ 0 ∧ bitAt w 7 then [bitsOf w 8 4] else [])
  let p1 := if uXop w = 8 then ptr.set (uX w 14 4) (ps[uX w 10 4]?.map (·.toNat))
    else if uXop w = 9 then
      ptr.set (uX w 14 4) (if looped then none else (nth ptr (uX w 14 4) none).map fun v => addPtr v (signedOf 14 (uX w 0 14)))
    else ptr
  moved.foldl (fun p i => p.set i none) p1

/-- The reducer slot that the COMMIT which ends a program fills, where the program's parameters tell it. -/
def commitSlot (f : Nat → Nat) (ps : List W16) : Nat → Nat → List Nat → List (Option Nat) → Option Nat
  | 0, _, _, _ => none
  | n + 1, i, loops, ptr =>
    let w := f i
    let open_ := loops.filter fun e => decide (i ≤ e)
    if 255 < i ∨ uXop w = 6 then none
    else if uXop w = 5 then (if uX w 17 1 = 1 then nth ptr (uX w 12 4) none else none)
    else commitSlot f ps n (i + 1) (if uXop w = 0x0A then uX w 0 8 :: open_ else open_) (knownPtrs ps (!open_.isEmpty) w ptr)

/-- The reducer slots of a stack that an item fills, and those that it empties. -/
def itemSlots (g : ItinImage) (v k : Nat) (i : Item) : List Nat × List Nat :=
  let launch := fun (l : TrwLaunch) (planned : List Nat) =>
    let ptr := (List.range 16).map fun j => if planned.contains j then none else some (nth l.params j 0).toNat
    if l.stack = k then (commitSlot (progAt g v l.stack l.trowel) l.params 256 l.entry [] ptr).toList else []
  match i.work with
  | .trowel l => (launch l [], [])
  | .attn l a => (launch l ([a.row0, a.row1, a.beat0, a.beat1, a.count0, a.count1, a.total].filterMap id), [])
  | .job j w => if j = k then (rOutSlots w.toNat, rInSlots w.toNat) else ([], [])
  | _ => ([], [])

/-- Whether every reducer slot of a stack is EMPTY at a bell: what an item planned before it fills, a job planned from there
on and before the bell empties (R315). -/
def slotsEmptyAt (g : ItinImage) (v k bell : Nat) : Bool :=
  let is := (itemsOf g v).filter fun i => decide (i.start < 64 * bell)
  is.all fun i => (itemSlots g v k i).1.all fun e =>
    is.any fun j => decide (i.start ≤ j.start) && (itemSlots g v k j).2.contains e

/-! ### Slot tables (R359) -/

/-- Whether a source route leads from a member to another within a number of hops. -/
def routeLeads (c : Caravan) (dest : Nat) : Nat → Nat → Nat → Bool
  | 0, _, _ => false
  | n + 1, m, route =>
    match linkPeer c m (route % 16) with
    | none => false
    | some x => x.1 == dest || routeLeads c dest n x.1 (route / 16)

/-- The flits of a slot's packets, of at most 4,096 bytes each. -/
def slotFlits (e : BitVec 384) : Nat :=
  let n := slotF e 34 0 32
  n / 4096 * ceilDiv (24 + 4096 + 4) 120 + (if n % 4096 = 0 then 0 else ceilDiv (24 + n % 4096 + 4) 120)

/-- When a slot begins and when its last flit has left, in 1/224 ns at stretch 16/16 (a flit takes 17/28 ns). -/
def slotSpan (e : BitVec 384) : Nat × Nat := (slotF e 0 0 54 * 3500, slotF e 0 0 54 * 3500 + slotFlits e * 136)

/-- The ports that a slot's packets leave by. -/
def slotPorts (s : State) (e : BitVec 384) : List Nat := if slotF e 8 0 8 = 8 then childPorts s else [slotF e 16 0 4]

/-- Whether two slots of this member never use a port at one time. -/
def slotsApart (s : State) (a b : BitVec 384) : Bool :=
  let x := slotSpan a
  let y := slotSpan b
  decide (x.2 ≤ y.1) || decide (y.2 ≤ x.1) || !(slotPorts s a).any (slotPorts s b).contains

/-- An entry of the slot table. -/
def slotOk (s : State) (e : BitVec 384) : Bool :=
  let leads := match s.itn.caravan with
    | some c => routeLeads c (slotF e 10 0 10) 16 (memberIndex s) (slotF e 16 0 64)
    | none => false
  slotF e 0 54 10 == 0 && slotF e 39 0 8 == 0 && slotF e 44 0 32 == 0
  && decide (1 ≤ slotF e 34 0 32) && decide (slotF e 34 0 32 ≤ 16777216)
  && (slotF e 8 0 8 == 8 || (slotF e 8 0 8 == 1 && leads))

/-- Whether every pair of a list is apart. -/
def allApart (s : State) : List (BitVec 384) → Bool
  | [] => true
  | e :: es => es.all (slotsApart s e) && allApart s es

/-! ### Power profile (R36, R550) -/

/-- The sum of a phase (R36). -/
def Phase.sum (p : Phase) : Nat := p.compute + p.stks + 500
/-- The sustained and the short-term limit of a variant (R31, R32). -/
def sustained : Variant → Nat
  | .pm960 => 4400 | .pm480 => 3400
def shortTerm : Variant → Nat
  | .pm960 => 5200 | .pm480 => 4000
/-- The ceiling of the stacks' group. -/
def stackCeiling : Variant → Nat
  | .pm960 => 1900 | .pm480 => 950

/-- The end of the run by the plan, in bells: the latest planned end or release. -/
def planEnd (g : ItinImage) : Nat :=
  let ends := g.items.map (fun i => ceilDiv i.stop 64) ++ g.ways.flatten.map (·.release)
  ends.foldl Nat.max 0

/-- The phases with their ends. -/
def phaseEnds (g : ItinImage) : List (Phase × Nat) :=
  g.phases.zip ((g.phases.drop 1).map (·.start) ++ [planEnd g])

/-- The cluster domain of an array. -/
def clusterOf (arr : Nat) : Nat := arr / 96 * 12 + arr % 96 / 8

/-- The phases above the sustained limit are apart by 100,000 bells. -/
def peaksApart : List (Phase × Nat) → Bool
  | a :: b :: ps => decide (a.2 + 100000 ≤ b.1.start) && peaksApart (b :: ps)
  | _ => true

/-- The power profile of an image. -/
def profileOk (v : Variant) (g : ItinImage) : Bool :=
  let ps := phaseEnds g
  let peaks := ps.filter fun p => decide (sustained v < p.1.sum)
  (match g.phases with | p :: _ => p.start == 0 | [] => false)
  && gapsOk (2 ^ 48) (g.phases.map (·.start))
  && g.phases.all (fun p => decide (p.compute ≤ 2600) && decide (p.stks ≤ stackCeiling v) && decide (p.hub ≤ 500) && decide (p.sum ≤ shortTerm v))
  && peaks.all (fun p => decide (p.2 ≤ p.1.start + 20000)) && peaksApart peaks
  && g.items.all fun i => match i.work with
     | .tile a _ => ps.all fun p => decide (i.stop ≤ 64 * p.1.start) || decide (64 * p.2 ≤ i.start) || bitAt p.1.clusters (clusterOf a)
     | _ => true

/-! ### Hub lists (R425) -/

/-- A format of a RECODE action by itself: a listed code, elem only where the code takes it (R41, R376). -/
def recodeFmt (c : Nat) : Bool := decide (c < 64) && (fmtDecode c).isSome
/-- A hub-list action. Arguments of EMIT: lfmt, dpa, first, count, stride; of RECODE: kfmt, vfmt, first, count, block. -/
def hubOk (s : State) (code : Nat) (a : List Nat) : Bool :=
  if code = 1 then
    [1, 3, 4].contains (nth a 0 0) && nth a 1 0 % 64 == 0 && nth a 4 0 % 64 == 0
    && (match s.srv.model with | some m => decide (m.vocab * elemBits (nth a 0 0) / 8 ≤ nth a 4 0) | none => true)
  else if code = 2 then
    recodeFmt (nth a 0 0) && recodeFmt (nth a 1 0) &&
    (match s.srv.model with
     | some m => fitsArea m.d (headBytes m.d m.kfmt) (nth a 0 0) && fitsArea m.d (headBytes m.d m.vfmt) (nth a 1 0)
     | none => true)
  else false

/-! ### The whole image (R302) -/

/-- Whether an AttnPlan names parameters that exist, and a value pass the one that counts the valid tokens (R406). -/
def attnOk (a : AttnPlan) : Bool :=
  [a.row0, a.row1, a.beat0, a.beat1, a.count0, a.count1, a.total].all (fun p => match p with | some i => decide (i < 16) | none => true)
  && (!a.values || a.total.isSome)

/-- The weight format against which an attention item is checked: what the loaded model records; without a model BF16 for a
value pass, since values are never integers, and for a score pass a format of its queries' class, which a model's keys have
(R79, R373). -/
def attnFmt (s : State) (a : AttnPlan) (qfmt : Nat) : Nat :=
  match s.srv.model with
  | some m => if a.values then m.vfmt else m.kfmt
  | none => if !a.values && isInt (bitsOf qfmt 0 5) then 0x0B else 3

/-- Whether a trowel of a section exists on this module (R5). -/
def hasTrowel (s : State) (l : TrwLaunch) : Bool := trowelExists s ⟨l.stack, l.trowel⟩

/-- What an item must meet by itself. -/
def workOk (s : State) (g : ItinImage) (i : Item) : Bool :=
  match i.work with
  | .tile a t => decide (a < 192) && tileOk t
  | .trowel l => hasTrowel s l && trwLaunchOk g i.variant l.wfmt l
  | .attn l a => hasTrowel s l && attnOk a && trwLaunchOk g i.variant (attnFmt s a l.qfmt) l
  | .job k w => decide (k < stackCount s) && jobOk w.toNat
  | .sched e => slotOk s e
  | .osend e slot => slotOk s e && slotF e 10 0 10 == mergeMember s slot
  | .recv k _ _ => decide (k < memberCount s)
  | .orecv k _ _ _ => decide (k < memberCount s)
  | .merge _ d ps out => ps.length == memberCount s && ps.all (fun a => memRange s a (4 * d + 8)) && memRange s out (4 * d)
  | .dma q _ => decide (q < 16)
  | .hub c a => hubOk s c a

/-- The slots of a variant. -/
def slotsOf (is : List Item) : List (BitVec 384) := is.filterMap slotOf

/-- Whether the reducer slots of every stack are EMPTY at the waystations of a variant that a run can stop at (R315). -/
def stopsEmpty (s : State) (g : ItinImage) (v : Nat) : Bool :=
  ((nth g.ways v []).filter (·.canStop)).all fun w => (List.range (stackCount s)).all fun k => slotsEmptyAt g v k w.release

/-- Whether an image passes every check of a load command. -/
def imageOk (s : State) (g : ItinImage) : Bool :=
  let ord := match s.variant with | .pm960 => 0x0960 | .pm480 => 0x0480
  g.magic == 0x4E54495A && g.version == 1 && g.clean && g.ordering == ord && g.groups == s.mem.p
  && g.members == memberCount s && g.dmax == dMax s
  && (match s.itn.caravan with | some c => g.mapHash == c.mapHash | none => true)
  && decide (1 ≤ g.variants) && decide (g.variants ≤ 256)
  && (!(bitAt g.flags 1 || decide (1 < g.members)) || decide (g.dmax + 1 ≤ g.mbells))
  && (List.range g.variants).all (fun v => waysOk g v (nth g.ways v []) && stopsEmpty s g v && depsOk (itemsOf g v) && allApart s (slotsOf (itemsOf g v)))
  && (g.slot == 0 || slotOk s g.slot) && g.items.all (workOk s g) && g.programs.all (fun w => !uReserved w.word.toNat && trowelExists s ⟨w.stack, w.trowel⟩) && profileOk s.variant g

/-! ### ITIN_LOAD, ITIN_UNLOAD, ITIN_RUN -/

/-- The bytes of an image in host memory, or the status of one that cannot be read. -/
def hostItin (hv : HostView) (a : Nat) : List Byte ⊕ Nat :=
  match hostImage hv a 128 64 with
  | none => .inr (hostError hv [(a, 128, 64)])
  | some h =>
    let n := fieldAt h 0x38 8
    if n < 128 then .inr stBadParam
    else match hostImage hv a n 64 with | some b => .inl b | none => .inr (hostError hv [(a, n, 64)])

/-- A range of device memory read by a function; none where its VF's tables or the memory's end refuse it. -/
def dpaBytes (s : State) (fn a n : Nat) : Option (List PByte) × State :=
  let r := fnRange s fn a n false
  match r.1 with
  | none => (none, r.2)
  | some ps =>
    if a % 64 ≠ 0 ∨ (ps.all fun x => memRange s x.1 x.2) = false then (none, r.2)
    else let d := readPieces r.2 4 .stream ps; (some d.1, d.2)

/-- The bytes of an image in device memory; a poisoned one gives MEM_UNCORRECTABLE (R617). -/
def dpaItin (s : State) (fn a : Nat) : (List Byte ⊕ Nat) × State :=
  let h := dpaBytes s fn a 128
  match h.1 with
  | none => (.inr stBadParam, h.2)
  | some b =>
    let n := fieldAt (b.map (·.b)) 0x38 8
    if b.any (·.poison) then (.inr stMemUe, h.2)
    else if n < 128 ∨ memTop (stackCount s) < n then (.inr stBadParam, h.2)
    else
      let d := dpaBytes h.2 fn a n
      match d.1 with
      | none => (.inr stBadParam, d.2)
      | some b => (if b.any (·.poison) then .inr stMemUe else .inl (b.map (·.b)), d.2)

/-- Whether R472 refuses a serving image now. -/
def servingRefused (s : State) : Bool :=
  s.cmd.work == .configured || servingLoaded s || (s.cmd.work == .caravanLocked && s.srv.model.isNone)

/-- The descriptors of an image. -/
def imageDescs (g : ItinImage) : List (BitVec 512) := g.items.filterMap fun i => match i.work with | .dma _ d => some d | _ => none

/-- The engine state of a loaded image. -/
def loadedItn (old : Itn) (g : ItinImage) (r : Area) (hash : List Byte) (key : Nat) : Itn :=
  { keepCaravan old Itn.reset with run := .loaded, image := some g, base := r.base, len := r.len, hash := hash, ctx := key }

/-- An image placed in its reserved range and loaded for a context: by the engine itself where it is free or the context
holds it, else with what the engine keeps for the context. -/
def placeItin (s : State) (key : Nat) (g : ItinImage) (b : List Byte) (r : Area) : State :=
  let s1 := writeMem s 4 225 .stream (r.base * 65536) (clean b)
  let mine := match s1.cmd.holder with | none => true | some h => h == key
  if mine then
    let s2 := takeEngine s1 key
    { s2 with itn := loadedItn s2.itn g r (sha256 b) key, arrays := faultsOnly s2.arrays }
  else { s1 with engines := mset s1.engines key { itn := loadedItn Itn.reset g r (sha256 b) key, arrays := [], swapped := [] } }

/-- ITIN_LOAD once its image has been read (R302, R303, R472); c0 counts the variants. -/
def loadItin (p : Packet) (s : State) (fn : Nat) (img : ItinImage) (b : List Byte) : Verdict :=
  let key := ctxKey fn (pktCtx p)
  let g := withBytes img b
  if bitAt g.flags 1 ∧ servingRefused s = true then no s p stWrongState
  else if (imageOf s key).isSome then no s p stBusy
  else if !imageOk s g then no s p stBadParam
  else
    let c := listOk s fn true (imageDescs g)
    let s := c.2
    if !c.1 then no s p stBadParam
    else match reserve s (256 + key) (ceilDiv g.length 65536) with
    | none => no s p stBusy
    | some s1 =>
      match areaOf s1 (256 + key) with
      | none => no s p stBusy
      | some r =>
        let s2 := placeItin s1 key g b r
        .now (if bitAt g.flags 1 && s2.cmd.work == .loaded then setWork s2 .serving else s2) (doneC0 p g.variants)

/-- ITIN_LOAD (R302): the image is in host memory, or in device memory. -/
def execItinLoad (p : Packet) (hv : HostView) (img : ItinImage) (s : State) : Host.Outcome State Fault Refusal :=
  command 0x0301 p (.itinLoad p hv img) (fun s fn =>
    if prm p 8 0 1 = 0 then
      match hostItin hv (prm p 0 0 64) with
      | .inr st => no s p st
      | .inl b => loadItin p s fn img b
    else
      let d := dpaItin s fn (prm p 0 0 64)
      match d.1 with
      | .inr st => no d.2 p st
      | .inl b => loadItin p d.2 fn img b) s

/-- ITIN_UNLOAD: refused with BUSY while the itinerary runs. A module that loses its serving itinerary goes to its home
state. -/
def execItinUnload (p : Packet) (hv : HostView) (s : State) : Host.Outcome State Fault Refusal :=
  command 0x0302 p (.itinUnload p hv) (fun s fn =>
    let key := ctxKey fn (pktCtx p)
    if (imageOf s key).isNone then no s p stWrongState
    else if (runOf s key).active then no s p stBusy
    else .now (unloadHome s key) (done p)) s

/-- The 64-byte start record (R310). -/
def startRecord (seq runs : Nat) : List Byte := leBytes 4 seq ++ leBytes 8 runs ++ List.replicate 52 0

/-- ITIN_RUN (R310, R472, R619): waystation 0 is released M bells after the start record is sent, or at the next bell by
a module that runs alone. -/
def execItinRun (p : Packet) (hv : HostView) (s : State) : Host.Outcome State Fault Refusal :=
  command 0x0303 p (.itinRun p hv) (fun s fn =>
    let key := ctxKey fn (pktCtx p)
    match imageOf s key, quarantined s with
    | none, _ => no s p stWrongState
    | some g, q =>
      if bitAt g.flags 1 then no s p stBadParam
      else if (runOf s key).active then no s p stBusy
      else match q with
        | some x => .now s (rejectAt p stBusy x 0xFFFFFFFF)
        | none =>
          let s1 := takeEngine s key
          let seq := prm p 0 0 32
          if g.members ≤ 1 then .later (beginRun s1 seq 0 (s.bell + 1)) [] none
          else
            let s2 := beginRun s1 seq 0 (s.bell + g.mbells)
            .later (broadcast s2 (startRecord seq s2.itn.runs)) [] none) s

end Sys2Proof.Machine
end

