-- ==== Sys2Proof/Machine/Caravan.lean ====
section
/-!
DEFINITION. Caravans and the fabric commands (chapters 8, 9 and 12): CARAVAN_FORM and CARAVAN_DISBAND, and the four fabric
commands.
-/
namespace Sys2Proof.Machine

/-! ### The caravan map (Table 9.8, R305) -/

/-- A caravan map: member records (fabric ID, parent, ordering code) and links. -/
structure CMap where
  members : List (Nat × Nat × Nat)
  links : List (Nat × Nat × Nat × Nat)
  deriving DecidableEq, Repr

/-- A map from its bytes; none where its length, counts or member numbers do not fit. -/
def readMap (b : List Byte) : Option CMap :=
  let n := fieldAt b 0 2
  let k := fieldAt b 2 2
  let base := 4 + 6 * n
  let ms := (List.range n).map fun i => (fieldAt b (4 + 6 * i) 2, fieldAt b (6 + 6 * i) 2, fieldAt b (8 + 6 * i) 2)
  let ls := (List.range k).map fun i => let o := base + 6 * i
    (fieldAt b o 2, fieldAt b (o + 2) 1, fieldAt b (o + 3) 2, fieldAt b (o + 5) 1)
  if n = 0 ∨ 1024 < n ∨ b.length ≠ base + 6 * k ∨ (ls.any fun l => decide (n ≤ l.1) || decide (n ≤ l.2.2.1) || decide (l.2.2.1 ≤ l.1)
      || decide (16 ≤ l.2.1) || decide (16 ≤ l.2.2.2)) = true ∨ (ms.any fun m => decide (1024 ≤ m.1)) = true then none
  else some ⟨ms, ls⟩

/-- The neighbours of a member. -/
def CMap.near (m : CMap) (i : Nat) : List Nat :=
  m.links.filterMap fun l => if l.1 = i then some l.2.2.1 else if l.2.2.1 = i then some l.1 else none

/-- Hop distances from a member, by member, of those within `n` hops; `d` is the distance of the frontier. -/
def spread (m : CMap) : Nat → Nat → List Nat → List (Nat × Nat) → List (Nat × Nat)
  | 0, _, _, seen => seen
  | n + 1, d, front, seen =>
    let next := ((front.flatMap m.near).eraseDups).filter fun i => (mget seen i).isNone
    spread m n (d + 1) next (next.foldl (fun t i => mset t i (d + 1)) seen)

/-- Distances from a member, within 16 hops. -/
def CMap.dists (m : CMap) (i : Nat) : List (Nat × Nat) := spread m 16 0 [i] [(i, 0)]

/-- Whether every member is within 16 hops of every other (R305). -/
def CMap.compact (m : CMap) : Bool := (List.range m.members.length).all fun i => (m.dists i).length == m.members.length

/-- A member's parent by the map. -/
def CMap.parent (m : CMap) (i : Nat) : Nat := (nth m.members i (0, 0, 0)).2.1

/-- Whether a member's parent is a neighbour one hop closer to member 0; member 0 has none. -/
def CMap.parentOk (m : CMap) (ds : List (Nat × Nat)) (i : Nat) : Bool :=
  if i = 0 then m.parent 0 == 0xFFFF
  else (m.near i).contains (m.parent i) && mgetD 17 ds i == mgetD 17 ds (m.parent i) + 1

/-- A member's own ports in the map. -/
def CMap.ports (m : CMap) (i : Nat) : List Nat :=
  m.links.filterMap fun l => if l.1 = i then some l.2.1 else if l.2.2.1 = i then some l.2.2.2 else none

/-- A member's port of the first link that the map lists between it and another. -/
def CMap.portTo (m : CMap) (i j : Nat) : Option Nat :=
  m.links.findSome? fun l => if l.1 = i ∧ l.2.2.1 = j then some l.2.1 else if l.2.2.1 = i ∧ l.1 = j then some l.2.2.2 else none

/-- The caravan as a member knows it from its map. -/
def CMap.caravan (m : CMap) (i : Nat) (hash : List Byte) : Caravan :=
  let ds := m.dists 0
  let kids := (List.range m.members.length).filter fun c => c != 0 && m.parent c == i
  { members := m.members.length, index := i, depth := mgetD 0 ds i, dmax := (ds.map (·.2)).foldl Nat.max 0, ports := m.ports i,
    parentPort := if i = 0 then none else m.portTo i (m.parent i), childPorts := kids.filterMap (m.portTo i), ids := m.members.map (·.1),
    parents := m.members.map (·.2.1), mapHash := fieldAt hash 0 16, links := m.links }

/-- The ordering code of this module (R4). -/
def orderCode (s : State) : Nat := match s.variant with | .pm960 => 0x0960 | .pm480 => 0x0480

/-- What CARAVAN_FORM refuses at a member, as the member to name (R7, R305, R477): its own records first, then another
member's parent. -/
def formFails (s : State) (m : CMap) (i : Nat) : Option Nat :=
  let ds := m.dists 0
  let me := nth m.members i (0, 0, 0)
  let own := selfAssigned s && me.1 == selfId s && me.2.2 == orderCode s && m.parentOk ds i && (m.ports i).all (fun p => (portAt s p).schedOk)
    && m.compact
  if own then firstBelow m.members.length fun j => !m.parentOk ds j else some i

/-- The first member whose ordering code or model differs from member 0's, by what member 0 reads of members 1 onward
over MGMT: ordering code and descriptor hash (R7, R416). -/
def differs (s : State) (m : CMap) (ans : List (Nat × List Byte)) : Option Nat :=
  let mine := match s.srv.model with | some x => x.hash | none => []
  firstBelow m.members.length fun j => j != 0 && ((nth m.members j (0, 0, 0)).2.2 != orderCode s || nth ans (j - 1) (0, []) != (orderCode s, mine))

/-- The registers and tree roles of a caravan. -/
def enterCaravan (s : State) (c : Caravan) : State :=
  let s1 := setReg (setReg s Reg.FAB_CARAVAN_0 (c.mapHash % 2 ^ 64)) Reg.FAB_CARAVAN_1 (c.mapHash / 2 ^ 64)
  let s2 := match c.parentPort with | some n => setTree s1 n 1 | none => s1
  let s3 := c.childPorts.foldl (fun s n => setTree s n 2) s2
  { s3 with itn := { s3.itn with caravan := some c } }

/-- CARAVAN_FORM (R477): the map is checked, its hash and tree roles are set, and the command waits for caravan frames.
`ans` is what member 0 reads of the other members, in order. -/
def execCaravanForm (p : Packet) (hv : HostView) (ans : List (Nat × List Byte)) (s : State) : Host.Outcome State Fault Refusal :=
  command 0x0304 p (.caravanForm p hv ans) (fun s fn =>
    let i := prm p 0 0 10
    let n := prm p 4 0 32
    if s.cmd.role != .none then no s p stWrongState
    else match hostImage hv (prm p 8 0 64) n 4 with
    | none => no s p (hostError hv [(prm p 8 0 64, n, 4)])
    | some b =>
      match readMap b with
      | none => .now s (rejectAt p stBadParam i 0xFFFFFFFF)
      | some m =>
        if m.members.length ≤ i then .now s (rejectAt p stBadParam i 0xFFFFFFFF)
        else match formFails s m i, if i = 0 then differs s m ans else none with
        | some j, _ => .now s (rejectAt p stBadParam j 0xFFFFFFFF)
        | none, some j => .now s (rejectAt p stBadParam j 0xFFFFFFFF)
        | none, none =>
          let c := m.caravan i (sha256 b)
          let s1 := enterCaravan s c
          if m.members.length = 1 then .now (joinCaravan s1 c) (done p) else .later s1 [] none) s

/-- The member that CARAVAN_FORM_TIMEOUT names: the parent, or at member 0 the first child that has sent no frame. -/
def formMissing (c : Caravan) (seen : List Nat) : Nat :=
  if c.index ≠ 0 then nth c.parents c.index 0
  else
    let kids := (List.range c.members).filter fun j => j != 0 && nth c.parents j 0 == 0
    match (kids.zip c.childPorts).find? fun x => !seen.contains x.2 with | some x => x.1 | none => 0

/-- CARAVAN_FORM_TIMEOUT: no caravan frames within 1 s. The member's state is as it was. -/
def execCaravanFormTimeout (s : State) : Host.Outcome State Fault Refusal :=
  match forming s, s.itn.caravan with
  | some c, some v => .next (completeProg (leaveCaravan s) c (rejectAt c.pkt stBadParam (formMissing v c.args) 0xFFFFFFFF))
  | _, _ => .next s

/-- Whether any run is in progress. -/
def anyRun (s : State) : Bool := runActive s || s.engines.any fun e => e.2.itn.run.active

/-- CARAVAN_DISBAND: the module leaves its caravan; a locked member goes to its home state (R468). -/
def execCaravanDisband (p : Packet) (hv : HostView) (s : State) : Host.Outcome State Fault Refusal :=
  command 0x0305 p (.caravanDisband p hv) (fun s fn =>
    if s.cmd.role == .none then no s p stWrongState
    else if anyRun s then no s p stBusy
    else
      let s1 := leaveCaravan s
      .now (if s.cmd.work = .caravanLocked then setWork s1 (homeState s1) else s1) (done p)) s

/-! ### The fabric commands (§9.3, Table 12.4) -/

/-- Whether this module's own host or firmware holds its claim. -/
def ownsClaim (s : State) : Bool := regBit s Reg.FAB_MANAGER 11 && regField s Reg.FAB_MANAGER 0 10 == selfId s

/-- A census's directed packet: route, kind, payload. It follows its route; what its destination field holds is open. -/
def sendCensus (s : State) (x : Nat × Nat × List Byte × Nat) : State :=
  let d := freeVal s
  let n := x.1 % 16
  if (portAt s n).state < 6 then d.2
  else sendOn d.2 n 4 (mkHeader d.1 x.2.1 (selfId s) 2 0xFFFF 0 x.1 0 0 x.2.2.1.length ++ x.2.2.1) []

/-- FABRIC_MANAGE (R342 to R345): the firmware claims its own module and runs the census. What it finds and decides is the
operand: `own`, the writes to this module as FAB_ offset and value; `sent`, its directed packets in order as source route,
kind, payload and the status answered. c0 counts the modules claimed. -/
def execFabricManage (p : Packet) (hv : HostView) (own : List (Nat × Nat)) (sent : List (Nat × Nat × List Byte × Nat)) (s : State) :
    Host.Outcome State Fault Refusal :=
  command 0x0601 p (.fabricManage p hv own sent) (fun s fn =>
    let epoch := prm p 0 0 32
    let man := reg s Reg.FAB_MANAGER
    let ok := !bitAt man 11 || decide (bitsOf man 32 32 < epoch) || (epoch == bitsOf man 32 32 && decide (serialNumber s < s.fab.claimSerial))
    if !ok then no s p stWrongState
    else
      let s1 := setReg s Reg.FAB_MANAGER (epoch * 2 ^ 32 + 2 ^ 11 + selfId s)
      let s2 := { s1 with fab := { s1.fab with claimSerial := serialNumber s } }
      let s3 := sent.foldl sendCensus s2
      let s4 := own.foldl (fun s x => if mgmtWritable x.1 then mgmtPut s x.1 x.2 else s) s3
      let s5 := setField s4 Reg.FAB_MANAGER 0 10 (selfId s4)
      .now s5 (doneC0 p (1 + (sent.filter fun x => x.2.1 = 0x15 ∧ x.2.2.2 = 0).length))) s

/-- FABRIC_RELEASE: the claim that this module's host or firmware holds is released. -/
def execFabricRelease (p : Packet) (hv : HostView) (s : State) : Host.Outcome State Fault Refusal :=
  command 0x0602 p (.fabricRelease p hv) (fun s fn =>
    if !ownsClaim s then no s p stWrongState
    else .now (setField s Reg.FAB_MANAGER 11 1 0) (done p)) s

/-- FABRIC_WRITE: a local write of a field named in R343. -/
def execFabricWrite (p : Packet) (hv : HostView) (s : State) : Host.Outcome State Fault Refusal :=
  command 0x0603 p (.fabricWrite p hv) (fun s fn =>
    if mgmtWritable (prm p 0 0 32) then .now (mgmtPut s (prm p 0 0 32) (prm p 8 0 64)) (done p) else no s p stBadParam) s

/-- FABRIC_MGMT: one MGMT packet is sent; the command waits for the response, where the kind has one. A MGMT_READ takes
its FAB_ offset from the payload parameter and has no payload. -/
def execFabricMgmt (p : Packet) (hv : HostView) (s : State) : Host.Outcome State Fault Refusal :=
  command 0x0604 p (.fabricMgmt p hv) (fun s fn =>
    let kind := prm p 0 0 6
    let a := prm p 16 0 64
    let n := prm p 24 0 13
    let read := kind == 0x11
    let answered := [0x11, 0x12, 0x15].contains kind
    if kind < 0x10 ∨ 0x16 < kind ∨ 4096 < n ∨ (read ∧ n = 0) then no s p stBadParam
    else match if read then some [] else hostImage hv a n 1 with
      | none => no s p (hostError hv [(a, n, 1)])
      | some pay =>
        if answered then
          withWindow s p fn 4096 fun s1 off =>
            let q := sendReq s1 (prm p 2 0 10) kind 2 (prm p 8 0 64) (if read then a else 0) 0 n pay 0
            .later q.2 [q.1] (some off)
        else
          let o := originate s (mkHeader (prm p 2 0 10) kind (selfId s) 2 0xFFFF 0 (prm p 8 0 64) 0 0 n ++ pay)
          .now o.2 (doneC0 p (if o.1 then 0 else 4))) s

/-- A FABRIC_MGMT whose response has come completes with its payload and status. -/
def finishMgmt (s : State) (c : InProg) : Option State :=
  match s.fab.results.find? fun r => r.id == nth c.args 0 0 && decide (0x10 ≤ r.kind) with
  | none => none
  | some r =>
    let off := c.window.getD 0
    let s1 := fillWindow { s with fab := { s.fab with results := s.fab.results.erase r } } off (clean r.data)
    some (completeProg s1 c ((doneC0 c.pkt r.status).withWindow off))

/-- The notices that this member owes its lead are sent (R620). -/
def sendNotices (s : State) : State :=
  match s.itn.caravan with
  | none => { s with flt := { s.flt with notices := [] } }
  | some c =>
    s.flt.notices.foldl (fun s x =>
      (originate s (mkHeader (nth c.ids 0 0) 0x14 (selfId s) 2 0xFFFF 0 0 0 0 16 ++ leBytes 8 x.1 ++ leBytes 8 x.2)).2)
      { s with flt := { s.flt with notices := [] } }

end Sys2Proof.Machine
end

