-- ==== Sys2Proof/Machine/Fault.lean ====
section
/-!
DEFINITION. Faults and the FAULT work state (chapter 16): its entry, what ends with it, and the fault classes that cause it.
-/
namespace Sys2Proof.Machine

/-! ### Entry (R611, R612) -/

/-- The lowest reset that clears a cause (Table 16.2): 4 DIE, 5 MODULE. -/
def faultNeed (cause detail : Nat) : Nat := if cause ≤ 2 ∨ (cause = 8 ∧ detail ≠ 276) then 4 else 5

/-- LEAVE on every UP or DEGRADED port, and every port DOWN (R368). -/
def leavePorts (s : State) : State :=
  loopN 16 s fun n s => if portUp s n then portDown (sendLeave s n) n false else s

/-- MOD_ALERT_N asserted anew (R660). -/
def assertAlert (s : State) : State := { s with pwr := { s.pwr with alert := true, acked := false } }

/-- Whether the step in progress is not yet admitted: it has no run. -/
def stepWaits (s : State) : Bool := match s.srv.core.run with | some r => !r.admitted | none => false

/-- The reply that a command in progress gets on entry to FAULT: MISSED_WAYSTATION for one that owns a run, else
DONE_POISONED with its count of items. -/
def endProg (s : State) (c : InProg) : State :=
  if c.op = 0x0303 ∨ (c.op = 0x0401 ∧ stepWaits s = false) then completeProg (dropWork s c) c (reject c.pkt stMissed) else abortProg s c stPoisoned

/-- A command in progress ends with no reply. -/
def dropProg (s : State) (c : InProg) : State :=
  let s1 := dropWork s c
  { s1 with cmd := { s1.cmd with inProg := s1.cmd.inProg.erase c } }

/-- The runs that a fault ends: the engine's, and those that other contexts hold stopped. -/
def endRuns (s : State) : State :=
  let s1 := if runActive s then endRun s true else s
  let stop := fun (e : Engine) => if e.itn.run.active then { e with itn := { e.itn with run := .ended } } else e
  { s1 with engines := s1.engines.map fun kv => (kv.1, stop kv.2) }

/-- What is in progress ends (R612): with replies while the quartermaster runs, else without. -/
def endAll (s : State) (replies : Bool) : State :=
  let s1 := if replies then let s1 := endRuns s; s1.cmd.inProg.foldl endProg s1 else endRuns (s.cmd.inProg.foldl dropProg s)
  if stepWaits s1 then modCore s1 fun c => { c with run := none, plans := [] } else s1

/-- The instance of a FAULT_ENTRY alarm and a FAULT_ENTERED event. -/
def faultInst (cause detail : Nat) : Nat := cause + detail % 2 ^ 24 * 2 ^ 8

/-- The record of a cause beside one already recorded: the lower cause code, the higher of the two resets (Table 16.6). -/
def mergeFault (old : Option FaultRec) (new : FaultRec) : FaultRec :=
  match old with
  | none => new
  | some f => if new.cause < f.cause then { new with need := max f.need new.need } else { f with need := max f.need new.need }

/-- The abort code 0b11 of a caravan member whose hub runs (R332): cause 3 for a trip, else 2. -/
def raiseAbort (s : State) (f : FaultRec) : State :=
  if s.itn.caravan.isSome && !f.stopsHub then
    { s with itn := { s.itn with cause := if f.cause = 8 then 3 else 2, causeWay := s.itn.way } }
  else s

/-- Entry to the FAULT work state on a cause of Table 16.2. A cause met in FAULT is merged into the record. -/
def enterFault (s : State) (cause detail : Nat) : State :=
  let f : FaultRec := ⟨cause, detail, faultNeed cause detail⟩
  let rec_ := mergeFault s.flt.fault f
  if s.flt.fault.isSome then assertAlert { s with flt := { s.flt with fault := some rec_ } }
  else
    let s1 := leavePorts (assertAlert s)
    let s2 := raiseAlarm s1 0x02 (faultInst cause detail)
    let s3 := setWork (raiseEvent s2 0x00E0 (faultInst cause detail)) .fault
    let s4 := raiseAbort (endAll s3 (!f.stopsHub && hubRuns s)) f
    { s4 with flt := { s4.flt with fault := some rec_ } }

/-! ### The causes -/

/-- QM_WATCHDOG: a quartermaster core goes 100 ms without service. -/
def execQmWatchdog (core : Nat) (s : State) : Host.Outcome State Fault Refusal := .next (enterFault s 5 (core % 8))

/-- ENGINE_WATCHDOG: a hub engine, by its issuer index, exceeds its limit. -/
def execEngineWatchdog (issuer : Nat) (s : State) : Host.Outcome State Fault Refusal := .next (enterFault s 6 (issuer % 256))

/-- DIE_FAULT: a compute die loses its control state or its reference distribution, or a bridge direction fails to
retrain within 1 ms. -/
def execDieFault (bridge : Bool) (n : Nat) (s : State) : Host.Outcome State Fault Refusal :=
  .next (enterFault s (if bridge then 2 else 1) (n % 2))

/-- HUB_SRAM_UE: an uncorrectable hub SRAM error at a core or engine. -/
def execHubSramUe (index : Nat) (s : State) : Host.Outcome State Fault Refusal := .next (enterFault s 4 (index % 256))

/-! ### Hub state (R617) -/

/-- Whether a DPA lies in the ranges that hold the ledger, the prefix index, slot records, token windows, adapter and
grammar tables. -/
def inTables (s : State) (dpa : Nat) : Bool :=
  s.srv.areas.any fun a => [0, 1, 3].contains a.user && decide (a.base ≤ dpa / 65536) && decide (dpa / 65536 < a.base + a.len)

/-- Poison that a hub engine has just read from its own tables is a fault of cause HUB_STATE. -/
def hubPoison (old new : State) : State :=
  match new.outbox with
  | .readData i a v :: _ =>
    if old.outbox.length < new.outbox.length ∧ 225 ≤ i ∧ i ≤ 246 ∧ inTables new a = true ∧ (v.any (·.poison)) = true then
      enterFault new 3 (a / 65536)
    else new
  | _ => new

/-- SKIM_ACCESS. -/
def execSkimAccess (issuer : Nat) (write : Bool) (addr : Nat) (value : W64) (poison : Bool) (s : State) (slot : Option Nat := none) :
    Host.Outcome State Fault Refusal := andThen (skimAccess issuer slot write addr value poison s) (hubPoison s)
/-- SKIM_CHANNEL_SERVICE. -/
def execSkimChannelService (stack channel : Nat) (flips : List Flip) (s : State) : Host.Outcome State Fault Refusal :=
  andThen (skimService stack channel flips s) (hubPoison s)

end Sys2Proof.Machine
end

