-- ==== Sys2Proof/Machine/Depot.lean ====
section
/-!
DEFINITION. The depot (chapter 15): its four operations, queue settings, draining, alarms and the incident ring, and the
ageing monitors with their forecasts.
-/
namespace Sys2Proof.Machine

/-- A register write that is ignored in whole, setting its block's bad_write bit, where a reserved field is nonzero or
the written fields are out of range (R578, R607, R671). -/
def strictWrite (s : State) (a v err bit : Nat) (ok : Bool) : State :=
  match regAt a with
  | none => s
  | some d => if d.reservedSet v || !ok then setRegBit s err bit else setReg s a (d.afterWrite (reg s a) v)

/-! ### The operations (Table 15.1) -/

/-- An uncorrectable link error puts the depot, and the module, in FAULT (R582). -/
def faultDepot (s : State) : State :=
  if s.dep.fault then s
  else enterFault (setRegBit { s with dep := { s.dep with fault := true } } Reg.DEP_ERR 2) 7 0

/-- A cell popped with the event of a parity failure (R581). -/
def popCell (s : State) (q : Nat) : (Nat × Bool × Bool) × State :=
  if s.dep.fault then ((0, false, false), s)
  else
    let bad := match (queueAt s q).cells with | c :: _ => c.parity != cellParity c.word c.valid c.poison | [] => false
    let r := depPop s q
    (r.1, if bad then raiseIf r.2 Reg.DEP_CTRL 5 0x00C5 q else r.2)

/-- A trace queue after a word of a kept record: the first word of a record counts the 2^s records of which it is the
kept one (R599); a gap word counts none. -/
def traceWord (d : DQueue) (w : Nat) : DQueue :=
  if 0 < d.bodyLeft then { d with bodyLeft := d.bodyLeft - 1 }
  else if w / 2 ^ 28 % 16 = 4 then d
  else { d with bodyLeft := w % 256, generated := min (d.generated + 2 ^ bitsOf w 8 4) 0xFFFFFFFF }

/-- PUSH with its answer: 0 accepted, 1 STALE, 2 FULL. Every accepted trace word also enters the incident ring (R595). -/
def execPush (q : Nat) (w : W32) (poison : Bool) (epoch : Nat) (s : State) : Host.Outcome State Fault Refusal :=
  let q := q % 256
  let before := (queueAt s q).cells.length
  let r := depPush s q w.toNat poison epoch
  .next (match r.1 with
    | .stale => emit r.2 (.depot 1 false false)
    | .full => emit r.2 (.depot 2 false false)
    | .ok =>
      let s1 := emit r.2 (.depot 0 true false)
      if queuePolicy q = 3 then
        decimate (ringPush (setQueue s1 q (traceWord (queueAt s1 q) w.toNat)) [w.toNat]) q before
      else s1)

/-- POP: `upset` is whether the head cell has been corrupted since it was written, `link` the check of its link. -/
def execPop (q : Nat) (upset : Bool) (link : Ecc) (s : State) : Host.Outcome State Fault Refusal :=
  let q := q % 256
  if link = .uncorrectable then .next (faultDepot s)
  else
    let d := queueAt s q
    let s0 := if upset then setQueue s q { d with cells := d.cells.modifyHead fun c => { c with parity := !c.parity } } else s
    let r := popCell s0 q
    let s1 := emit r.2 (.depot r.1.1 r.1.2.1 r.1.2.2)
    .next (if queuePolicy q = 3 then decimate s1 q d.cells.length else s1)

/-- ROOM: limit − depth in the low half of the answer, the flush epoch in the high half. -/
def execRoom (q : Nat) (s : State) : Host.Outcome State Fault Refusal :=
  let d := queueAt s (q % 256)
  .next (emit s (.depot (d.epoch * 2 ^ 16 + (d.limit - d.cells.length)) true false))

/-! ### Queue settings (R586, R589, R607) -/

/-- Whether host software may set a queue's limit. -/
def limitSettable (q : Nat) : Bool := (decide (0x10 ≤ q) && decide (q ≤ 0x17)) || (decide (0x20 ≤ q) && decide (q ≤ 0x27)) || q == 0x30 || q == 0x31

/-- The sum of every queue's limit. -/
def limitSum (s : State) : Nat := (List.range 256).foldl (fun n q => n + (queueAt s q).limit) 0

/-- Whether a limit may be set: from 16 to 59,392, with the sum of all limits at most 65,536. -/
def limitOk (s : State) (q n : Nat) : Bool :=
  limitSettable q && decide (16 ≤ n) && decide (n ≤ 59392) && decide (limitSum s - (queueAt s q).limit + n ≤ 65536)

/-- A queue flushed, with its event. -/
def flushQueue (s : State) (q : Nat) : State :=
  let before := (queueAt s q).cells.length
  let s1 := raiseIf (depFlush s q) Reg.DEP_CTRL 3 0x00C3 q
  if queuePolicy q = 3 then decimate s1 q before else s1

/-- A write of DEP_QCFG_n. In queues 0x00 to 0x0F and 0x32 to 0xFF the limit cannot be written and a flush is refused. -/
def writeQcfg (s : State) (v : Nat) : State :=
  let q := regField s Reg.DEP_QSEL 0 8
  let n := bitsOf v 0 16
  let bad := setRegBit s Reg.DEP_ERR 3
  if v / 2 ^ 32 ≠ 0 ∨ bitsOf v 28 3 ≠ 0 ∨ bitsOf v 16 8 ≠ 0 then bad
  else if q < 0x10 ∨ 0x31 < q then (if bitAt v 31 then bad else s)
  else if !limitOk s q n then bad
  else
    let s1 := setQueue s q { queueAt s q with limit := n }
    if bitAt v 31 then flushQueue s1 q else s1

/-- DEP_QCFG_LIMIT: a write of DEP_QCFG_n without the flush bit. -/
def execDepQcfgLimit (v : W64) (s : State) : Host.Outcome State Fault Refusal := .next (writeQcfg s (v.toNat &&& 0xFFFFFFFF7FFFFFFF))
/-- FLUSH: a write of DEP_QCFG_n with the flush bit. -/
def execFlush (v : W64) (s : State) : Host.Outcome State Fault Refusal := .next (writeQcfg s (v.toNat ||| 0x80000000))

/-- Every drop count, generated count and high-water mark zeroed. -/
def clearDep (s : State) : State :=
  let z := fun (kv : Nat × DQueue) =>
    let d := { kv.2 with dropWords := 0, dropRecords := 0, parityFails := 0, generated := 0, hwm := 0 }
    if d = queue0 kv.1 then none else some (kv.1, d)
  { s with dep := { s.dep with queues := s.dep.queues.filterMap z } }

/-- A write of DEP_CTRL. -/
def writeDepCtrl (s : State) (v : Nat) : State :=
  if v &&& 0xBF ≠ v then setRegBit s Reg.DEP_ERR 3
  else
    let s1 := plainWrite s Reg.DEP_CTRL v
    if bitAt v 7 then clearDep s1 else s1
/-- DEP_CLR_COUNTERS: a write of DEP_CTRL with clr_counters set. -/
def execDepClrCounters (v : W64) (s : State) : Host.Outcome State Fault Refusal := .next (writeDepCtrl s (v.toNat ||| 0x80))

/-! ### Draining (R588) -/

/-- The words of the whole records at the head of a queue, up to a number of words. -/
def wholeWords : Nat → Nat → List DCell → Nat
  | 0, _, _ => 0
  | fuel + 1, most, cs =>
    match cs with
    | [] => 0
    | c :: _ =>
      let w := c.word.toNat
      let n := if w / 2 ^ 28 = 4 then 1 else 1 + w % 256
      if most < n ∨ cs.length < n then 0 else n + wholeWords fuel (most - n) (cs.drop n)

/-- Words popped from a queue, as result bytes with their poison. -/
def popWords (q : Nat) : Nat → State → List PByte × State
  | 0, s => ([], s)
  | n + 1, s =>
    let r := popCell s q
    let t := popWords q n r.2
    ((leBytes 4 r.1.1).map (⟨·, r.1.2.2⟩) ++ t.1, t.2)

/-- LOG_DRAIN (R588): whole records of a queue popped into the result window; c0 counts the words. -/
def execLogDrain (p : Packet) (hv : HostView) (s : State) : Host.Outcome State Fault Refusal :=
  command 0x0702 p (.logDrain p hv) (fun s fn =>
    let q := prm p 0 0 8
    let most := prm p 4 0 32
    if 0x31 < q ∨ (8 ≤ q ∧ q ≤ 0x0F) ∨ most < 1 ∨ 65536 < most then no s p stBadParam
    else
      let cs := (queueAt s q).cells
      let n := if s.dep.fault then 0 else wholeWords cs.length most cs
      withWindow s p fn (4 * n) fun s1 off =>
        let r := popWords q n s1
        let s2 := if queuePolicy q = 3 then decimate r.2 q cs.length else r.2
        windowed s2 off (doneC0 p n) r.1) s

/-! ### Alarms and the incident ring (R593 to R597) -/

/-- The alarms that wait in their blocks' error registers enter the latch while it has room. -/
def refillLatch (s : State) : State :=
  match s.dep.latchWait with
  | [] => s
  | x :: xs =>
    if 64 ≤ s.dep.latch.length then s
    else if s.dep.latch.any (fun a => a.kind = x.kind ∧ a.inst = x.inst) then
      raiseAlarm { s with dep := { s.dep with latchWait := xs } } x.kind x.inst
    else { s with dep := { s.dep with latchWait := xs, latch := s.dep.latch ++ [x] } }

/-- The words of an alarm record. -/
def alarmWords (a : Alarm) : List Nat :=
  [recHeader 3 0x0C a.kind 0 3, a.inst % 2 ^ 32, a.bell % 2 ^ 32, a.repeats * 2 ^ 16 + a.bell / 2 ^ 32 % 2 ^ 16]

/-- ALARM_PUSH: the oldest latched alarm is pushed and copied into the fault log; a running incident ring starts to count
down. With no room the collector waits. -/
def execAlarmPush (s : State) : Host.Outcome State Fault Refusal :=
  match s.dep.latch with
  | [] => .next s
  | a :: as =>
    let d := queueAt s 0
    if s.dep.fault then .next s
    else if d.limit < d.cells.length + 4 then .next (setRegBit s Reg.DEP_ERR 0)
    else
      let ws := alarmWords a
      let s1 := setQueue s 0 (appendCells d (ws.map fun w => mkCell w false))
      let log := s1.dep.faultLog ++ [ws.map (BitVec.ofNat 32)]
      let s2 := { s1 with dep := { s1.dep with latch := as, faultLog := log.drop (log.length - 512),
                                               countdown := if s1.dep.frozen || s1.dep.countdown.isSome then s1.dep.countdown else some (4096, 65536) } }
      .next (raiseIf (refillLatch s2) Reg.DEP_CTRL 0 0x00C0 a.kind)

/-- INCIDENT_FREEZE: 4,096 trace words or 65,536 bells after an alarm, the ring freezes. -/
def execIncidentFreeze (s : State) : Host.Outcome State Fault Refusal :=
  match s.dep.countdown with
  | some (t, b) => .next (if t = 0 ∨ b = 0 then { s with dep := { s.dep with frozen := true, countdown := none } } else s)
  | none => .next s

/-! ### Ageing monitors (R603, R604) -/

/-- The instances of each monitor kind (Table 15.7). -/
def ageCount (v : Variant) (kind : Nat) : Nat :=
  match kind with
  | 1 => 24 | 2 => 160 | 3 => v.stks | 4 => 1 | 5 => 1 | 6 => 1 | _ => 0
/-- The keys of every instance, in Table 15.7 order. -/
def ageKeys (v : Variant) : List Nat := (List.range 7).flatMap fun k => (List.range (ageCount v k)).map fun i => k * 256 + i

/-- An instance with no sample and no point. -/
def AgeInst.reset : AgeInst :=
  { sum := 0, count := 0, points := [], deferred := false, central := 0xFFFF, low := 0xFFFF, high := 0xFFFF, valid := false, margin := 0,
    rate := 0, warned := false }

/-- A monitor instance. -/
def ageAt (s : State) (key : Nat) : AgeInst := mgetD AgeInst.reset s.dep.age key
/-- A monitor instance replaced. -/
def setAge (s : State) (key : Nat) (x : AgeInst) : State :=
  { s with dep := { s.dep with age := mput AgeInst.reset s.dep.age key x } }

/-- One sample of a margin, in the monitor's unit. -/
def addSample (s : State) (key : Nat) (m : Int) : State :=
  if (ageKeys s.variant).contains key then
    let x := ageAt s key
    setAge s key { x with sum := x.sum + m, count := x.count + 1 }
  else s

/-- AGEING_SAMPLE: the margins found in this minute, by kind * 256 + instance; retirement growth is read from the retired
list. -/
def execAgeingSample (ms : List (Nat × Int)) (s : State) : Host.Outcome State Fault Refusal :=
  let own := ms.filter fun x => x.1 / 256 != 2 && x.1 / 256 != 4
  let s1 := { s with dep := { s.dep with minutes := s.dep.minutes + 1 } }
  .next (addSample (own.foldl (fun s x => addSample s x.1 x.2) s1) 0x400 (8192 - (s.mem.retired.length : Int)))

/-- EYE_MARGIN_SAMPLE: the eye margins found, by lane instance. -/
def execEyeMarginSample (ms : List (Nat × Int)) (s : State) : Host.Outcome State Fault Refusal :=
  .next (ms.foldl (fun s x => addSample s (0x200 + x.1) x.2) s)

/-! ### FP64 arithmetic of the forecast (R605) -/

/-- The FP64 value of bits. -/
def d64 (v : Nat) : FVal := layDecode layFp64 v
/-- Round to FP64, to nearest even. -/
def toD64 (x : FVal) : Nat := (toLay layFp64 .rne true x).1
/-- An integer in FP64. -/
def d64OfInt (i : Int) : Nat := toD64 (.ofInt i)
def d64Add (a b : Nat) : Nat := toD64 ((d64 a).add (d64 b))
def d64Sub (a b : Nat) : Nat := toD64 ((d64 a).add (d64 b).flip)
def d64Mul (a b : Nat) : Nat := toD64 ((d64 a).mul (d64 b))
/-- FP64 division; only finite values and divisors other than zero arise here. -/
def d64Div (a b : Nat) : Nat :=
  match d64 a, d64 b with
  | .fin x m e, .fin y n f =>
    if n = 0 then toD64 (if m = 0 then .nan else .inf (x != y))
    else let r := ratOf m (e - f); (ratToLay layFp64 .rne true (x != y) r.1 (r.2 * n)).1
  | .inf x, .fin y _ _ => toD64 (.inf (x != y))
  | .fin x _ _, .inf y => toD64 (.fin (x != y) 0 0)
  | _, _ => toD64 .nan
/-- FP64 square root, correctly rounded: the integer root of the mantissa at 130 bits or more, with a sticky bit. -/
def d64Sqrt (a : Nat) : Nat :=
  match d64 a with
  | .fin neg m e =>
    if m = 0 then a
    else if neg then toD64 .nan
    else
      let k : Nat := if (e - 130) % 2 = 0 then 130 else 131
      let v := m * 2 ^ k
      let r := isqrt v
      toD64 (.fin false (2 * r + (if r * r = v then 0 else 1)) ((e - (k : Int)) / 2 - 1))
  | .inf false => a
  | _ => toD64 .nan
/-- The floor of an FP64 value that is not negative. -/
def d64Floor (a : Nat) : Nat :=
  match d64 a with
  | .fin _ m e => if 0 ≤ e then m * 2 ^ e.toNat else m / 2 ^ (-e).toNat
  | .inf _ => 65534
  | .nan => 0
/-- Nearest integer of an FP64 value, ties to even. -/
def d64Round (a : Nat) : Int := (toInt 64 .rne (d64 a)).1
/-- The FP64 value nearest 1.2816. -/
def bandFactor : Nat := (ratToLay layFp64 .rne true false 12816 10000).1
/-- A sum in order, in FP64. -/
def d64Sum (xs : List Nat) : Nat := xs.foldl d64Add 0

/-- The days to the limit at a rate. -/
def daysAt (m r : Nat) : Nat :=
  if (d64 r).lt (.fin false 0 0) then min (d64Floor (d64Div m (toD64 (d64 r).flip))) 65534 else 0xFFFF

/-- A forecast: central, low, high, margin and rate. -/
structure Forecast where
  central : Nat
  low : Nat
  high : Nat
  margin : Nat
  rate : Nat
  deriving DecidableEq, Repr

/-- The forecast from an instance's points (R605); none from fewer than 14. -/
def forecast (pts : List (Nat × Nat)) : Option Forecast :=
  let n := pts.length
  if n < 14 then none
  else
    let fn := d64OfInt n
    let xs := pts.map fun p => d64OfInt p.1
    let ys := pts.map (·.2)
    let xbar := d64Div (d64Sum xs) fn
    let ybar := d64Div (d64Sum ys) fn
    let dx := xs.map fun x => d64Sub x xbar
    let sxx := d64Sum (dx.map fun d => d64Mul d d)
    let b := d64Div (d64Sum ((dx.zip ys).map fun p => d64Mul p.1 (d64Sub p.2 ybar))) sxx
    let m := d64Add ybar (d64Mul b (d64Sub (nth xs (n - 1) 0) xbar))
    let rs := (dx.zip ys).map fun p => d64Sub (d64Sub p.2 ybar) (d64Mul b p.1)
    let ss := d64Sum (rs.map fun r => d64Mul r r)
    let se := d64Sqrt (d64Div (d64Div ss (d64OfInt (n - 2))) sxx)
    let w := d64Mul bandFactor se
    let late := !(FVal.fin false 0 0).lt (d64 m)
    some { central := if late then 0 else daysAt m b, low := if late then 0 else daysAt m (d64Sub b w),
           high := if late then 0 else daysAt m (d64Add b w), margin := m, rate := b }

/-- An instance after its daily point, and whether its central count has first fallen below the warning. -/
def AgeInst.point (x : AgeInst) (day : Nat) (written : Bool) (warn : Nat) : AgeInst × Bool :=
  if x.count = 0 then (x, false)
  else
    let mean := d64Div (d64OfInt x.sum) (d64OfInt x.count)
    let pts := x.points ++ [(day, BitVec.ofNat 64 mean)]
    let pts := pts.drop (pts.length - 90)
    let y := { x with sum := 0, count := 0, points := pts, deferred := x.deferred || !written }
    match forecast (pts.map fun p => (p.1, p.2.toNat)) with
    | none => (y, false)
    | some f =>
      let fell := decide (f.central < warn) && !x.warned
      ({ y with central := f.central, low := f.low, high := f.high, valid := true, margin := BitVec.ofNat 64 f.margin,
                rate := BitVec.ofNat 64 f.rate, warned := x.warned || fell }, fell)

/-- AGE_MARGIN.margin and AGE_RATE.rate: the nearest integers, in monitor units and in units per 1,000 days. -/
def AgeInst.marginInt (x : AgeInst) : Nat := intEncode 32 (d64Round x.margin.toNat)
def AgeInst.rateInt (x : AgeInst) : Nat := intEncode 32 (d64Round (d64Mul x.rate.toNat (d64OfInt 1000)))

/-- The daily point of one instance, its record and its warning (R604 to R606). -/
def dailyOne (s : State) (key : Nat) : State :=
  let open_ := flashOpen s
  let r := (ageAt s key).point s.dep.day open_ (regField s Reg.AGE_CTRL 16 16)
  let s1 := setAge s key r.1
  let late := (ageAt s key).count != 0 && !open_
  let s2 := if late then setRegBit s1 Reg.AGE_ERR 0 else s1
  let x := r.1
  let s3 := pushRecord s2 0x31 [recHeader 6 0x0D (key / 256) 0 6, key, x.marginInt, x.rateInt, x.central, x.low, x.high]
  if r.2 then raiseIf s3 Reg.AGE_CTRL 0 0x00C8 key else s3

/-- DAILY_POINT: after 24 h of operation the daily points are stored and every forecast recomputed. -/
def execDailyPoint (s : State) : Host.Outcome State Fault Refusal :=
  let s0 := flashFirst s
  let s1 := { s0 with dep := { s0.dep with day := s0.dep.day + 1 } }
  .next (raiseIf ((ageKeys s.variant).foldl dailyOne s1) Reg.AGE_CTRL 1 0x00C9 s1.dep.day)

/-! ### What the registers show -/

/-- The valid instance with the smallest central count. -/
def ageWorst (s : State) : Option (Nat × Nat) :=
  (s.dep.age.filter (·.2.valid)).foldl (fun (b : Option (Nat × Nat)) kv =>
    match b with
    | some x => if kv.2.central < x.2 then some (kv.1, kv.2.central) else b
    | none => some (kv.1, kv.2.central)) none

/-- The two 64-bit words of an ageing report: AGE_MARGIN and AGE_DAYS. -/
def ageMargin (x : AgeInst) : Nat :=
  (match x.points.getLast? with | some p => p.1 % 2 ^ 16 * 2 ^ 48 | none => 0) + x.points.length * 2 ^ 40 + x.marginInt
def ageDays (x : AgeInst) : Nat := x.central * 2 ^ 48 + x.low * 2 ^ 32 + x.high * 2 ^ 16 + b2n x.valid

/-- DEP_QSTATUS of a queue. -/
def depQstatus (d : DQueue) : Nat := d.epoch * 2 ^ 48 + d.hwm * 2 ^ 16 + d.cells.length

/-- What the DEP_ and AGE_ registers that mirror the depot read; none for the others. -/
def depView (s : State) (a : Nat) : Option Nat :=
  let n := regField s Reg.DEP_QSEL 0 8
  let d := queueAt s n
  let key := regField s Reg.AGE_SEL 12 4 * 256 + regField s Reg.AGE_SEL 0 8
  let x := ageAt s key
  if a = Reg.DEP_STATUS then
    some ((s.dep.queues.foldl (fun n q => n + q.2.cells.length) 0) * 2 ^ 32 + b2n s.dep.fault * 8 + b2n s.dep.frozen * 4
      + b2n s.dep.caravanAlarm * 2 + b2n (!(queueAt s 0).cells.isEmpty))
  else if a = Reg.DEP_QSTATUS then some (depQstatus d)
  else if a = Reg.DEP_QCFG then some (queuePolicy n * 2 ^ 24 + d.limit)
  else if a = Reg.DEP_QDROP then some (d.dropWords * 2 ^ 40 + d.dropRecords * 2 ^ 16 + d.parityFails)
  else if a = Reg.DEP_QTRACE then some (d.generated * 2 ^ 32 + d.s)
  else if a = Reg.AGE_MARGIN then some (ageMargin x)
  else if a = Reg.AGE_RATE then some x.rateInt
  else if a = Reg.AGE_DAYS then some (ageDays x)
  else if a = Reg.AGE_WORST then
    some (match ageWorst s with
      | some w => w.2 * 2 ^ 48 + w.1 / 256 * 2 ^ 44 + w.1 % 256 * 2 ^ 36
      | none => 0xFFFF * 2 ^ 48)
  else none

/-- A write of a DEP_ or AGE_ register (R607). -/
def writeDep (s : State) (a v : Nat) : State :=
  if a = Reg.DEP_CTRL then writeDepCtrl s v
  else if a = Reg.DEP_QCFG then writeQcfg s v
  else if a = Reg.AGE_CTRL then strictWrite s a v Reg.AGE_ERR 1 (bitsOf v 16 16 != 0 && bitsOf v 16 16 != 0xFFFF)
  else if a = Reg.AGE_SEL then
    strictWrite s a v Reg.AGE_ERR 1 (decide (bitsOf v 0 8 < ageCount .pm960 (bitsOf v 12 4)))
  else if a = Reg.AGE_ERR then strictWrite s a v Reg.AGE_ERR 1 true
  else strictWrite s a v Reg.DEP_ERR 3 true

end Sys2Proof.Machine
end

