-- ==== Sys2Proof/Machine/Reset.lean ====
section
/-!
DEFINITION. Reset levels (§16.6), the DEVICE_RESET command and RELOAD_RANGE (§16.4).
-/
namespace Sys2Proof.Machine

/-! ### Stacks on their way into self-refresh (R559, R674) -/

/-- Dirty lines written back and open merge-buffer entries closed, whatever hold there is; held writes are performed
first (R559, R674, Table 14.7). -/
def flushAll (s : State) : State :=
  let s1 := loopN (stackCount s) s fun k s =>
    if (stackAt s k).state = .writeHold then releaseHeld (modStack s k fun x => { x with state := .active }) k else s
  let s2 := (maintPass (maintPass s1 0 2 0).2 1 2 0).2
  loopN (stackCount s) s2 fun k s => if stackServes s k then closeAll s k else s

/-- The stacks that serve enter self-refresh, their entries closed. -/
def selfRefresh (s : State) : State :=
  let s1 := loopN (stackCount s) s fun k s => if stackServes s k then closeAll s k else s
  { s1 with mem := { s1.mem with stks := s1.mem.stks.map fun x =>
      if x.state = .active ∨ x.state = .writeHold then { x with state := .selfRefresh } else x } }

/-- DRAM contents lost: what has not been written since is as memory never written (R8, R179). -/
def loseDram (s : State) : State :=
  { s with mem := { s.mem with dram := [], chk := [], postponed := [], losses := s.mem.losses + 1, stks := s.mem.stks.map fun x => { Stack.reset with hot := x.hot } } }

/-! ### Levels (Table 16.5) -/

/-- Registers of a range of BAR0, or of control space, at their reset values. -/
def resetRegs (s : State) (lo hi : Nat) : State := { s with regs := s.regs.filter fun x => decide (x.1 < lo) || decide (hi ≤ x.1) }

/-- CLUSTER: compute clusters with an array in FAULT lose scratch and configuration; DISABLED trowel clusters are
re-enabled. -/
def clusterReset (s : State) : State :=
  let bad := (s.arrays.filter fun kv => kv.2.state == .fault).map fun kv => clusterOfArr kv.1
  let on := fun (t : Trowel) => if t.state = .disabled then { t with state := .idle } else t
  { s with arrays := s.arrays.filter fun kv => !bad.contains (clusterOfArr kv.1),
           trowels := (s.trowels.map fun kv => (kv.1, on kv.2)).filter fun kv => kv.2 ≠ Trowel.reset,
           mem := { s.mem with stks := s.mem.stks.map fun k => { k with disabled := [] } } }

/-- The slices in FAULT return with every line invalid. -/
def sliceReset (s : State) : State :=
  let bad := fun (sl : Nat) => sliceFault s sl
  let c := s.scr
  let s1 := { s with scr := { c with lines := c.lines.filter fun kv => !bad (kv.1 / 16 / sliceSets),
                                     victims := c.victims.filter fun v => !bad v.slice,
                                     atoms := c.atoms.filter fun v => !bad v.slice,
                                     front := c.front.filter fun v => !bad v.slice, fault := 0 } }
  loopN 8 s1 fun sl s => setField s (Reg.SCD_SLICE_STATUS (sl / 4) (sl % 4)) 0 1 0

/-- A stack in FAULT retrains: every unretired row is zero with valid check bits, the operand area is undefined (it
reads as never written), its registers and those of its trowels and reducer read their Reset values (R14), and its trowels
and its reducer, units within it, are reset (R20). The retired ranges stay in force (R210). -/
def stackReset (s : State) (k : Nat) : State :=
  if (stackAt s k).state = .fault then
    let gone := fun (a : Nat) => (locOf a).stack == k && !isRetired s (locOf a)
    let m := { s.mem with losses := s.mem.losses + 1, dram := s.mem.dram.filter fun x => !gone x.1,
                          chk := s.mem.chk.filter fun x => !gone (x.1 * granuleBytes s.variant) }
    let s1 := resetRegs { s with mem := m } (ctlBase + k * 0x100000000) (ctlBase + (k + 1) * 0x100000000)
    let s2 := { s1 with reducers := mdel s1.reducers k, trowels := s1.trowels.filter fun kv => decide (kv.1 / 640 ≠ k) }
    wakeStack (modStack s2 k fun x => { Stack.reset with hot := x.hot }) k
  else s

/-- REGION, with CLUSTER below it. -/
def regionReset (s : State) : State :=
  let s1 := sliceReset (clusterReset s)
  loopN (stackCount s1) s1 fun k s => stackReset s k

/-- What stack logic holds is lost: command areas, micro-program stores, reducer slots, jobs and operand areas. -/
def loseLogic (s : State) : State :=
  let trw := fun (a : Nat) => decide (ctlBase ≤ a) && decide (0x1000000 ≤ (a - ctlBase) % 0x100000000)
  { s with mem := { s.mem with stks := s.mem.stks.map fun k => { k with notices := [] } },
           trowels := [], ustore := [], reducers := [], regs := s.regs.filter fun x => !trw x.1 }

/-- DIE: both compute dies, bridge and slices after a writeback of the unfaulted ones, and every stack's logic; tripped
domains are powered again. -/
def dieReset (s : State) : State :=
  let s1 := regionReset (flushAll s)
  let s2 := resetRegs (resetRegs (loseLogic s1) (Reg.ARY_ID 0) (Reg.SKM_ID 1 + 0x10000)) ctlBase 0x10000000000
  let clean := fun (x : Stack) => { Stack.reset with state := x.state, hot := x.hot, held := x.held }
  let s3 := { s2 with arrays := [], scr := Screed.reset,
                      mem := { s2.mem with postponed := [], stks := s2.mem.stks.map clean },
                      pwr := { s2.pwr with trips := s2.pwr.trips.filter (· == 3) } }
  if s.cmd.work = .cold then s3 else wakeStacks s3

/-- Everything that MODULE resets beside DIE: hub domains, quartermaster, model, ledger, itineraries, contexts, fabric
ID, caravan membership, quarantine. The always-on registers stay. -/
def hubReset (s : State) : State :=
  let s1 := { s with regs := s.regs.filter fun x =>
    (decide (Reg.PWR_ID ≤ x.1) && decide (x.1 < Reg.HLD_ID + 0x10000)) || (decide (Reg.MOD_ID ≤ x.1) && decide (x.1 < Reg.MOD_ID + 0x10000)) }
  let d := s.dep
  let s2 := { s1 with
    bell := 0, cmd := Cmd.reset, pci := Pci.reset, dma := Dma.reset, flt := Flt.reset, itn := { Itn.reset with reqThermal := s.itn.reqThermal },
    fab := Fab.reset, srv := Srv.reset, engines := [],
    dep := { Depot.reset with faultLog := d.faultLog, ring := d.ring, frozen := d.frozen, countdown := d.countdown, age := d.age,
                              minutes := d.minutes, day := d.day, lost := d.lost },
    sec := { Sec.reset with flashBlob := s.sec.flashBlob, flashImage := s.sec.flashImage, marker := s.sec.marker, recA := s.sec.recA,
                            recB := s.sec.recB, lastCause := s.sec.lastCause } }
  { s2 with pwr := { s2.pwr with phase := none, parked := 0, delays := [], trips := [], waking := false, saved := none } }

/-- The power state after a reset of the module: RUN. -/
def runState (s : State) : State := setReg s Reg.PWR_STATE (setBits (setBits (setBits (reg s Reg.PWR_STATE) 5 3 0) 0 3 0) 3 1 0)

/-- MODULE: the stacks stay in self-refresh until DEVICE_INIT. Their bytes are kept, and so is the retired list;
STK_CONFIG.private_groups reads its Reset value, so DPA is laid out for p = 0 again (R14, Table 16.5). -/
def moduleReset (s : State) : State :=
  let s1 := selfRefresh (runState (hubReset (dieReset s)))
  { s1 with mem := { s1.mem with p := 0 } }

/-- An ageing instance without its partial day. -/
def AgeInst.noSum (x : AgeInst) : AgeInst := { x with sum := 0, count := 0 }

/-- What hub SRAM holds of the logs is lost, the partial day of every ageing monitor and the operating time; the daily points
are in flash, and the last of them tells the day. -/
def loseLogs (s : State) : State :=
  let age := (s.dep.age.map fun kv => (kv.1, kv.2.noSum)).filter fun kv => kv.2 ≠ AgeInst.reset
  let day := (age.flatMap fun kv => kv.2.points.map (·.1)).foldl max 0
  { s with dep := { s.dep with faultLog := [], ring := [], frozen := false, countdown := none, age := age, minutes := 0, day := day,
                               lost := true } }

/-- COLD: everything outside the always-on domain and module flash; DRAM is lost. The retired list is then what module flash
holds: the boot loads it before any access (R208, R210). -/
def coldReset (s : State) : State :=
  let s1 := loseDram (runState (hubReset { s with arrays := [], trowels := [], ustore := [], reducers := [], scr := Screed.reset }))
  loseLogs { s1 with mem := { s1.mem with p := 0, retired := s1.mem.flashRet, retPending := [] } }

/-! ### DEVICE_RESET (R482, R625, R626) -/

/-- The lowest sensor of a tripped group that is less than 15 °C below its trip (R562). -/
def uncooled (s : State) : Option Nat :=
  ((s.pwr.sensors.filter fun x =>
    s.pwr.trips.contains (limits x.1).group && (match (limits x.1).trip with | some t => decide (t - deg 15 < x.2.temp) | none => false)).map (·.1)).min?

/-- Every command but the present one ends without a reply; queues and windows go (R482). -/
def dropAll (s : State) : State :=
  let s1 := s.cmd.inProg.foldl dropProg s
  setField { s1 with cmd := { s1.cmd with sqs := [], cqs := [], windows := [], deferred := [], inProg := [], ready := false } } Reg.HUB_CMD_CTRL 0 1 0

/-- A reset of a level up to DIE performed: the work state is the home state, FAULT is left, staged images go (R626,
R652). -/
def lowReset (s : State) (level : Nat) : State :=
  let s1 := dropAll s
  let s2 := if level = 2 then clusterReset s1 else if level = 3 then regionReset s1 else dieReset s1
  setWork { s2 with flt := { s2.flt with fault := none }, sec := { s2.sec with staged := [] } } (homeState s2)

/-- A reset by its level code, with its event (R626). -/
def resetTo (s : State) (level : Nat) : State :=
  raiseEvent (if level ≤ 4 then lowReset s level else if level = 5 then moduleReset s else coldReset s) 0x00E1 level

/-- DEVICE_RESET: the checks of R625 in order, its own reply, then the reset. -/
def execDeviceReset (p : Packet) (hv : HostView) (s : State) : Host.Outcome State Fault Refusal :=
  command 0x0105 p (.deviceReset p hv) (fun s _ =>
    let level := prm p 0 0 4
    let need := match s.flt.fault with | some f => f.need | none => 0
    if level < 2 ∨ 6 < level then no s p stBadParam
    else if level < need then .now s (rejectAt p stBadParam need 0xFFFFFFFF)
    else if level ≤ 4 ∧ anyRun s = true then no s p stBusy
    else
      match uncooled s with
      | some i => if 4 ≤ level then .now s (rejectAt p stBusy i 0xFFFFFFFF) else .now (resetTo (complete s p (done p)) level) (done p)
      | none => .now (resetTo (complete s p (done p)) level) (done p)) s

/-! ### RELOAD_RANGE (R621) -/

/-- One granule of a reload: whether it meets a retired range, whether its data was poisoned or discarded, and the
state. -/
def reloadGranule (s : State) (q : Nat) (g : Nat) (bs : List PByte) : Bool × Bool × State :=
  let a := g * 65536
  let dead := match locateS s a with | some l => (stackAt s l.stack).state == .fault | none => false
  (rangeRetired s a 65536, dead || bs.any (·.poison), writeMem s 7 (dmaIssuer q) .stream a bs)

/-- A granule leaves the quarantine, with its event and the notice to the lead (R620, R621). -/
def unquarantine (s : State) (g : Nat) : State :=
  if s.flt.quarantine.contains g then
    noticeLead (raiseEvent { s with flt := { s.flt with quarantine := s.flt.quarantine.filter (· != g) } } 0x00E3 g) 0xE3 g
  else s

/-- What a reload has met so far: granules of retired ranges, granules with poison or discarded, bytes left. -/
structure Reload where
  retired : List Nat
  bad : List Nat
  left : List PByte
  deriving DecidableEq, Repr

/-- The granules of a reload written in order. -/
def reloadAll (s : State) (q : Nat) (gs : List Nat) (bs : List PByte) : Reload × State :=
  gs.foldl (fun (a : Reload × State) g =>
    let r := reloadGranule a.2 q g (a.1.left.take 65536)
    let keep := fun (b : Bool) (xs : List Nat) => if b then xs ++ [g] else xs
    (⟨keep r.1 a.1.retired, keep r.2.1 a.1.bad, a.1.left.drop 65536⟩, r.2.2)) (⟨[], [], bs⟩, s)

/-- The reply of a RELOAD_RANGE of n bytes. -/
def reloadReply (p : Packet) (n status : Nat) (poison : Bool) : Reply := { doneC0 p n with status := status, poison := poison }

/-- RELOAD_RANGE: host data over interleaved granules, WB_INVALIDATE over the range, and the granules written in full
with no new error leave the quarantine. -/
def execReloadRange (p : Packet) (hv : HostView) (s : State) : Host.Outcome State Fault Refusal :=
  command 0x0207 p (.reloadRange p hv) (fun s _ =>
    let dpa := prm p 0 0 64
    let n := prm p 8 0 64
    let src := prm p 16 0 64
    let g := n / 65536
    if dpa % 65536 ≠ 0 ∨ n % 65536 ≠ 0 ∨ g < 1 ∨ 16384 < g ∨ interTop (stackCount s) s.mem.p < dpa + n then no s p stBadParam
    else
      let q := (idleQueue s).getD 16
      let gs := (List.range g).map (dpa / 65536 + ·)
      let h := hostData s hv src n
      let r := reloadAll h.2 q gs h.1
      let range := g * 2 ^ 40 + dpa
      let s1 := (maintPass (maintPass r.2 0 2 range).2 1 2 range).2
      let fresh := fun (x : Nat) => r.2.flt.quarantine.contains x && !s.flt.quarantine.contains x
      let good := gs.filter fun x => !r.1.retired.contains x && !r.1.bad.contains x && !fresh x
      let st := if !r.1.retired.isEmpty then stRetired else if !r.1.bad.isEmpty then stPoisoned else stDone
      let poison := h.1.any (·.poison)
      if heldWrites s < heldWrites s1 then .later s1 ([n, st, b2n poison] ++ good) none
      else .now (good.foldl unquarantine s1) (reloadReply p n st poison)) s

/-- A RELOAD_RANGE whose writes stacks held goes on once they are performed (R199, R621). -/
def settleReload (s : State) (c : InProg) : Option State :=
  if heldWrites s = 0 then
    some (completeProg ((c.args.drop 3).foldl unquarantine s) c
      (reloadReply c.pkt (nth c.args 0 0) (nth c.args 1 0) (nth c.args 2 0 == 1)))
  else none

end Sys2Proof.Machine
end

