-- ==== Sys2Proof/Machine/Sign.lean ====
section
/-!
DEFINITION. The signing state (§17.6): reservations of leaf indices, and signatures.
-/
namespace Sys2Proof.Machine

/-- One past the last leaf index. -/
def leafEnd : Nat := 2 ^ 40

/-- Whether a signature needs a record write first (R646, R647). -/
def needsRec (x : Sec) : Bool := x.owed || x.next == x.rend

/-- The record writes: the same reservation anew where the boot found a kind 1 record (R646), then at the end of a reservation
the next block of 4,096 (R647). Retained items come before (R632). -/
def reserveRec (s : State) : State :=
  let s0 := flashFirst s
  let s1 := if s0.sec.owed then writeRec s0 s0.sec.rend s0.sec.rend 0 else s0
  let rend := if s1.sec.next = s1.sec.rend then (s1.sec.next / 4096 + 1) * 4096 else s1.sec.rend
  let s2 := if s1.sec.next = s1.sec.rend then writeRec s1 rend rend 0 else s1
  { s2 with sec := { s2.sec with rend := rend, owed := false, deferred := false } }

/-- A record write refused while the flash window is closed (R648). -/
def deferRec (s : State) : State :=
  raiseIf (setRegBit { s with sec := { s.sec with deferred := true } } Reg.SEC_ERR 2) Reg.SEC_CTRL 3 0x00F3 0

/-- The deferred record write, when the window has reopened (R648). -/
def deferredRec (s : State) : State :=
  let s1 := if needsRec s.sec && decide (s.sec.next < leafEnd) then reserveRec s else { s with sec := { s.sec with deferred := false } }
  raiseIf s1 Reg.SEC_CTRL 4 0x00F4 (s1.sec.rend / 4096 % 2 ^ 28)

/-- What a signature request meets. -/
inductive SignOutcome where
  /-- rejected with a status of Table 12.3 -/
  | refused (status : Nat)
  /-- the bottom tree of the next index is not cached yet (Table 17.10) -/
  | waits
  | signed (sig : List Byte)
  deriving DecidableEq, Repr

/-- The bottom tree that the next index selects is current. -/
def treeReady (x : Sec) : Bool := x.next / 2 ^ 20 == x.tree || (x.nextTree && x.next / 2 ^ 20 == x.tree + 1)
/-- The next bottom tree becomes current when its first index is used. -/
def useTree (x : Sec) : Sec := if x.next / 2 ^ 20 = x.tree then x else { x with tree := x.next / 2 ^ 20, nextTree := false }

/-- A signature over a message: the first `bad` ones produced fail the engine's own check, are discarded, and count as
used (R644 to R648). -/
def sign (body : List Byte) : Nat → State → SignOutcome × State
  | bad, s =>
    if leafEnd ≤ s.sec.next then (.refused stSignExhausted, s)
    else if needsRec s.sec ∧ flashOpen s = false then (.refused stInhibit, deferRec s)
    else if !treeReady s.sec then (.waits, s)
    else
      let s1 := if needsRec s.sec then reserveRec s else s
      let i := s1.sec.next
      let s2 := { s1 with sec := { useTree s1.sec with next := i + 1 } }
      match bad with
      | 0 => (.signed (padTo 5716 (Config.hssSign i body)), s2)
      | k + 1 => sign body k (setRegBit s2 Reg.SEC_ERR 0)

/-! ### The measurement record (R650, Table 17.7) -/

/-- The function and number of a context key. -/
def keyOwner (s : State) (key : Nat) : Nat × Nat :=
  if 256 ≤ key then (key - 256, 0) else (match mget s.cmd.ctxs key with | some x => x.fn | none => 0, key)

/-- The itineraries loaded, as function, context and hash. -/
def measured (s : State) : List (Nat × Nat × List Byte) :=
  let mine := match s.cmd.holder with | some k => if s.itn.image.isSome then [(k, s.itn.hash)] else [] | none => []
  let others := s.engines.filterMap fun e => if e.2.itn.image.isSome then some (e.1, e.2.itn.hash) else none
  let xs := (mine ++ others).map fun x => let o := keyOwner s x.1; (o.1, o.2, x.2)
  (List.range 65).flatMap fun f => (List.range 256).flatMap fun c => xs.filter fun x => x.1 == f && x.2.1 == c

/-- The measurement record that a function may have: scope 0 for the PF, 1 for a VF's own contexts. -/
def measurement (s : State) (fn : Nat) (nonce : List Byte) : List Byte :=
  let es := (measured s).filter fun x => fn == 0 || x.1 == fn
  let b := s.sec.blob
  leBytes 4 0x534D594C ++ leBytes 2 1 ++ leBytes 1 (if fn = 0 then 0 else 1) ++ leBytes 1 0 ++ padTo 32 nonce ++ padTo 8 ((b.drop 0x10).take 8)
  ++ leBytes 2 (fieldAt b 0x0C 2) ++ leBytes 1 (workCode s.cmd.work) ++ leBytes 1 (regField s Reg.SEC_STATUS 7 1) ++ leBytes 4 s.sec.fwVersion
  ++ leBytes 4 (fieldAt b 8 4) ++ leBytes 2 es.length ++ leBytes 2 0 ++ padTo 32 s.sec.fwHash
  ++ (if b.isEmpty then List.replicate 32 0 else sha256 b)
  ++ (match s.srv.model with | some m => padTo 32 m.hash | none => List.replicate 32 0)
  ++ es.flatMap fun x => leBytes 1 x.1 ++ leBytes 1 x.2.1 ++ leBytes 6 0 ++ padTo 32 x.2.2

/-- The identity record (Table 17.8). -/
def identityRecord (s : State) : List Byte :=
  let b := s.sec.blob
  leBytes 2 (fieldAt b 0x0C 2) ++ leBytes 2 (fieldAt b 0x0E 2) ++ leBytes 1 (regField s Reg.SEC_STATUS 7 1) ++ leBytes 1 s.sec.lastCause
  ++ leBytes 2 0 ++ leBytes 8 (fieldAt b 0x10 8) ++ leBytes 4 s.sec.fwVersion ++ leBytes 4 (fieldAt b 8 4) ++ leBytes 4 (fieldAt b 0x18 4)
  ++ leBytes 4 0 ++ padTo 32 s.sec.fwHash ++ (if b.isEmpty then List.replicate 32 0 else sha256 b)
  ++ padTo 60 ((b.drop 0x20).take 60) ++ List.replicate 100 0

end Sys2Proof.Machine
end

