-- ==== Sys2Proof/Machine/Power.lean ====
section
/-!
DEFINITION. Power states, the budget manager, sensors and protection, coolant demand, the hold-up store and input loss
(chapter 14).
-/
namespace Sys2Proof.Machine

/-! ### The items of R9 (R548, R573 to R575) -/

/-- The four items as they stand. -/
def itemsNow (s : State) : HoldItems :=
  { faultLog := some s.dep.faultLog, ageing := some (s.dep.age.map fun kv => (kv.1, kv.2.sum, kv.2.count), s.dep.minutes),
    sign := some (s.sec.next, s.sec.rend), trace := some s.dep.ring }

/-- The items copied into retention memory, and written to flash while the window is open (R548). -/
def saveItems (s : State) : State :=
  let s1 := { s with pwr := { s.pwr with retention := itemsNow s } }
  if flashOpen s1 then commitItems s1 4 else s1

/-! ### Power states (R543 to R548) -/

/-- The depth that a state and a wake budget give (Table 14.3); none where the budget is too small or the code is
reserved. -/
def depthOf (st w : Nat) : Option Nat :=
  match st with
  | 0 => some 0
  | 1 => if 180 ≤ w then some 3 else if 150 ≤ w then some 2 else if 14 ≤ w then some 1 else if 1 ≤ w then some 0 else none
  | 2 => if 6000 ≤ w then some 1 else if 2000 ≤ w then some 0 else none
  | 3 => if 250000 ≤ w then some 0 else none
  | 4 => some 0
  | _ => none

/-- The power depth in force. -/
def powerDepth (s : State) : Nat := regField s Reg.PWR_STATE 1 2

/-- Whether the transition can be made: clusters lose power only when quiet (R131), and WB_INVALIDATE waits for write
holds (Table 14.8). -/
def powerReady (s : State) (st depth : Nat) : Bool :=
  let deep := decide (2 ≤ st) || (st == 1 && decide (2 ≤ depth))
  (!deep || (List.range 24).all fun c => clusterQuiet s c)
  && (st < 2 || decide (2 ≤ powerState s) || s.mem.stks.all fun k => k.state != .writeHold)

/-- Scratch and configuration of arrays that are not HELD are lost; an array in FAULT stays so (R132, R544). -/
def loseScratch (s : State) : State :=
  { s with arrays := s.arrays.filterMap fun kv =>
      if kv.2.state = .held then some kv else if kv.2.state = .fault then some (kv.1, { Arr.reset with state := .fault }) else none }

/-- The scratch of HELD arrays is saved to their context's swap area, with the engine that the context holds (R130, R544). -/
def saveHeld (s : State) : State :=
  if s.arrays.any (fun kv => kv.2.state == .held) then { dropEngine s with pwr := { s.pwr with saved := s.cmd.holder } } else s
/-- On the return to RUN it is restored, the configuration buffers from the image (R544). -/
def restoreHeld (s : State) : State :=
  let s1 := { s with pwr := { s.pwr with saved := none } }
  match s.pwr.saved with
  | some key => if (mget s.engines key).isSome && s.cmd.holder.isNone then takeEngine s1 key else s1
  | none => s

/-- A new state and depth in PWR_STATE, with the event of a state change. -/
def setPower (s : State) (st depth : Nat) : State :=
  let old := powerState s
  let s1 := setField (setField (setField s Reg.PWR_STATE 5 3 st) Reg.PWR_STATE 1 2 depth) Reg.PWR_STATE 0 1 0
  if old = st then s1 else raiseIf s1 Reg.PWR_CTRL 0 0x0080 st

/-- What a transition does to memories and domains, before the state itself changes (Table 14.3). -/
def powerDown (s : State) (st depth : Nat) : State :=
  let old := powerState s
  let s1 := if 2 ≤ st ∨ (st = 1 ∧ depth = 3) then saveHeld (loseScratch s) else s
  let s2 := if 2 ≤ st ∧ old < 2 then selfRefresh (flushAll s1) else s1
  let s3 := if 3 ≤ st ∨ (st = 2 ∧ depth = 1) then loseLogic s2 else s2
  let s4 := if st < 2 ∧ 2 ≤ old ∧ s.cmd.work ≠ .cold then wakeStacks s3 else s3
  if st = 0 then restoreHeld s4 else s4

/-- The hub domains go off: ports leave, the link goes down as in R536, hub and compute blocks keep no register and no
queue. Memory, model, retired ranges, work state and the PF's itinerary stay (R547). -/
def hubOff (s : State) : State :=
  let s1 := flrPf (leavePorts s)
  let on := fun (x : Nat × W64) => decide (Reg.PWR_ID ≤ x.1) && decide (x.1 < Reg.HLD_ID + 0x10000) || decide (Reg.MOD_ID ≤ x.1) && decide (x.1 < Reg.MOD_ID + 0x10000)
  { s1 with regs := s1.regs.filter on, fab := Fab.reset, scr := Screed.reset, dma := Dma.reset,
            dep := { s1.dep with queues := [], latch := [], latchWait := [], caravanAlarm := false } }

/-- The transition of POWER_SET that ends with its reply: DORMANT and OFF write it before the hub goes (R545). -/
def finishPower (s : State) (p : Packet) (r : Reply) (st depth : Nat) (inProg : Option InProg) : State :=
  let reply := fun (s : State) => match inProg with | some c => completeProg s c r | none => complete s p r
  let s1 := setField (powerDown s st depth) Reg.PWR_STATE 8 32 (prm p 4 0 32)
  if st < 3 then reply (setPower s1 st depth)
  else
    let s2 := hubOff (reply (saveItems s1))
    let s3 := setPower { s2 with pwr := { s2.pwr with commanded := true } } st depth
    if st = 3 then s3
    else
      let s4 := coldReset s3
      setPower { s4 with pwr := { s4.pwr with commanded := true } } 4 0

/-- Whether a POWER_SET in progress can complete: nothing else is in progress (R545). -/
def powerDue (s : State) (c : InProg) : Bool := s.cmd.inProg == [c] && powerReady s (nth c.args 0 0) (nth c.args 1 0)
/-- A POWER_SET in progress completes. -/
def settlePower (s : State) (c : InProg) : State := finishPower s c.pkt (done c.pkt) (nth c.args 0 0) (nth c.args 1 0) (some c)

/-- POWER_SET (R543, R545). -/
def execPowerSet (p : Packet) (hv : HostView) (s : State) : Host.Outcome State Fault Refusal :=
  command 0x0106 p (.powerSet p hv) (fun s _ =>
    let st := prm p 0 0 4
    if st ≠ 0 ∧ st ≤ 4 ∧ s.cmd.role ≠ .none then no s p stWrongState
    else match depthOf st (prm p 4 0 32) with
    | none => no s p stBadParam
    | some depth =>
      if s.cmd.inProg.isEmpty && powerReady s st depth then
        if st < 3 then .now (setPower (setField (powerDown s st depth) Reg.PWR_STATE 8 32 (prm p 4 0 32)) st depth) (done p)
        else .now (finishPower s p (done p) st depth none) (done p)
      else .later (setField s Reg.PWR_STATE 0 1 1) [st, depth] none) s

/-- Whether a POWER_SET to DORMANT or OFF is in progress. -/
def goingDown (s : State) : Bool := s.cmd.inProg.any fun c => c.op == 0x0106 && decide (3 ≤ nth c.args 0 0)

/-- A wake request: from DORMANT or a commanded OFF only (R547); during the entry it stands until the entry has completed
(Table 14.8). -/
def requestWake (s : State) : State :=
  if (3 ≤ powerState s ∧ s.pwr.commanded = true) ∨ goingDown s = true then { s with pwr := { s.pwr with wakeReq := true } } else s

/-- MOD_WAKE_N: the pin's new level; its assertion requests a wake. -/
def execModWakeN (asserted : Bool) (s : State) : Host.Outcome State Fault Refusal :=
  let s1 := { s with pwr := { s.pwr with wakePin := asserted } }
  .next (if asserted && !s.pwr.wakePin then requestWake s1 else s1)

/-! ### Clusters and grants (R35, R37, R549, R552 to R555) -/

/-- PHASE_START: the phase that the itinerary bell lies in comes into force, and with it the clusters held at depth 2. -/
def execPhaseStart (s : State) : Host.Outcome State Fault Refusal :=
  if runActive s then .next (parkStep { s with pwr := { s.pwr with phase := phaseIndex (phases s) (ibell s) } } (ibell s))
  else .next { s with pwr := { s.pwr with phase := none, parked := 0 } }

/-- Whether a draw exceeds a grant by more than 2 %, as one more sample in a row. -/
def overCount (n draw grant : Nat) : Nat := if 102 * grant < 100 * draw then n + 1 else 0

/-- POWER_SAMPLE: the 54 V input power and each group's draw, in W, every 10 µs: averages, excursions, over-draw. An
excursion ends with the average back at the limit, with the run, or after 20 ms (R32, R553). -/
def execPowerSample (module_ compute stks hub : Nat) (s : State) : Host.Outcome State Fault Refusal :=
  let g := fun lo => regField s Reg.PWR_GRANT lo 16
  let o := s.pwr.overFor
  let counts := (overCount o.1 compute (g 32), overCount o.2.1 stks (g 16), overCount o.2.2 hub (g 0))
  let s1 := { s with pwr := { s.pwr with samples := ((module_, compute, stks, hub) :: s.pwr.samples).take 100, overFor := counts } }
  let s2 := if 100 ≤ counts.1 ∨ 100 ≤ counts.2.1 ∨ 100 ≤ counts.2.2 then setRegBit s1 Reg.PWR_ERR 0 else s1
  let above := decide (sustainedLimit s < average s2 10 (·.1))
  let on := regBit s Reg.PWR_BUDGET 0
  let age := if on then s.pwr.excur + 1 else 0
  let s3 := { s2 with pwr := { s2.pwr with quiet := if above then 0 else min (s.pwr.quiet + 1) 10000, excur := age } }
  .next (if above && !on && runActive s && decide (10000 ≤ s.pwr.quiet) then bump (setRegBit s3 Reg.PWR_BUDGET 0) Reg.PWR_BUDGET 32 32 1
    else if on && (!above || !runActive s || decide (2000 ≤ age)) then setField s3 Reg.PWR_BUDGET 0 1 0 else s3)

/-- The target grants of compute and stacks: the phase's figures in a run, else the stacks' demand and the rest of the
pool (R35, R37). -/
def targets (s : State) (most : Nat) : Nat × Nat :=
  if runActive s then (match phaseNow s with | some p => (p.compute, p.stks) | none => (0, 0))
  else
    let k := min (min (stackLimit s) (measStacks s)) most
    (min 2600 (most - k), k)

/-- What the stacks' refresh and self-refresh take, which they are always granted (R34). -/
def refreshNeed (s : State) : Nat :=
  let one := fun (k : Nat) => match (stackAt s k).state with
    | .off => 0
    | .selfRefresh => Config.refreshWatts k true
    | _ => Config.refreshWatts k false
  min (stackLimit s) ((List.range (stackCount s)).map one).sum

/-- BUDGET_INTERVAL: every 1 ms the pool grant moves to the targets, rising by at most 100 W less the rise of the hub's
draw (R554); the stacks are granted first, and their refresh whatever the pool grant has reached (R34). -/
def execBudgetInterval (s : State) : Host.Outcome State Fault Refusal :=
  let most := (if regBit s Reg.PWR_BUDGET 0 && runActive s then shortLimit s else sustainedLimit s) - 500
  let t := targets s most
  let want := min (t.1 + t.2) most
  let rise := 100 - (measHub s - s.pwr.hubDraw)
  let need := refreshNeed s
  let pool := max need (if want ≤ s.pwr.pool then want else min want (s.pwr.pool + rise))
  let k := max need (min t.2 pool)
  let c := min t.1 (pool - k)
  .next { setReg s Reg.PWR_GRANT (c * 2 ^ 32 + k * 2 ^ 16 + 500) with pwr := { s.pwr with pool := pool, hubDraw := measHub s } }

/-- DUTY_DELAY: outside a run, a direct trowel command (32 + trowel key) or DMA descriptor (its queue) that took a time
delays the next start there by (N − 16) ÷ 16 of it (R555). -/
def execDutyDelay (unit took : Nat) (s : State) : Host.Outcome State Fault Refusal :=
  let n := max s.itn.reqBudget s.itn.reqThermal
  .next (if runActive s then s else { s with pwr := { s.pwr with delays := mput 0 s.pwr.delays unit ((n - 16) * took / 16) } })

/-- A write of PWR_CTRL. -/
def writePwrCtrl (s : State) (v : Nat) : State :=
  let s1 := plainWrite s Reg.PWR_CTRL v
  if bitAt v 7 then setField s1 Reg.PWR_BUDGET 32 32 0 else s1
/-- PWR_CLR_COUNTERS: a write of PWR_CTRL with clr_counters set. -/
def execPwrClrCounters (v : W64) (s : State) : Host.Outcome State Fault Refusal := .next (writePwrCtrl s (v.toNat ||| 0x80))

/-! ### Sensors (R556 to R561) -/

/-- A sensor after a sample. A first sample has no rate. -/
def sampleSensor (i : Nat) (old : Option Sensor) (t : Int) : Sensor :=
  let span := if i = 279 then 16000 else 16
  let fast := match old with | some o => o.fast | none => false
  let gap := if fast then 1 else 16
  let hist := match old with | some o => (t :: (List.replicate (gap - 1) o.temp ++ o.hist)).take (span + 1) | none => [t]
  let rate := match hist[span]? with | some e => t - e | none => 0
  let near := (limits i).all.any fun x => decide (x - deg 5 ≤ t) && decide (t ≤ x + deg 5)
  let cond := near || (match (limits i).rate with | some r => decide (r < 2 * rate) | none => false)
  let calm := if cond then 0 else match old with | some o => min (o.calm + gap) 1600 | none => 1600
  { temp := t, rate := rate, fast := cond || (fast && decide (calm < 1600)), calm := calm, hist := hist }

/-- Whether a sensor's reading satisfies a bound of its row. -/
def atOver (b : Option Int) (x : Option Sensor) : Bool := match b, x with | some t, some y => decide (t ≤ y.temp) | _, _ => false
/-- Whether a sensor's rate is above its limit. -/
def rateOver (i : Nat) (x : Option Sensor) : Bool :=
  match (limits i).rate, x with | some r, some y => decide (r < y.rate) | _, _ => false

/-- THM_HOT, THM_RATE and COOL_OUTLET_RATE as a sensor crosses its limits. -/
def sensorEvents (s : State) (i : Nat) (old new : Option Sensor) : State :=
  let s1 := if atOver (limits i).throttle new && !atOver (limits i).throttle old then raiseIf s Reg.THM_CTRL 6 0x0088 i else s
  if rateOver i new && !rateOver i old then
    let s2 := raiseIf (setRegBit s1 Reg.THM_ERR 0) Reg.THM_CTRL 5 0x0089 i
    if i = 279 then
      raiseIf (setRegBit s2 Reg.COL_ERR 0) Reg.COL_FLOW_CFG 32 0x0092 (match new with | some y => intEncode 32 y.rate | none => 0)
    else s2
  else s1

/-- Refresh doubling of a stack: above 85 °C on any DRAM die, until every one reads at or below 83 °C (R174). -/
def stackHot (s : State) (k : Nat) : State :=
  let someAbove := fun (t : Int) => s.pwr.sensors.any fun x => decide (x.1 < 264) && sensorStack x.1 == some k && decide (t < x.2.temp)
  modStack s k fun x => { x with hot := someAbove (deg 85) || (x.hot && someAbove (deg 83)) }

/-- A stack's write hold begins at 100 °C and ends when every die reads at most 97 °C (R559). -/
def stackHold (s : State) (k : Nat) : State :=
  match (stackAt s k).state with
  | .active =>
    if stackAbove s k (deg 100) then
      raiseIf (setRegBit (modStack s k fun x => { x with state := .writeHold }) Reg.THM_ERR 1) Reg.THM_CTRL 4 0x008A k
    else s
  | .writeHold =>
    if stackAbove s k (deg 97 + 1) then s
    else raiseIf (releaseHeld (modStack s k fun x => { x with state := .active }) k) Reg.THM_CTRL 4 0x008B k
  | _ => s

/-- The flash window (R560). -/
def flashWindow (s : State) (t : Int) : State :=
  let on := flashOpen s
  if on ∧ (t < deg 0 ∨ deg 85 < t) then raiseIf (setField s Reg.THM_STATUS 12 1 0) Reg.THM_CTRL 2 0x008D 0
  else if !on ∧ deg 2 ≤ t ∧ t ≤ deg 83 then raiseIf (setField s Reg.THM_STATUS 12 1 1) Reg.THM_CTRL 2 0x008D 1
  else s

/-- HLD_STATUS.charging: charging runs while the window is open and the store is not full. -/
def chargeNow (s : State) : State :=
  setField s Reg.HLD_STATUS 4 1 (b2n (regBit s Reg.HLD_STATUS 3 && decide (regField s Reg.HLD_STATUS 16 16 < 2400)))

/-- The charge window of the hold-up store (R572). -/
def chargeWindow (s : State) (t : Int) : State :=
  let on := regBit s Reg.HLD_STATUS 3
  if on ∧ (t < deg (-5) ∨ deg 55 < t) then
    let s1 := if regBit s Reg.HLD_STATUS 4 then setRegBit s Reg.HLD_ERR 0 else s
    raiseIf (chargeNow (setField s1 Reg.HLD_STATUS 3 1 0)) Reg.HLD_CTRL 0 0x0099 0
  else if !on ∧ deg (-3) ≤ t ∧ t ≤ deg 53 then raiseIf (chargeNow (setField s Reg.HLD_STATUS 3 1 1)) Reg.HLD_CTRL 0 0x0099 1
  else s

/-- Whether the inlet reads outside its range (Table 18.10). -/
def inletOut (x : Option Sensor) : Bool := match x with | some y => decide (y.temp < deg 15) || decide (deg 40 < y.temp) | none => false
/-- The inlet leaving its range. -/
def inletRange (s : State) (old new : Option Sensor) : State :=
  if inletOut new && !inletOut old then
    raiseIf (setRegBit s Reg.COL_ERR 1) Reg.COL_FLOW_CFG 33 0x0091 (match new with | some y => intEncode 32 y.temp | none => 0)
  else s

/-- The actions of a trip by its group (Table 14.7). -/
def tripActions (s : State) (group : Nat) : State :=
  let s1 := { s with pwr := { s.pwr with trips := s.pwr.trips ++ [group] }, arrays := faultsOnly s.arrays }
  if group = 3 then loseLogic { selfRefresh s1 with scr := Screed.reset }
  else
    let s2 := selfRefresh (flushAll s1)
    if group = 2 then loseLogic (loseDram { s2 with scr := Screed.reset }) else { s2 with scr := Screed.reset }

/-- A POWER_SET in progress is halted by a trip and completes with DONE while the hub runs (Table 14.8). -/
def haltPower (s : State) : State :=
  let cs := s.cmd.inProg.filter fun c => c.op == 0x0106
  let s1 := if hubRuns s then cs.foldl (fun s c => completeProg s c (done c.pkt)) s else s
  setField { s1 with pwr := { s1.pwr with wakeReq := s.pwr.wakeReq && !goingDown s } } Reg.PWR_STATE 0 1 0

/-- A trip (R561). A hub trip ends a transition in progress too, with no reply (R612). -/
def trip (s : State) (i : Nat) (t : Int) : State :=
  let g := (limits i).group
  let s0 := if g = 3 then setField s Reg.PWR_STATE 0 1 0 else haltPower s
  let s1 := setReg (setRegBit (tripActions s0 g) Reg.THM_ERR 2) Reg.THM_TRIP (s.bell * 2 ^ 16 + i * 2 ^ 7 + g * 2 ^ 4)
  let s2 := raiseAlarm (enterFault s1 8 i) 0x01 i
  logCond (raiseIf s2 Reg.THM_CTRL 3 0x008C i) 0x15 0x09 0x8C i (intEncode 16 t + g * 2 ^ 16)

/-- SENSOR_SAMPLE: a sensor reads a temperature, in 1/16 °C. -/
def execSensorSample (i : Nat) (t : Int) (s : State) : Host.Outcome State Fault Refusal :=
  if sensorPresent s.variant i = false ∨ t < -32768 ∨ 32767 < t then .next s
  else
    let old := sensorAt s i
    let x := sampleSensor i old t
    let s1 := sensorEvents { s with pwr := { s.pwr with sensors := mset s.pwr.sensors i x } } i old (some x)
    let s2 := match sensorStack i with | some k => stackHold (stackHot s1 k) k | none => s1
    let s3 := if i = 280 then flashWindow s2 t else if i = 277 then chargeWindow s2 t else if i = 278 then inletRange s2 old (some x) else s2
    let s4 := { s3 with pwr := { s3.pwr with coolSince := if isCool s3 then some (s3.pwr.coolSince.getD s3.bell) else none } }
    .next (if atOver (limits i).trip (some x) && !s4.pwr.trips.contains (limits i).group then trip s4 i t else s4)

/-- DEFERRED_FLASH_WRITE: while the window is open and the quartermaster runs, what waits for it is written: retained
items before all else, then retirements, the signing record, ageing points (R208, R548, R604, R632, R648). -/
def execDeferredFlashWrite (s : State) : Host.Outcome State Fault Refusal :=
  if flashOpen s = false ∨ hubRuns s = false then .next s
  else if s.pwr.retention.bits ≠ 0 then .next (commitItems s 4)
  else if s.mem.retPending ≠ [] then
    let s1 := { s with mem := { s.mem with flashRet := s.mem.flashRet ++ s.mem.retPending, retPending := [] } }
    .next (s.mem.retPending.foldl (fun s r => raiseEvent s 0x0033 r.stack) s1)
  else if s.sec.deferred then .next (deferredRec s)
  else .next { s with dep := { s.dep with age := s.dep.age.map fun kv => (kv.1, { kv.2 with deferred := false }) } }

/-! ### Coolant (R566 to R571) -/

/-- The largest phase sum of a profile between two itinerary bells, with its declared hub figure (R37). -/
def phasePeak (ps : List Phase) (lo hi : Nat) : Nat :=
  let first := (phaseIndex ps lo).getD 0
  ((ps.drop first).filter fun p => decide (p.start ≤ hi)).foldl (fun m p => max m (p.compute + p.stks + p.hub)) 0

/-- COL_CTRL.lead in bells at the stretch in force. -/
def leadBells (s : State) : Nat := regField s Reg.COL_CTRL 16 8 * 100000 * 16 / max 16 s.itn.inForce

/-- The image that a waiting ITIN_RUN or STEP will run. -/
def waitingImage (s : State) (f : Fetched) : Option ItinImage :=
  if f.op = 0x0303 ∨ f.op = 0x0401 then
    match sqAt s f.pkt.sq with | some q => imageOf s (ctxKey q.fn (pktCtx f.pkt)) | none => none
  else none

/-- The packets that wait: those given directly, and those that PACKET_FETCH has fetched. -/
def waitingPackets (s : State) : List Fetched := s.cmd.deferred.map (fun d => ⟨d.op, d.pkt⟩) ++ s.cmd.sqs.flatMap fun kv => kv.2.fetched

/-- p_ff, the forecast of R567. -/
def forecastPower (s : State) : Nat :=
  let b := ibell s
  let running := if runActive s then phasePeak (phases s) b (b + leadBells s) else 0
  let waiting := ((waitingPackets s).filterMap (waitingImage s)).foldl (fun m g => max m (phasePeak g.phases 0 (leadBells s))) 0
  let told := if s.pwr.annIn ≤ 100 * regField s Reg.COL_CTRL 16 8 then regField s Reg.COL_ANNOUNCE 48 16 else 0
  max (max (measModule s) running) (max waiting told)

/-- Whether every sensor has been sampled since the always-on domain was powered (R569). -/
def allSampled (s : State) : Bool := (List.range 281).all fun i => !sensorPresent s.variant i || (sensorAt s i).isSome

/-- The duty of R566 to R569, in 0.1 %, rounded down. -/
def dutyOf (s : State) (pff : Nat) : Nat :=
  let f := fun lo w => regField s Reg.COL_CTRL lo w
  let hotStack := (List.range (stackCount s)).any fun k => stackAbove s k (deg 85)
  if !allSampled s || s.pwr.boost then 1000
  else if 3 ≤ powerState s then (if hotStack then 1000 else 10 * f 56 8)
  else
    let x : Int := 160000 * (f 48 8 : Int) + 160 * ((f 40 8 * pff : Nat) : Int) + 1000 * s.pwr.integ
    max (10 * f 56 8) (min 1000 (x / 16000).toNat)

/-- COOLANT_UPDATE: every 100 ms, with the tachometer's frequency in 0.1 Hz, the flow and the duty are recomputed. -/
def execCoolantUpdate (freq : Nat) (s : State) : Host.Outcome State Fault Refusal :=
  let fq := min freq 65535
  let flow := min (fq * 60 / max 1 (regField s Reg.COL_FLOW_CFG 16 16)) 65535
  let outRate := match sensorAt s 279 with | some x => x.rate | none => 0
  let calm := if outRate ≤ 4 then min (s.pwr.outCalm + 1) 100 else 0
  let boost := decide (8 < outRate) || (s.pwr.boost && decide (calm < 100))
  let integ := match sensorAt s 279 with
    | some x => max (-8000) (min 8000 (s.pwr.integ + (regField s Reg.COL_CTRL 24 8 : Int) * (x.temp - deg (regField s Reg.COL_CTRL 32 8))))
    | none => s.pwr.integ
  let low := decide (flow < regField s Reg.COL_FLOW_CFG 0 16)
  let bad := if low && decide (200 ≤ regField s Reg.COL_DEMAND 0 10) then min (s.pwr.flowBad + 1) 20 else 0
  let good := if low then 0 else min (s.pwr.flowGood + 1) 20
  let s1 := { s with pwr := { s.pwr with boost := boost, outCalm := calm, integ := integ, annIn := s.pwr.annIn - 100, flowBad := bad, flowGood := good } }
  let s2 := { s1 with pwr := { s1.pwr with lowFlow := s1.pwr.lowFlow && decide (good < 20) } }
  let pff := min (forecastPower s2) 65535
  let s3 := setReg s2 Reg.COL_FLOW (fq * 2 ^ 16 + flow)
  .next (setReg s3 Reg.COL_DEMAND (pff * 2 ^ 32 + intEncode 16 (integ / 16) * 2 ^ 16 + dutyOf s2 pff))

/-- LOW_FLOW: the flow has stayed below min_flow for 2 s at a duty of at least 20 % (R571). -/
def execLowFlow (s : State) : Host.Outcome State Fault Refusal :=
  if s.pwr.flowBad < 20 ∨ s.pwr.lowFlow = true then .next s
  else
    let flow := regField s Reg.COL_FLOW 0 16
    let s1 := { s with pwr := { s.pwr with lowFlow := true }, itn := { s.itn with reqThermal := 64 } }
    .next (raiseIf (raiseAlarm (setRegBit s1 Reg.COL_ERR 2) 0x07 flow) Reg.COL_FLOW_CFG 34 0x0090 flow)

/-- A write of COL_ANNOUNCE. -/
def writeAnnounce (s : State) (v : Nat) : State :=
  if 60000 < bitsOf v 0 16 then setRegBit s Reg.COL_ERR 3
  else
    let s1 := plainWrite s Reg.COL_ANNOUNCE v
    { s1 with pwr := { s1.pwr with annIn := bitsOf v 0 16 } }
/-- COL_ANNOUNCE: announces future power (R567). -/
def execColAnnounce (v : W64) (s : State) : Host.Outcome State Fault Refusal := .next (writeAnnounce s v.toNat)

/-! ### Hold-up store and inputs (R572 to R577, R658 to R664) -/

/-- HOLDUP_OK_CHANGE: the store's usable energy, in 0.1 J, and capacitance, in 0.1 % of rated. -/
def execHoldupOkChange (energy capacity : Nat) (s : State) : Host.Outcome State Fault Refusal :=
  let e := min energy 65535
  let ok := decide (1200 ≤ e)
  let was := regBit s Reg.HLD_STATUS 2
  let s1 := setField (setField (setField s Reg.HLD_STATUS 16 16 e) Reg.HLD_STATUS 32 16 (min capacity 65535)) Reg.HLD_STATUS 2 1 (b2n ok)
  let s2 := chargeNow s1
  if ok = was then .next s2
  else .next (raiseIf (if ok then s2 else raiseAlarm s2 0x08 e) Reg.HLD_CTRL 1 0x0098 (b2n ok))

/-- The always-on domain with neither input: it holds no state (R577). -/
def alwaysOff (s : State) : State :=
  let s1 := resetRegs (resetRegs s Reg.PWR_ID (Reg.HLD_ID + 0x10000)) Reg.MOD_ID (Reg.MOD_ID + 0x10000)
  { s1 with itn := { s1.itn with reqThermal := 16 },
            pwr := { Power.reset with flash := s.pwr.flash, perst := s.pwr.perst, wakePin := s.pwr.wakePin, straps := s.pwr.straps } }

/-- STANDBY_CHANGE: the 12 V standby input, in 10 mV, enters or leaves its range (Table 18.6). -/
def execStandbyChange (volts : Nat) (s : State) : Host.Outcome State Fault Refusal :=
  let v := min volts 65535
  let inRange := if s.pwr.standby then decide (1000 ≤ v) else decide (1050 ≤ v)
  let s1 := { setField s Reg.MOD_INPUT 0 16 v with pwr := { s.pwr with standby := inRange } }
  .next (if !inRange && !s.pwr.input && !s.pwr.losing && powerState s == 4 then setPower (alwaysOff s1) 4 0 else s1)

/-- INPUT_LOSS: the 54 V input has stayed below 38 V for 20 µs. A module in OFF only loses the input; in DORMANT the
items are already saved; else they are copied into retention memory. Everything outside the always-on domain goes
(R8, R573, R577). -/
def execInputLoss (s : State) : Host.Outcome State Fault Refusal :=
  let s0 := setField s Reg.MOD_INPUT 16 16 0
  if s.pwr.losing then .next s0
  else if powerState s = 4 then
    let s1 := { s0 with pwr := { s0.pwr with input := false } }
    .next (if s.pwr.standby then s1 else setPower (alwaysOff s1) 4 0)
  else
    let s1 := if powerState s = 3 then s0 else { s0 with pwr := { s0.pwr with retention := itemsNow s } }
    let s2 := coldReset (raiseAlarm (assertAlert s1) 0x06 0)
    .next { s2 with pwr := { s2.pwr with input := false, losing := true, commanded := false, wakeReq := false } }

/-- INPUT_LOSS_END: the sequence ends in OFF; the energy sufficed to write the first `n` items, which are written only
while the flash window is open (R573, R574, R577). -/
def execInputLossEnd (n : Nat) (s : State) : Host.Outcome State Fault Refusal :=
  if !s.pwr.losing then .next s
  else
    let before := s.pwr.retention.bits
    let s1 := if flashOpen s then commitItems s n else s
    let left := s1.pwr.retention.bits
    let s2 := if flashOpen s ∧ left ≠ 0 then setRegBit s1 Reg.HLD_ERR 1 else s1
    let s3 := setField (setField s2 Reg.HLD_LAST 0 4 (before - left)) Reg.PWR_STATE 3 1 1
    let s4 := setPower { s3 with pwr := { s3.pwr with losing := false } } 4 0
    .next (if s.pwr.standby || s.pwr.input then s4 else setPower (alwaysOff s4) 4 0)

/-- INPUT_RETURN: the 54 V input, in 10 mV, rises above its start threshold; the hub domains are powered and the boot
may begin, but in a commanded DORMANT or OFF (R664). -/
def execInputReturn (volts : Nat) (s : State) : Host.Outcome State Fault Refusal :=
  let v := min volts 65535
  let s1 := setField s Reg.MOD_INPUT 16 16 v
  .next (if v < 4000 then s1 else { s1 with pwr := { s1.pwr with input := true } })

/-- A module reset from a pin or the bus; it restores a tripped hub only once that has cooled (R562, R627), and does not
leave HALT (Table 17.2). During a wake from DORMANT it ends the boot, which begins again at stage 1 (R664). DESIGN CHOICE: that
boot is still the wake, whose state is kept. -/
def outerReset (s : State) : State :=
  if powerState s = 3 ∧ s.pwr.waking = true then setField s Reg.SEC_STATUS 12 4 0
  else if 3 ≤ powerState s ∨ s.pwr.losing = true ∨ (uncooled s).isSome ∨ bootStage s = 0xF then s
  else raiseEvent (moduleReset s) 0x00E1 5

/-- MOD_PERST_N: its assertion resets the module and ends a boot in progress; after its deassertion the boot begins
(R536, R664). -/
def execModPerstN (asserted : Bool) (s : State) : Host.Outcome State Fault Refusal :=
  let s1 := { s with pwr := { s.pwr with perst := asserted } }
  .next (if asserted && !s.pwr.perst then outerReset s1 else s1)

/-! ### What the registers show -/

/-- Whether a trip of compute, coolant or stack keeps the compute dies off, and of the hub everything (Table 14.7). -/
def computeTripped (s : State) : Bool := !s.pwr.trips.isEmpty

/-- Whether the hub domains are powered: from the input's return, or a wake request (R547, R664). -/
def hubPowered (s : State) : Bool :=
  s.pwr.input && !s.pwr.losing && !s.pwr.trips.contains 3 && (!s.pwr.commanded || s.pwr.wakeReq || s.pwr.waking)

/-- PWR_DOMAIN.on (Table 14.1); a cluster whose clock is lost is contained by powering it off (Table 1.2). -/
def domainsOn (s : State) : Nat :=
  let run := hubPowered s && bootStage s == 6
  let clusters := run && !computeTripped s && (powerState s == 0 || (powerState s == 1 && decide (powerDepth s < 2)))
  let slices := run && !computeTripped s && decide (powerState s < 2)
  let logic := run && (powerState s != 2 || powerDepth s == 0)
  let bit := fun (i : Nat) (b : Bool) => b2n b * 2 ^ i
  let stks := (List.range (stackCount s)).foldl (fun n k =>
    let on := (stackAt s k).state != .off && s.pwr.input && !s.pwr.losing
    n + bit (32 + 2 * k) on + bit (33 + 2 * k) (on && logic)) 0
  (List.range 24).foldl (fun n c => n + bit c (clusters && !s.pwr.parked.getLsbD c && !clusterFault s c)) 0 + (List.range 8).foldl (fun n i => n + bit (24 + i) slices) 0
  + stks + bit 56 slices + bit 57 (hubPowered s || s.pwr.losing) + bit 58 (hubPowered s) + bit 62 (hubPowered s)
  + bit 59 run + bit 60 run + bit 61 run + bit 63 run

/-- MOD_ALERT_N: asserted by a cause, and until it is acknowledged with no cause left (R660, Table 17.2); not in RECOVERY
(R640). -/
def alertOn (s : State) : Bool :=
  let cause := s.flt.fault.isSome || s.pwr.losing || !s.pwr.trips.isEmpty || bootStage s == 0xF
  bootStage s != 0xE && (cause || (s.pwr.alert && !s.pwr.acked))

/-- THM_READ of a sensor (Table 14.11). -/
def sensorWord (s : State) (i : Nat) : Nat :=
  match sensorAt s i with
  | some x => intEncode 16 x.temp * 2 ^ 32 + intEncode 16 x.rate * 2 ^ 16 + b2n x.fast * 8 + b2n (rateOver i (some x)) * 4 + 2
  | none => 0

/-- What the PWR_, THM_, COL_, HLD_ and MOD_ registers that mirror the watchman read; none for the others. -/
def powerView (s : State) (a : Nat) : Option Nat :=
  if a = Reg.PWR_DOMAIN then some (domainsOn s)
  else if a = Reg.PWR_MEAS then some (measModule s * 2 ^ 48 + measCompute s * 2 ^ 32 + measStacks s * 2 ^ 16 + measHub s)
  else if a = Reg.PWR_BUDGET then some (setBits (reg s Reg.PWR_BUDGET) 8 7 s.itn.reqBudget)
  else if a = Reg.THM_STATUS then
    let h := (hottest s).getD (0, 0)
    let hold := (List.range (stackCount s)).foldl (fun n k => n + b2n ((stackAt s k).state == .writeHold) * 2 ^ k) 0
    some (h.1 * 2 ^ 47 + intEncode 16 h.2 * 2 ^ 31 + s.itn.reqThermal * 2 ^ 24 + b2n (!s.pwr.trips.isEmpty) * 2 ^ 14 + b2n (isHot s) * 2 ^ 13
      + b2n (flashOpen s) * 2 ^ 12 + hold)
  else if a = Reg.THM_READ then
    some (sensorWord s (regField s Reg.THM_SEL 0 9))
  else if a = Reg.HLD_LAST then some (s.pwr.retention.bits * 16 + regField s Reg.HLD_LAST 0 4)
  else if a = Reg.MOD_PINS then
    some (s.pwr.straps % 8 * 2 ^ 8 + b2n s.pwr.standby * 128 + b2n s.pwr.input * 64 + b2n s.pwr.perst * 32 + b2n s.pwr.wakePin * 16
      + b2n (alertOn s) * 8 + b2n (hubPowered s) * 4 + b2n (regBit s Reg.HLD_STATUS 2) * 2)
  else none

/-- A write of a PWR_, THM_, COL_, HLD_ or MOD_ register (R578, R671). -/
def writePower (s : State) (a v : Nat) : State :=
  let b := fun lo w => bitsOf v lo w
  if a = Reg.PWR_CTRL then writePwrCtrl s v
  else if a = Reg.THM_SEL then (if 280 < b 0 9 then setRegBit s Reg.THM_ERR 3 else plainWrite s a v)
  else if a = Reg.COL_CTRL then
    (if 100 < b 56 8 ∨ 100 < b 48 8 ∨ b 16 8 < 5 ∨ 100 < b 16 8 then setRegBit s Reg.COL_ERR 3 else plainWrite s a v)
  else if a = Reg.COL_FLOW_CFG then (if b 16 16 = 0 then setRegBit s Reg.COL_ERR 3 else plainWrite s a v)
  else if a = Reg.COL_ANNOUNCE then writeAnnounce s v
  else if Reg.MOD_ID ≤ a then strictWrite s a v Reg.MOD_ERR 2 true
  else plainWrite s a v

end Sys2Proof.Machine
end

