-- ==== Sys2Proof/Machine/Boot.lean ====
section
/-!
DEFINITION. Boot, recovery, firmware update and attestation (chapter 17).
-/
namespace Sys2Proof.Machine

/-! ### Images and blobs (R634 to R638) -/

/-- Whether a byte range is zero. -/
def zeroAt (b : List Byte) (o n : Nat) : Bool := ((b.drop o).take n).all (· == 0)

/-- Step 2 of R636: the signer is Lyargan's and the signature over the first 512 bytes verifies. -/
def signedOk (b : List Byte) (keyAt sigAt : Nat) : Bool :=
  let key := (b.drop keyAt).take 56
  sha256 key == Config.romKeyHash && lmsVerify key ((b.drop sigAt).take 2828) (b.take 512)

/-- The cause of Table 17.5 that a firmware image fails with; 0 where it is accepted (R636). -/
def imageCause (blob img : List Byte) : Nat :=
  let n := fieldAt img 0x0C 4
  let orderBit := if fieldAt blob 0x0C 2 = 0x0960 then 0 else 1
  if fieldAt img 0 4 ≠ 0x5746594C ∨ fieldAt img 4 2 ≠ 1 ∨ fieldAt img 6 2 ≠ 1 ∨ n < 1 ∨ 67104768 < n ∨ img.length ≠ 4096 + n
    ∨ zeroAt img 0x12 14 = false ∨ zeroAt img 0x78 392 = false ∨ zeroAt img 0xD0C 756 = false ∨ 4 ≤ fieldAt img 0x10 2 then 1
  else if !signedOk img 0x40 0x200 then 2
  else if sha256 (img.drop 4096) ≠ (img.drop 0x20).take 32 then 3
  else if !bitAt (fieldAt img 0x10 2) orderBit then 4
  else if fieldAt img 8 4 < fieldAt blob 0x18 4 then 5
  else 0

/-- The checks of a configuration blob that are not of its signature (R638). -/
def blobForm (b : List Byte) : Bool :=
  let pair := (fieldAt b 0x0C 2, fieldAt b 0x0E 2)
  b.length == 4096 && fieldAt b 0 4 == 0x4746434C && fieldAt b 4 2 == 1 && fieldAt b 6 2 == 2 && zeroAt b 0x1C 4 && zeroAt b 0x7C 132
  && zeroAt b 0x180 128 && zeroAt b 0xD44 700 && (pair == (0x0960, 0x0FFF) || pair == (0x0480, 0x003F))
  && (pair.1 == 0x0960 || zeroAt b (0x100 + 2 * 44) 24) && (b.drop 0x5C).take 32 == Config.keyCheck

/-- Whether a blob is accepted (R638). -/
def blobOk (b : List Byte) : Bool := blobForm b && signedOk b 0x200 0x238

/-! ### The boot sequence (R630 to R633, R646) -/

/-- The boot stage set. -/
def setStage (s : State) (n : Nat) : State := setField s Reg.SEC_STATUS 12 4 n

/-- The boot goes to RECOVERY with a cause (R633, R640). -/
def recover (s : State) (cause : Nat) : State :=
  let s1 := setField (setStage s 0xE) Reg.SEC_STATUS 8 4 cause
  { s1 with sec := { s1.sec with lastCause := cause } }

/-- BOOT_START: once the input is present and MOD_PERST_N is deasserted, or on a wake (R547, R577, R664). From OFF the
module boots cold. -/
def execBootStart (s : State) : Host.Outcome State Fault Refusal :=
  if s.pwr.input = false ∨ s.pwr.perst = true ∨ s.pwr.losing = true ∨ bootStage s ≠ 0 ∨ s.pwr.trips.contains 3 = true then .next s
  else if powerState s < 3 then .next (setStage s 1)
  else if s.pwr.commanded ∧ s.pwr.wakeReq = false then .next s
  else if powerState s = 3 then
    .next (setStage { s with pwr := { s.pwr with waking := true, commanded := false, wakeReq := false } } 1)
  else
    let s1 := coldReset { s with pwr := { s.pwr with commanded := false, wakeReq := false } }
    .next (setStage (setField s1 Reg.PWR_STATE 3 1 0) 1)

/-- HUB_UP: the hub SRAM self-test passes, or the boot halts. -/
def execHubUp (pass : Bool) (s : State) : Host.Outcome State Fault Refusal :=
  if bootStage s ≠ 1 then .next s else .next (if pass then setStage s 2 else assertAlert (setStage s 0xF))

/-- RETAINED: items in retention are written while the flash window is open; skipped on a wake from DORMANT (R632). -/
def execRetained (s : State) : Host.Outcome State Fault Refusal :=
  if bootStage s ≠ 2 then .next s
  else .next (setStage (if s.pwr.waking || !flashOpen s then s else commitItems s 4) 3)

/-- BLOB: the blob of module flash is read and checked; an update marker that names the blob sends the boot to RECOVERY
(R638, R652). -/
def execBlob (s : State) : Host.Outcome State Fault Refusal :=
  if bootStage s ≠ 3 then .next s
  else
    let s1 := setField s Reg.SEC_STATUS 6 1 (b2n s.sec.marker.isSome)
    if s.sec.marker = some 2 then .next (recover s1 6)
    else if !blobOk s.sec.flashBlob then .next (recover s1 7)
    else
      let s2 := setField { s1 with sec := { s1.sec with blob := s.sec.flashBlob } } Reg.SEC_VERSION 0 32 (fieldAt s.sec.flashBlob 8 4)
      .next (setStage s2 4)

/-- A firmware image runs: its measurement and version (R636). -/
def runImage (s : State) (img : List Byte) (source : Nat) : State :=
  let v := fieldAt img 8 4
  let s1 := setField (setField s Reg.SEC_VERSION 32 32 v) Reg.SEC_STATUS 7 1 source
  setStage { s1 with sec := { s1.sec with fwHash := sha256 img, fwVersion := v } } 5

/-- IMAGE: the firmware image of module flash is read, hashed and verified (R636). -/
def execImage (s : State) : Host.Outcome State Fault Refusal :=
  if bootStage s ≠ 4 then .next s
  else if s.sec.marker = some 1 then .next (recover s 6)
  else
    let c := imageCause s.sec.blob s.sec.flashImage
    .next (if c = 0 then runImage s s.sec.flashImage 0 else recover s c)

/-- The signing state that the records give (R646). -/
def loadSign (s : State) : State :=
  let x := match newestRec s.sec with
    | some r => if r.kind = 1 then (r.next, r.rend, true) else (r.rend, r.rend, false)
    | none => (leafEnd, leafEnd, false)
  { s with sec := { s.sec with next := x.1, rend := x.2.1, owed := x.2.2, tree := x.1 / 2 ^ 20, nextTree := false } }

/-- What the flash copies of the items of R9 give back to hub SRAM after a cold boot. -/
def loadItems (s : State) : State :=
  let f := s.pwr.flash
  let put := fun (age : List (Nat × AgeInst)) (x : Nat × Int × Nat) =>
    mput AgeInst.reset age x.1 { mgetD AgeInst.reset age x.1 with sum := x.2.1, count := x.2.2 }
  let d := s.dep
  let age := match f.ageing with | some a => a.1.foldl put d.age | none => d.age
  { s with dep := { d with faultLog := f.faultLog.getD d.faultLog, ring := f.trace.getD d.ring, age := age,
                           minutes := match f.ageing with | some a => a.2 | none => d.minutes, lost := false } }

/-- SIGN_STATE: the signing state is loaded and the quartermaster starts: RUNNING. A wake from DORMANT returns the stacks
from self-refresh and the module to RUN with its work state kept (R547, R646). -/
def execSignState (s : State) : Host.Outcome State Fault Refusal :=
  if bootStage s ≠ 5 then .next s
  else
    let s1 := setStage (loadSign s) 6
    let cause := regField s Reg.SEC_STATUS 8 4
    let s2 := if cause = 0 then s1 else raiseIf s1 Reg.SEC_CTRL 0 0x00F0 cause
    if s.pwr.waking then
      let s3 := if s2.cmd.work = .cold then s2 else wakeStacks s2
      .next (restoreHeld (setPower { s3 with pwr := { s3.pwr with waking := false } } 0 0))
    else .next (if s2.dep.lost then loadItems s2 else s2)

/-! ### Recovery (R640 to R642) -/

/-- The status code of an image's failure: a signature or hash, or anything else (R641, R652). -/
def causeStatus (cause : Nat) : Nat := if cause = 0 then stDone else if cause = 2 ∨ cause = 3 then stSigInvalid else stBadParam

/-- The result of a recovery action. -/
def rcvResult (s : State) (status : Nat) : State :=
  let s1 := setField s Reg.SEC_RCV_STATUS 0 16 status
  if status = stDone then s1 else setRegBit s1 Reg.SEC_ERR 1

/-- The bytes that host software placed in BAR2. -/
def placed (s : State) (n : Nat) : List Byte := (List.range n).map fun i => mgetD 0 s.sec.sram i

/-- What recovery accepts: 1 a firmware image, 2 a blob (Table 17.5). -/
def rcvKind (s : State) : Nat :=
  let c := regField s Reg.SEC_STATUS 8 4
  if c = 7 then 2 else if c = 6 then s.sec.marker.getD 1 else 1

/-- A write of SEC_RCV_CTRL: ignored outside RECOVERY, and where its action or length is out of range (R654). -/
def writeRcv (s : State) (v : Nat) : State :=
  let action := v % 4
  let n := bitsOf v 32 32
  if bootStage s ≠ 0xE then s
  else if action = 3 ∨ 67108864 < n then setRegBit s Reg.SEC_ERR 3
  else
    let s1 := plainWrite s Reg.SEC_RCV_CTRL v
    if action = 0 then s1
    else if action ≠ rcvKind s then rcvResult s1 stBadParam
    else
      let img := placed s n
      if action = 1 then
        let c := imageCause s.sec.blob img
        if c = 0 then
          let s2 := runImage (rcvResult s1 stDone) img 1
          { s2 with sec := { s2.sec with staged := mset s2.sec.staged 1 img } }
        else rcvResult s1 (causeStatus c)
      else if !blobForm img then rcvResult s1 stBadParam
      else if !signedOk img 0x200 0x238 then rcvResult s1 stSigInvalid
      else if !flashOpen s then rcvResult s1 stInhibit
      else
        let s2 := setField (setStage (rcvResult s1 stDone) 3) Reg.SEC_STATUS 8 4 0
        { s2 with sec := { s2.sec with flashBlob := img, marker := if s.sec.marker = some 2 then none else s.sec.marker } }

/-- BOOT: a write of SEC_RCV_CTRL with action BOOT. -/
def execBoot (v : W64) (s : State) : Host.Outcome State Fault Refusal := .next (writeRcv s (setBits v.toNat 0 2 1))
/-- WRITE_BLOB: a write of SEC_RCV_CTRL with action WRITE_BLOB. -/
def execWriteBlob (v : W64) (s : State) : Host.Outcome State Fault Refusal := .next (writeRcv s (setBits v.toNat 0 2 2))

/-! ### Firmware and blob update (R652, R653) -/

/-- FW_STAGE: an image or blob is copied, verified and staged. -/
def execFwStage (p : Packet) (hv : HostView) (s : State) : Host.Outcome State Fault Refusal :=
  command 0x0802 p (.fwStage p hv) (fun s _ =>
    let a := prm p 0 0 64
    let n := prm p 8 0 27
    let kind := prm p 16 0 2
    if kind = 0 ∨ kind = 3 then no s p stBadParam
    else
      match hostImage hv a n 64 with
      | none => no s p (hostError hv [(a, n, 64)])
      | some b =>
        let st := if kind = 1 then causeStatus (imageCause s.sec.blob b)
          else if !blobForm b then stBadParam
          else if !signedOk b 0x200 0x238 then stSigInvalid
          else if fieldAt b 8 4 ≤ fieldAt s.sec.blob 8 4 ∨ (b.drop 0x20).take 60 ≠ (s.sec.blob.drop 0x20).take 60 then stBadParam
          else stDone
        if st = stDone then
          .now (raiseIf { s with sec := { s.sec with staged := mset s.sec.staged kind b } } Reg.SEC_CTRL 1 0x00F1 kind) (done p)
        else no s p st) s

/-- The flash region of a kind. -/
def setFlash (s : State) (kind : Nat) (b : List Byte) : State :=
  { s with sec := if kind = 1 then { s.sec with flashImage := b } else { s.sec with flashBlob := b } }

/-- FW_ACTIVATE: the update marker is written and the region erased; the command is in progress until the image has been
written and read back. `bad` is how many read-backs differ. -/
def execFwActivate (p : Packet) (hv : HostView) (bad : Nat) (s : State) : Host.Outcome State Fault Refusal :=
  command 0x0803 p (.fwActivate p hv bad) (fun s _ =>
    let kind := prm p 0 0 2
    if (mget s.sec.staged kind).isNone then no s p stBadParam
    else if !flashOpen s then no s p stInhibit
    else
      let s1 := setFlash (flashFirst s) kind []
      .later { s1 with sec := { s1.sec with marker := some kind } } [kind, bad] none) s

/-- The rest of a FW_ACTIVATE, while the flash window is open (R653). -/
def settleActivate (s : State) (c : InProg) : State :=
  let kind := nth c.args 0 0
  let s1 := if nth c.args 1 0 < 2 then setFlash s kind ((mget s.sec.staged kind).getD []) else s
  if nth c.args 1 0 < 2 then
    completeProg (raiseIf { s1 with sec := { s1.sec with marker := none } } Reg.SEC_CTRL 2 0x00F2 kind) c (done c.pkt)
  else completeProg s1 c (reject c.pkt stMemUe)

/-! ### Attestation (R649 to R651) -/

/-- The bytes of a signed measurement. -/
def signedBytes (body sig : List Byte) : List PByte := clean (body ++ sig)

/-- A DOE response: its first word and payload. -/
def doeAnswer (s : State) (code status : Nat) (payload : List Byte) : State :=
  emit s (.doe (leBytes 4 (status * 2 ^ 16 + 0x0100 + code) ++ payload))

/-- One signature request served: whether it has been answered (it waits for a bottom tree where not), and the state. -/
def serveReq (s : State) (r : SignReq) (bad : Nat) : Bool × State :=
  let o := sign r.body bad s
  match o.1, r.pkt with
  | .waits, _ => (false, o.2)
  | .refused st, none => (true, doeAnswer o.2 0x83 st [])
  | .signed sig, none => (true, doeAnswer o.2 0x83 stDone (r.body ++ sig))
  | x, some p =>
    match o.2.cmd.inProg.find? fun c => c.op == 0x0801 && c.pkt == p && c.window == some r.window with
    | none => (true, s)
    | some c =>
      match x with
      | .signed sig =>
        let bs := signedBytes r.body sig
        (true, completeProg (fillWindow o.2 r.window bs) c ((doneC0 p bs.length).withWindow r.window))
      | .refused st => (true, completeProg (closeWindow o.2 r.window) c (reject p st))
      | .waits => (false, o.2)

/-- The requests served in order until one must wait. -/
def serveReqs : Nat → State → State
  | 0, s => s
  | k + 1, s =>
    match s.sec.reqs with
    | [] => s
    | r :: rs =>
      let t := serveReq s r 0
      if t.1 then serveReqs k { t.2 with sec := { t.2.sec with reqs := rs } } else s

/-- ATTEST: a signed measurement of the state in which the command begins. `bad` signatures fail the engine's check. -/
def execAttest (p : Packet) (hv : HostView) (bad : Nat) (s : State) : Host.Outcome State Fault Refusal :=
  command 0x0801 p (.attest p hv bad) (fun s fn =>
    let a := prm p 0 0 64
    match hostImage hv a 32 4 with
    | none => no s p (hostError hv [(a, 32, 4)])
    | some nonce =>
      let body := measurement s fn nonce
      let kept := fun (s : State) (off : Nat) =>
        Verdict.later { s with sec := { s.sec with reqs := s.sec.reqs ++ [{ pkt := some p, window := off, body := body }] } } [] (some off)
      let o := if s.sec.reqs.isEmpty then sign body bad s else (.waits, s)
      match allocWindow s fn (body.length + 5716), o.1 with
      | none, _ => no s p stBusy
      | some _, .refused st => no o.2 p st
      | some (off, s1), .waits => kept { o.2 with cmd := s1.cmd } off
      | some _, .signed sig =>
        let bs := signedBytes body sig
        withWindow o.2 p fn bs.length fun s2 off => windowed s2 off (doneC0 p bs.length) bs) s

/-- SIGN_STATUS: changes nothing (R651). -/
def execSignStatus (p : Packet) (hv : HostView) (s : State) : Host.Outcome State Fault Refusal :=
  command 0x0804 p (.signStatus p hv) (fun s _ => .now s (plainReply p stDone (s.sec.rend - s.sec.next) (s.sec.rend / 4096) 0 0)) s

/-- DEVICE_IDENTIFY: the identity record (R4, R651). -/
def execDeviceIdentify (p : Packet) (hv : HostView) (s : State) : Host.Outcome State Fault Refusal :=
  command 0x0101 p (.deviceIdentify p hv) (fun s fn =>
    withWindow s p fn 256 fun s off => windowed s off (done p) (clean (identityRecord s))) s

/-- NEXT_TREE_BUILD: the next bottom tree is built and cached once the current one has fewer than 262,144 unused leaves
(R645); requests that waited for it are served. -/
def execNextTreeBuild (s : State) : Host.Outcome State Fault Refusal :=
  let x := s.sec
  if hubRuns s && !x.nextTree && decide ((x.tree + 1) * 2 ^ 20 < x.next + 262144) then
    .next (serveReqs 64 { s with sec := { x with nextTree := true } })
  else .next s

/-- A DOE attestation exchange (Table 17.9): the request's first word and its payload. -/
def doeExchange (word : W32) (payload : List Byte) (bad : Nat) (s : State) : State :=
  let code := word.toNat % 256
  let wrong := fun (n : Nat) => payload.length != n
  if hubRuns s = false ∨ linkDown s = true then s
  else if code = 3 then
    if wrong 32 then doeAnswer s 0x83 stBadParam []
    else
      let r : SignReq := { pkt := none, window := 0, body := measurement s 0 payload }
      let t := if s.sec.reqs.isEmpty then serveReq s r bad else (false, s)
      if t.1 then t.2 else { t.2 with sec := { t.2.sec with reqs := t.2.sec.reqs ++ [r] } }
  else if code = 0 ∨ 4 < code then doeAnswer s 0xFF stBadOpcode []
  else if wrong 0 then doeAnswer s (code + 0x80) stBadParam []
  else if code = 1 then doeAnswer s 0x81 stDone (identityRecord s)
  else if code = 2 then doeAnswer s 0x82 stDone (padTo 4096 s.sec.blob)
  else doeAnswer s 0x84 stDone (leBytes 8 s.sec.next ++ leBytes 8 s.sec.rend)

/-- DOE_IDENTITY: a request whose first word and payload are given; the code in the word decides. -/
def execDoeIdentity (word : W32) (payload : List Byte) (s : State) : Host.Outcome State Fault Refusal := .next (doeExchange word payload 0 s)
/-- DOE_CERTIFICATE. -/
def execDoeCertificate (word : W32) (payload : List Byte) (s : State) : Host.Outcome State Fault Refusal := .next (doeExchange word payload 0 s)
/-- DOE_MEASUREMENT; `bad` signatures fail the engine's check. -/
def execDoeMeasurement (word : W32) (payload : List Byte) (bad : Nat) (s : State) : Host.Outcome State Fault Refusal :=
  .next (doeExchange word payload bad s)
/-- DOE_SIGN_STATUS. -/
def execDoeSignStatus (word : W32) (payload : List Byte) (s : State) : Host.Outcome State Fault Refusal := .next (doeExchange word payload 0 s)

/-- DOE_DISCOVERY: index 0 is the discovery protocol itself, index 1 Lyargan's attestation type 0x01 (R651). PRESUMED:
the layout of the response word is PCI Express's: vendor, type, next index. -/
def execDoeDiscovery (index : Nat) (s : State) : Host.Outcome State Fault Refusal :=
  if hubRuns s = false ∨ linkDown s = true then .next s
  else
    .next (emit s (.doe (leBytes 4 (match index with
      | 0 => 0x0001 + 2 ^ 24
      | 1 => Config.vendorId.toNat + 2 ^ 16
      | _ => 0xFFFF))))

/-! ### The SEC_ registers (R654) -/

/-- What the SEC_ registers that mirror the engine read; none for the others. -/
def secView (s : State) (a : Nat) : Option Nat :=
  if a = Reg.SEC_SIGN_NEXT then some (s.sec.next % 2 ^ 40)
  else if a = Reg.SEC_SIGN_END then some (s.sec.rend % 2 ^ 40)
  else if (a = Reg.SEC_RCV_CTRL ∨ a = Reg.SEC_RCV_STATUS) ∧ bootStage s ≠ 0xE then some 0
  else none

/-- A write of a SEC_ register. -/
def writeSec (s : State) (a v : Nat) : State := if a = Reg.SEC_RCV_CTRL then writeRcv s v else plainWrite s a v

end Sys2Proof.Machine
end

