-- ==== Sys2Proof/Machine/Mgmt.lean ====
section
/-!
DEFINITION. The management bus (§18.6): the SMBus commands of Table 18.8.
-/
namespace Sys2Proof.Machine

/-- Whether the target answers: while either input is present (R668). DESIGN CHOICE: also while no command has brought
an input into range (as `booted`). -/
def smbAnswers (s : State) : Bool := s.pwr.input || s.pwr.standby || (booted s && decide (powerState s < 3))

/-- A transaction of `n` written bytes: its speed is noted, one of another length is not acknowledged, and a write
without a valid PEC is not performed while MOD_SMB.pec_required is 1 (R668). -/
def smbCommand (x : SmbTxn) (n : Nat) (body : State → State) (s : State) : State :=
  if !smbAnswers s then s
  else
    let s1 := setField s Reg.MOD_SMB 1 2 x.speed
    if x.data.length ≠ n then setRegBit s1 Reg.MOD_ERR 0
    else if n ≠ 0 ∧ regBit s1 Reg.MOD_SMB 0 = true ∧ x.pec ≠ some true then setRegBit s1 Reg.MOD_ERR 1
    else body s1

/-- A block read answered. -/
def smbRead (x : SmbTxn) (f : State → List Byte) (s : State) : State := smbCommand x 0 (fun s => emit s (.smbus (f s))) s

/-- The 16 bytes of IDENTITY; zero until a blob is accepted. -/
def smbIdentity (s : State) : List Byte :=
  let b := s.sec.blob
  leBytes 2 (fieldAt b 0x0C 2) ++ leBytes 2 (fieldAt b 0x0E 2) ++ leBytes 8 (fieldAt b 0x10 8)
    ++ leBytes 4 (if b.isEmpty then 0 else s.sec.fwVersion)

/-- HUB_CMD_STATUS.role. -/
def roleCode : Role → Nat
  | .none => 0 | .lead => 1 | .member => 2

/-- The status block (R672, Table 18.14). -/
def smbStatus (s : State) : List Byte :=
  let thm := (powerView s Reg.THM_STATUS).getD 0
  let pins := (powerView s Reg.MOD_PINS).getD 0
  let runs := hubRuns s
  let cause := match s.flt.fault with | some f => if s.cmd.work = .fault then f.cause else 0 | none => 0
  leBytes 1 (powerState s + powerDepth s * 8 + regField s Reg.PWR_STATE 3 1 * 32)
  ++ leBytes 1 (if runs then workCode s.cmd.work + roleCode s.cmd.role * 16 else 0xF)
  ++ leBytes 1 (bootStage s + regField s Reg.SEC_STATUS 8 4 * 16)
  ++ leBytes 1 cause ++ leBytes 1 pins
  ++ leBytes 1 (bitsOf thm 14 1 + bitsOf thm 13 1 * 2 + bitsOf thm 12 1 * 4)
  ++ leBytes 2 (bitsOf thm 0 12)

/-- The temperature of a sensor in 1/16 °C as a 16-bit number; 0 before its first sample. -/
def tempWord (s : State) (i : Nat) : Nat := match sensorAt s i with | some x => intEncode 16 x.temp | none => 0

/-- The 8 bytes of COOLANT: duty, flow, inlet and outlet temperature. -/
def smbCoolant (s : State) : List Byte :=
  leBytes 2 (regField s Reg.COL_DEMAND 0 10) ++ leBytes 2 (regField s Reg.COL_FLOW 0 16) ++ leBytes 2 (tempWord s 278)
    ++ leBytes 2 (tempWord s 279)

/-- The newest fault-log record; zero while there is none. -/
def smbAlarm (s : State) : List Byte := padTo 16 ((s.dep.faultLog.getLast?.getD []).flatMap fun w => leBytes 4 w.toNat)

/-- SMB_IDENTITY. -/
def execSmbIdentity (x : SmbTxn) (s : State) : Host.Outcome State Fault Refusal := .next (smbRead x smbIdentity s)
/-- SMB_STATUS. -/
def execSmbStatus (x : SmbTxn) (s : State) : Host.Outcome State Fault Refusal := .next (smbRead x smbStatus s)
/-- SMB_SENSOR_SEL: sensor 0 to 280; another index is ignored. -/
def execSmbSensorSel (x : SmbTxn) (s : State) : Host.Outcome State Fault Refusal :=
  .next (smbCommand x 2 (fun s => if 280 < ofLe x.data then s else { s with pwr := { s.pwr with smbSel := ofLe x.data } }) s)
/-- SMB_SENSOR. -/
def execSmbSensor (x : SmbTxn) (s : State) : Host.Outcome State Fault Refusal :=
  .next (smbRead x (fun s => leBytes 8 (sensorWord s s.pwr.smbSel)) s)
/-- SMB_POWER. -/
def execSmbPower (x : SmbTxn) (s : State) : Host.Outcome State Fault Refusal :=
  .next (smbRead x (fun s => leBytes 8 ((powerView s Reg.PWR_MEAS).getD 0)) s)
/-- SMB_COOLANT. -/
def execSmbCoolant (x : SmbTxn) (s : State) : Host.Outcome State Fault Refusal := .next (smbRead x smbCoolant s)
/-- SMB_LAST_ALARM. -/
def execSmbLastAlarm (x : SmbTxn) (s : State) : Host.Outcome State Fault Refusal := .next (smbRead x smbAlarm s)

/-- WAKE: byte 0x01 is a wake request (R547); another byte is ignored. -/
def execWake (x : SmbTxn) (s : State) : Host.Outcome State Fault Refusal :=
  .next (smbCommand x 1 (fun s => if ofLe x.data = 1 then requestWake s else s) s)

/-- SMB_RESET: word 0xA55A resets the module at MODULE level; any other is ignored, and so is one while MOD_PERST_N is
asserted (Table 18.9). -/
def execSmbReset (x : SmbTxn) (s : State) : Host.Outcome State Fault Refusal :=
  .next (smbCommand x 2 (fun s => if ofLe x.data = 0xA55A ∧ s.pwr.perst = false then outerReset s else s) s)

/-- ALERT_ACK: byte 0x01 lets MOD_ALERT_N deassert once no cause holds (R660). -/
def execAlertAck (x : SmbTxn) (s : State) : Host.Outcome State Fault Refusal :=
  .next (smbCommand x 1 (fun s => if ofLe x.data = 1 then { s with pwr := { s.pwr with acked := true } } else s) s)

end Sys2Proof.Machine
end

