-- ==== Sys2Proof/Machine/Register.lean ====
section
/-!
DEFINITION. BAR0 (§13.2): what every register reads, the writes of registers, the MSI-X table, the view of a virtual
function (R514 to R516, R675), and the two readers of counters: COUNTER_SAMPLE and TELEMETRY_READ.
-/
namespace Sys2Proof.Machine

/-! ### What the registers read -/

/-- Halted SQs 64k to 64k + 63, those of one VF only in its view. -/
def haltView (s : State) (fn k : Nat) : Nat :=
  s.cmd.sqs.foldl (fun m q => if q.2.halted && (fn == 0 || q.2.fn == fn) && q.1 / 64 == k then m + 2 ^ (q.1 % 64) else m) 0

/-- HUB_CMD_STATUS (Table 12.9). -/
def cmdStatus (s : State) : Nat :=
  let resident := (s.cmd.ctxs.filter fun c => c.2.resident).length
  (s.cmd.ctxs.length - resident) * 2 ^ 24 + resident * 2 ^ 16 + workCode s.cmd.work * 2 ^ 12 + roleCode s.cmd.role * 2 ^ 10 + b2n s.cmd.ready

/-- What the HUB_ registers that mirror the command state read; none for the others. -/
def hubView (s : State) (a : Nat) : Option Nat :=
  if a = Reg.HUB_CMD_STATUS then some (cmdStatus s)
  else if Reg.HUB_SQ_HALT 0 ≤ a ∧ a ≤ Reg.HUB_SQ_HALT 3 then some (haltView s 0 ((a - Reg.HUB_SQ_HALT 0) / 8))
  else none

/-- Whether a cluster has no power: in a deep power state, held by the profile, or after a trip (Table 14.2, R549, Table
14.7). -/
def clusterOff (s : State) (c : Nat) : Bool :=
  computeTripped s || s.pwr.parked.getLsbD c || decide (2 ≤ powerState s) || (powerState s == 1 && decide (2 ≤ powerDepth s))

/-- ARY_STATUS.state; FAULT shows even where the cluster has no power, since only a reset ends it (R132). -/
def arrCode : ArrState → Nat
  | .off => 0 | .idle => 1 | .switching => 2 | .active => 3 | .held => 4 | .fault => 5
/-- ARY_CFGBUF.shadow_state. -/
def shadowCode : Shadow → Nat
  | .empty => 0 | .loading => 1 | .prefetch => 2 | .ready => 3 | .bad => 4

/-- What the registers of array n of a die that mirror it read (Table 3.15, Table 3.16); none for the others. -/
def arrView (s : State) (die n o : Nat) : Option Nat :=
  let x := arrAt s (aryKey die n)
  if o = 0 then
    let runs := if x.state = .active then x.ctxs.foldl (fun m c =>
      if c.2.state = .run ∨ c.2.state = .wait then Nat.lor m (2 ^ (c.1 % 16)) else m) 0 else 0
    let st := if clusterOff s (clusterOfArr (aryKey die n)) && x.state != .fault then 0 else arrCode x.state
    some (runs * 2 ^ 24 + st * 2 ^ 20 + x.ramp % 16 * 2 ^ 16 + b2n x.preempt)
  else if o = 8 then
    let id := fun (t : Option Tile) => match t with | some t => t.id % 2 ^ 16 | none => 0
    some (id x.shadow * 2 ^ 32 + id x.active * 2 ^ 16 + shadowCode x.shadowState * 2 ^ 8 + x.bindPending.toNat)
  else none

/-- Lines of a slice with the keep bit set. -/
def keepLines (s : State) (sl : Nat) : Nat :=
  (s.scr.lines.filter fun kv => kv.1 / (40960 * 16) == sl && kv.2.keep).length

/-- What a register reads, by its BAR0 offset (R12, R13). -/
def readReg (s : State) (a : Nat) : Nat :=
  let v := reg s a
  match regAt a with
  | none => 0
  | some _ =>
    if a < 0x10000 then (hubView s a).getD v
    else if a < 0x20000 then v
    else if a < 0x30000 then dmaView s a
    else if a < 0x40000 then (itnView s a).getD v
    else if a < 0x50000 then (fabView s a).getD v
    else if a < 0x70000 then (ledgerView s a).getD v
    else if a < 0x90000 then (servingView s a).getD v
    else if a < 0xA0000 then (depView s a).getD v
    else if a < 0xE0000 then (powerView s a).getD v
    else if a < 0xF0000 then (depView s a).getD v
    else if a < 0x100000 then (secView s a).getD v
    else if a < 0x110000 then (powerView s a).getD v
    else if 0x200000 ≤ a ∧ a < 0x220000 then
      let o := a % 0x10000
      if o < 0x1000 then v else (arrView s ((a - 0x200000) / 0x10000) ((o - 0x1000) / 0x40) (o % 0x40)).getD v
    else if 0x220000 ≤ a ∧ a < 0x240000 then
      let o := a % 0x10000
      if 0x1000 ≤ o ∧ o % 0x40 = 0 then v + keepLines s ((a - 0x220000) / 0x10000 * 4 + (o - 0x1000) / 0x40) * 2 ^ 20 else v
    else if 0x240000 ≤ a ∧ a < 0x260000 then
      let o := a % 0x10000
      if 0x1000 ≤ o ∧ o < 0x2000 ∧ o % 0x20 = 0 then v + frontDepth s ((a - 0x240000) / 0x10000 * 4 + (o - 0x1000) / 0x20) else v
    else v

/-! ### The MSI-X table (R515, R523) -/

/-- An 8-byte word of a function's MSI-X table: message address, then message data and the mask bit. PRESUMED: the entry
format of PCI Express. -/
def msixWord (s : State) (fn i : Nat) : Nat :=
  let k := fn * 256 + i / 2
  let m := (mgetD 0 s.pci.msixMsg (fn * 512 + i)).toNat
  if i % 2 = 0 then m else m + b2n (s.pci.msixMask.contains k) * 2 ^ 32
/-- A write of an 8-byte word of a function's MSI-X table. -/
def writeMsixWord (s : State) (fn i v : Nat) : State :=
  if vectorCount fn ≤ i / 2 then s
  else
    let m := if i % 2 = 0 then v else v % 2 ^ 32
    let s1 := { s with pci := { s.pci with msixMsg := mput 0 s.pci.msixMsg (fn * 512 + i) (BitVec.ofNat 64 m) } }
    if i % 2 = 0 then s1 else maskVector s1 fn (i / 2) (bitAt v 32)
/-- A 64-bit word of a function's pending bit array. -/
def msixPending (s : State) (fn i : Nat) : Nat :=
  (List.range 64).foldl (fun m b => m + b2n (s.pci.msixPend.contains (fn * 256 + i * 64 + b)) * 2 ^ b) 0

/-- What an 8-byte word of the PF's BAR0 reads. -/
def bar0Word (s : State) (a : Nat) : Nat :=
  if 0x1000000 ≤ a ∧ a < 0x1001000 then msixWord s 0 ((a - 0x1000000) / 8)
  else if 0x1001000 ≤ a ∧ a < 0x1001020 then msixPending s 0 ((a - 0x1001000) / 8)
  else readReg s a

/-- What an 8-byte word of a VF's BAR0 reads (R516). -/
def vfBar0Word (s : State) (fn o : Nat) : Nat :=
  if o = Reg.HUB_CMD_ID then reg s o
  else if o = Reg.HUB_CMD_STATUS then workCode s.cmd.work * 2 ^ 12 + roleCode s.cmd.role * 2 ^ 10
  else if o = Reg.HUB_CMD_ERR then mgetD 0 s.cmd.vfErr fn
  else if Reg.HUB_SQ_HALT 0 ≤ o ∧ o ≤ Reg.HUB_SQ_HALT 3 then haltView s fn ((o - Reg.HUB_SQ_HALT 0) / 8)
  else if 0x8000 ≤ o ∧ o < 0x8100 then msixWord s fn ((o - 0x8000) / 8)
  else if o = 0x9000 then msixPending s fn 0
  else 0

/-! ### Writes -/

/-- A write of a HUB_ register that is neither a doorbell nor the enable: the admin pair's registers are fixed while it
exists (R507). -/
def writeHub (s : State) (fn a : Nat) (v : W64) : State :=
  if Reg.HUB_SQ_TAIL 0 ≤ a ∧ a < Reg.HUB_CQ_HEAD 0 then writeTail s fn ((a - Reg.HUB_SQ_TAIL 0) / 8) v
  else if Reg.HUB_CQ_HEAD 0 ≤ a ∧ a < Reg.HUB_CQ_HEAD 256 then writeHead s fn ((a - Reg.HUB_CQ_HEAD 0) / 8) v
  else if Reg.HUB_SQ_HALT 0 ≤ a ∧ a ≤ Reg.HUB_SQ_HALT 3 then writeHalt s fn ((a - Reg.HUB_SQ_HALT 0) / 8) v
  else if fn ≠ 0 then
    if a = Reg.HUB_CMD_ERR then
      let e := mgetD 0 s.cmd.vfErr fn
      { s with cmd := { s.cmd with vfErr := mput 0 s.cmd.vfErr fn (e - (e &&& v.toNat)) } }
    else s
  else if a = Reg.HUB_CMD_CTRL then writeEnable s v
  else if (a = Reg.HUB_AQ_SQ_BASE ∨ a = Reg.HUB_AQ_CQ_BASE ∨ a = Reg.HUB_AQ_SIZE) ∧ s.cmd.ready then setRegBit s Reg.HUB_CMD_ERR 3
  else plainWrite s a v.toNat

/-- A write of an ARY_, SCD_ or SKM_ register. -/
def writeDie (s : State) (a v : Nat) : State :=
  let d := a / 0x10000 % 2
  if a = Reg.ARY_CTRL d then writeAryCtrl s d v
  else if a = Reg.SCD_CTRL d then (let s1 := plainWrite s a v; if bitAt v 7 then clearScd s1 d else s1)
  else if a = Reg.SKM_CTRL d then (let s1 := plainWrite s a v; if bitAt v 7 then clearSkm s1 d else s1)
  else if a = Reg.SCD_MAINT d then startMaint s d (bitsOf v 0 4)
  else if a = Reg.SCD_MAINT_RANGE d then writeMaintRange s d v
  else plainWrite s a v

/-- A write of an LDG_, PFX_, SMP_ or STN_ register. -/
def writeServing (s : State) (a v : Nat) : State :=
  if a = Reg.LDG_ENTRY_SEL then writeEntrySel s v
  else if a = Reg.LDG_CTRL then writeLdgCtrl s v
  else if a = Reg.PFX_CTRL then writePfxCtrl s v
  else if a = Reg.SMP_SEL then writeSmpSel s v
  else if a = Reg.SMP_CTRL then writeSmpCtrl s v
  else if a = Reg.STN_SEL then writeStnSel s v
  else if a = Reg.STN_CTRL then writeStnCtrl s v
  else plainWrite s a v

/-- A write of a PCI_ or DMA_ register. -/
def writeLink (s : State) (a v : Nat) : State :=
  let c := (a - 0x21000) / 0x20
  if a = Reg.PCI_BAR2_BASE then writeBar2Base s v
  else if a = Reg.PCI_VF_CFG then writeVfCfg s v
  else if a = Reg.PCI_HOST_TIME then writeHostTime s v
  else if Reg.PCI_VF_XLAT 1 ≤ a ∧ a ≤ Reg.PCI_VF_XLAT 64 then writeVfXlat s ((a - Reg.PCI_VF_XLAT 0) / 8) v
  else if a = Reg.DMA_CHAN_CFG c ∧ c < 32 then writeChanCfg s c v
  else if a = Reg.DMA_CHAN_VALUE c ∧ c < 32 then writeChanValue s c v
  else plainWrite s a v

/-- A write of an ITN_ or FAB_ register. -/
def writeItnFab (s : State) (a v : Nat) : State :=
  if a = Reg.ITN_STRETCH then writeStretch s v
  else if a = Reg.ITN_CTRL then writeItnCtrl s v
  else if a = Reg.FAB_CTRL then writeFabCtrl s v
  else
    match (List.range 16).find? fun n => a == Reg.FAB_PORT_CFG n with
    | some n => writePortCfg s n v
    | none => plainWrite s a v

/-- A write of 64 bits to a register of the PF's BAR0; a reserved offset ignores it (R13). -/
def writeReg (s : State) (a v : Nat) : State :=
  if (regAt a).isNone then s
  else if a < 0x10000 then writeHub s 0 a (BitVec.ofNat 64 v)
  else if a < 0x30000 then writeLink s a v
  else if a < 0x50000 then writeItnFab s a v
  else if a < 0x90000 then writeServing s a v
  else if a < 0xA0000 then writeDep s a v
  else if a < 0xE0000 then writePower s a v
  else if a < 0xF0000 then writeDep s a v
  else if a < 0x100000 then writeSec s a v
  else if a < 0x110000 then writePower s a v
  else writeDie s a v

/-- The 64-bit value with which a write of 4 or 8 bytes at `o` acts on the word that holds it: a half leaves the RW
fields of the other half as they read, with all else of it zero (R675). -/
def widened (s : State) (a o n v : Nat) : Nat :=
  if n = 8 then v
  else
    let keep := match regAt a with | some d => readReg s a &&& d.mask .rw | none => bar0Word s a
    if o % 8 = 4 then keep % 2 ^ 32 + v % 2 ^ 32 * 2 ^ 32 else keep / 2 ^ 32 * 2 ^ 32 + v % 2 ^ 32

/-- A BAR0 write by the PF. -/
def writeBar0 (s : State) (o n v : Nat) : State :=
  let c := (o - 0x21010) / 0x20
  if Reg.DMA_CHAN_FEED c ≤ o ∧ o < Reg.DMA_CHAN_FEED c + 4 ∧ c < 32 then (if o % n = 0 then writeChanFeed s c n v else s)
  else if (n ≠ 4 ∧ n ≠ 8) ∨ o % n ≠ 0 ∨ 0x4000000 < o + n then s
  else
    let a := o / 8 * 8
    let x := widened s a o n v
    if 0x1000000 ≤ a ∧ a < 0x1001000 then writeMsixWord s 0 ((a - 0x1000000) / 8) x else writeReg s a x

/-- A BAR0 write by a VF (R516). -/
def writeVfBar0 (s : State) (fn o n v : Nat) : State :=
  if (n ≠ 4 ∧ n ≠ 8) ∨ o % n ≠ 0 then s
  else
    let a := o / 8 * 8
    let other := if 0x8000 ≤ a then vfBar0Word s fn a else 0
    let x := if n = 8 then v else if o % 8 = 4 then other % 2 ^ 32 + v % 2 ^ 32 * 2 ^ 32 else other / 2 ^ 32 * 2 ^ 32 + v % 2 ^ 32
    if a < 0x2000 then writeHub s fn a (BitVec.ofNat 64 x)
    else if 0x8000 ≤ a ∧ a < 0x8100 then writeMsixWord s fn ((a - 0x8000) / 8) x
    else s

/-- REGISTER_WRITE: function `fn` writes bytes at an offset of its BAR0; `ep` is the EP bit, which has the write discarded
(Table 13.10). In RECOVERY BAR0 holds the SEC_ block alone (R640). -/
def execRegisterWrite (fn off : Nat) (bytes : List Byte) (ep : Bool) (s : State) : Host.Outcome State Fault Refusal :=
  let n := bytes.length
  let v := ofLe bytes
  if linkDown s ∨ 64 < fn ∨ n = 0 then .next s
  else if bootStage s = 0xE then
    if fn ≠ 0 ∨ ep = true ∨ (n ≠ 4 ∧ n ≠ 8) ∨ off % n ≠ 0 ∨ 0x1000 < off + n then .next s
    else
      let a := Reg.SEC_ID + off / 8 * 8
      .next (writeReg s a (widened s a off n v))
  else if !memServed s fn then .next s
  else if mustWait s fn then .next (waitHost s fn (.registerWrite fn off bytes ep))
  else if ep then .next (setRegBit s Reg.PCI_ERR 3)
  else .next (if fn = 0 then writeBar0 s off n v else writeVfBar0 s fn off n v)

/-! ### Counters (R601, R602) -/

/-- The entries of the list at DEP_CNT_LIST: 32-bit BAR0 offsets; none for one that reads poisoned or lies in no
memory. -/
def counterList (s : State) : List (Option Nat) × State :=
  let base := regField s Reg.DEP_CNT_LIST 3 37 * 8
  (List.range (regField s Reg.DEP_CNT_CFG 21 6 + 1)).foldl (fun (a : List (Option Nat) × State) i =>
    let dpa := base + 4 * i
    if regionOf a.2 dpa = .interleaved ∨ regionOf a.2 dpa = .privateWin then
      let r := hubWord a.2 dpa
      (a.1 ++ [if r.1.any (·.poison) then none else some (ofLe (((r.1.drop (dpa % 8)).take 4).map (·.b)))], r.2)
    else (a.1 ++ [none], a.2)) ([], s)

/-- The value of a listed counter; zero where its offset is reserved or misaligned, free where no offset is known. -/
def counterValue (s : State) (o : Option Nat) : Nat × State :=
  match o with
  | some a => (if a % 8 = 0 then bar0Word s a else 0, s)
  | none => freeVal s

/-- The listed counters read now, in list order. -/
def countersNow (s : State) : List Nat × State :=
  let l := counterList s
  l.1.foldl (fun (a : List Nat × State) o => let r := counterValue a.2 o; (a.1 ++ [r.1], r.2)) ([], l.2)

/-- COUNTER_SAMPLE: at a bell that is a multiple of DEP_CNT_CFG.period the listed counters go into one COUNTER record of
queue 0x30. -/
def execCounterSample (s : State) : Host.Outcome State Fault Refusal :=
  let period := regField s Reg.DEP_CNT_CFG 0 21
  if period = 0 ∨ s.bell % period ≠ 0 ∨ 3 ≤ powerState s ∨ booted s = false then .next s
  else
    let r := countersNow s
    .next (pushRecord r.2 0x30 ([recHeader 5 0x0C 0 0 (2 + 2 * r.1.length), s.bell % 2 ^ 32, s.bell / 2 ^ 32 % 2 ^ 16]
      ++ r.1.flatMap fun v => [v % 2 ^ 32, v / 2 ^ 32 % 2 ^ 32]))

/-- The ageing reports, in Table 15.7 order. -/
def ageReports (s : State) : List Byte :=
  (ageKeys s.variant).flatMap fun k => leBytes 8 (ageMargin (ageAt s k)) ++ leBytes 8 (ageDays (ageAt s k))

/-- The incident ring, oldest word first, after the word that tells whether it is frozen and how long it is. -/
def ringReport (s : State) : List Byte :=
  leBytes 4 (b2n s.dep.frozen * 2 ^ 31 + s.dep.ring.length) ++ s.dep.ring.flatMap fun w => leBytes 4 w.toNat

/-- The bytes that a selector names (Table 15.6), with the state after reading them; none for another selector, and for
selector 1 also whether some list entry could not be read. -/
def telemetry (s : State) (sel : Nat) : Option (List Byte × Bool × State) :=
  match sel with
  | 1 => let r := countersNow s
         some (r.1.flatMap (leBytes 8), (counterList s).1.any (·.isNone), r.2)
  | 2 => some (ageReports s, false, s)
  | 3 => some (ringReport s, false, s)
  | 4 => some (s.dep.faultLog.flatMap fun r => r.flatMap fun w => leBytes 4 w.toNat, false, s)
  | 5 => some ((List.range 256).flatMap fun q => leBytes 8 (depQstatus (queueAt s q)), false, s)
  | _ => none

/-- A frozen incident ring released: it fills again (R595). -/
def releaseRing (s : State) : State := if !s.dep.frozen then s else { s with dep := { s.dep with frozen := false, countdown := none } }

/-- TELEMETRY_READ (R602). -/
def execTelemetryRead (p : Packet) (hv : HostView) (s : State) : Host.Outcome State Fault Refusal :=
  command 0x0703 p (.telemetryRead p hv) (fun s fn =>
    let sel := prm p 0 0 16
    match telemetry s sel with
    | none => no s p stBadParam
    | some (bs, bad, s1) =>
      if bad then no s p stMemUe
      else
        let s2 := if sel = 3 && bitAt (prm p 0 0 17) 16 then releaseRing s1 else s1
        match allocWindow s fn bs.length with
        | none => no s p stBusy
        | some _ => withWindow s2 p fn bs.length fun s3 off => windowed s3 off (doneC0 p bs.length) (clean bs)) s

end Sys2Proof.Machine
end

