-- ==== Sys2Proof/Machine/Dispatch.lean ====
section
/-!
DEFINITION. The meaning of every command: one arm per constructor of `Instr`.
-/
namespace Sys2Proof.Machine

def exec (i : Instr) (s : State) : Host.Outcome State Fault Refusal :=
  match i with
  | .deviceIdentify p hv => Sys2Proof.Machine.execDeviceIdentify p hv s
  | .deviceInit p hv => Sys2Proof.Machine.execDeviceInit p hv s
  | .deviceQuiesce p hv => Sys2Proof.Machine.execDeviceQuiesce p hv s
  | .deviceResume p hv => Sys2Proof.Machine.execDeviceResume p hv s
  | .deviceReset p hv => Sys2Proof.Machine.execDeviceReset p hv s
  | .powerSet p hv => Sys2Proof.Machine.execPowerSet p hv s
  | .maintEnter p hv => Sys2Proof.Machine.execMaintEnter p hv s
  | .maintExit p hv => Sys2Proof.Machine.execMaintExit p hv s
  | .queueCreate p hv => Sys2Proof.Machine.execQueueCreate p hv s
  | .queueDelete p hv => Sys2Proof.Machine.execQueueDelete p hv s
  | .contextCreate p hv => Sys2Proof.Machine.execContextCreate p hv s
  | .contextDestroy p hv => Sys2Proof.Machine.execContextDestroy p hv s
  | .contextPolicy p hv => Sys2Proof.Machine.execContextPolicy p hv s
  | .contextPreempt p hv => Sys2Proof.Machine.execContextPreempt p hv s
  | .contextResume p hv => Sys2Proof.Machine.execContextResume p hv s
  | .contextSwap p hv => Sys2Proof.Machine.execContextSwap p hv s
  | .autoEvict => Sys2Proof.Machine.execAutoEvict s
  | .dmaSubmit p hv => Sys2Proof.Machine.execDmaSubmit p hv s
  | .copy q j hv => Sys2Proof.Machine.execCopy q j hv s
  | .gather q j hv => Sys2Proof.Machine.execGather q j hv s
  | .scatter q j hv => Sys2Proof.Machine.execScatter q j hv s
  | .convert q j hv => Sys2Proof.Machine.execConvert q j hv s
  | .chanLoad q j => Sys2Proof.Machine.execChanLoad q j s
  | .chanStore q j => Sys2Proof.Machine.execChanStore q j s
  | .dmaFence q j => Sys2Proof.Machine.execDmaFence q j s
  | .memFill p hv => Sys2Proof.Machine.execMemFill p hv s
  | .screedMaint p hv => Sys2Proof.Machine.execScreedMaint p hv s
  | .retire p hv => Sys2Proof.Machine.execRetire p hv s
  | .retireList p hv => Sys2Proof.Machine.execRetireList p hv s
  | .retireClear p hv => Sys2Proof.Machine.execRetireClear p hv s
  | .reloadRange p hv => Sys2Proof.Machine.execReloadRange p hv s
  | .release p hv => Sys2Proof.Machine.execRelease p hv s
  | .itinLoad p hv img => Sys2Proof.Machine.execItinLoad p hv img s
  | .itinUnload p hv => Sys2Proof.Machine.execItinUnload p hv s
  | .itinRun p hv => Sys2Proof.Machine.execItinRun p hv s
  | .caravanForm p hv ans => Sys2Proof.Machine.execCaravanForm p hv ans s
  | .caravanDisband p hv => Sys2Proof.Machine.execCaravanDisband p hv s
  | .step p hv => Sys2Proof.Machine.execStep p hv s
  | .prefixHash p hv => Sys2Proof.Machine.execPrefixHash p hv s
  | .prefixLookup p hv => Sys2Proof.Machine.execPrefixLookup p hv s
  | .pageAlloc p hv => Sys2Proof.Machine.execPageAlloc p hv s
  | .pageRef p hv => Sys2Proof.Machine.execPageRef p hv s
  | .pageFree p hv => Sys2Proof.Machine.execPageFree p hv s
  | .pageRead p hv => Sys2Proof.Machine.execPageRead p hv s
  | .pageWrite p hv => Sys2Proof.Machine.execPageWrite p hv s
  | .blockTableRead p hv => Sys2Proof.Machine.execBlockTableRead p hv s
  | .tenantSet p hv => Sys2Proof.Machine.execTenantSet p hv s
  | .modelLoad p hv => Sys2Proof.Machine.execModelLoad p hv s
  | .modelUnload p hv => Sys2Proof.Machine.execModelUnload p hv s
  | .adapterLoad p hv => Sys2Proof.Machine.execAdapterLoad p hv s
  | .adapterFree p hv => Sys2Proof.Machine.execAdapterFree p hv s
  | .grammarLoad p hv => Sys2Proof.Machine.execGrammarLoad p hv s
  | .grammarFree p hv => Sys2Proof.Machine.execGrammarFree p hv s
  | .fabricManage p hv own sent => Sys2Proof.Machine.execFabricManage p hv own sent s
  | .fabricRelease p hv => Sys2Proof.Machine.execFabricRelease p hv s
  | .fabricWrite p hv => Sys2Proof.Machine.execFabricWrite p hv s
  | .fabricMgmt p hv => Sys2Proof.Machine.execFabricMgmt p hv s
  | .eventWait p hv => Sys2Proof.Machine.execEventWait p hv s
  | .logDrain p hv => Sys2Proof.Machine.execLogDrain p hv s
  | .telemetryRead p hv => Sys2Proof.Machine.execTelemetryRead p hv s
  | .attest p hv bad => Sys2Proof.Machine.execAttest p hv bad s
  | .fwStage p hv => Sys2Proof.Machine.execFwStage p hv s
  | .fwActivate p hv bad => Sys2Proof.Machine.execFwActivate p hv bad s
  | .signStatus p hv => Sys2Proof.Machine.execSignStatus p hv s
  | .packetFetch hv lost => Sys2Proof.Machine.execPacketFetch hv lost s
  | .hubSqTail fn n v => Sys2Proof.Machine.execHubSqTail fn n v s
  | .hubCqHead fn n v => Sys2Proof.Machine.execHubCqHead fn n v s
  | .hubSqHalt fn k v => Sys2Proof.Machine.execHubSqHalt fn k v s
  | .hubCmdCtrlEnable v => Sys2Proof.Machine.execHubCmdCtrlEnable v s
  | .registerWrite fn off bytes ep => Sys2Proof.Machine.execRegisterWrite fn off bytes ep s
  | .nop st => Sys2Proof.Machine.execNop st s
  | .dot st => Sys2Proof.Machine.execDot st s
  | .add st => Sys2Proof.Machine.execAdd st s
  | .mul st => Sys2Proof.Machine.execMul st s
  | .fma st => Sys2Proof.Machine.execFma st s
  | .max st => Sys2Proof.Machine.execMax st s
  | .min st => Sys2Proof.Machine.execMin st s
  | .exp2 st => Sys2Proof.Machine.execExp2 st s
  | .rsqrt st => Sys2Proof.Machine.execRsqrt st s
  | .recip st => Sys2Proof.Machine.execRecip st s
  | .mov st => Sys2Proof.Machine.execMov st s
  | .cvt st => Sys2Proof.Machine.execCvt st s
  | .benc st => Sys2Proof.Machine.execBenc st s
  | .ld st => Sys2Proof.Machine.execLd st s
  | .st st => Sys2Proof.Machine.execSt st s
  | .sld st => Sys2Proof.Machine.execSld st s
  | .sst st => Sys2Proof.Machine.execSst st s
  | .satom st => Sys2Proof.Machine.execSatom st s
  | .fence st => Sys2Proof.Machine.execFence st s
  | .screedReturn die array cell c => Sys2Proof.Machine.execScreedReturn die array cell c s
  | .fenceDone die array cell c => Sys2Proof.Machine.execFenceDone die array cell c s
  | .tileEnd die array => Sys2Proof.Machine.execTileEnd die array s
  | .activationStrobe die array words => Sys2Proof.Machine.execActivationStrobe die array words s
  | .rampStep die array => Sys2Proof.Machine.execRampStep die array s
  | .shadowLoaded die array => Sys2Proof.Machine.execShadowLoaded die array s
  | .prefetchDone die array bind => Sys2Proof.Machine.execPrefetchDone die array bind s
  | .drainDone die array ecc => Sys2Proof.Machine.execDrainDone die array s ecc
  | .stopRequest die array late => Sys2Proof.Machine.execStopRequest die array s late
  | .heldRelease die array => Sys2Proof.Machine.execHeldRelease die array s
  | .tileWatchdog die array => Sys2Proof.Machine.execTileWatchdog die array s
  | .clusterClockLoss die cluster => Sys2Proof.Machine.execClusterClockLoss die cluster s
  | .aryClrCounters die v => Sys2Proof.Machine.execAryClrCounters die v s
  | .sliceAccess a tag data => Sys2Proof.Machine.execSliceAccess a tag data s
  | .lineFill flips => Sys2Proof.Machine.execLineFill flips s
  | .writebackDone slice => Sys2Proof.Machine.execWritebackDone slice s
  | .atomicPerform slice => Sys2Proof.Machine.execAtomicPerform slice s
  | .commitNotice dpa => Sys2Proof.Machine.execCommitNotice dpa s
  | .skimAccess issuer write addr value poison slot => Sys2Proof.Machine.execSkimAccess issuer write addr value poison s slot
  | .skimChannelService stack channel flips => Sys2Proof.Machine.execSkimChannelService stack channel flips s
  | .writeback die => Sys2Proof.Machine.execWriteback die s
  | .wbInvalidate die => Sys2Proof.Machine.execWbInvalidate die s
  | .clearKeep die => Sys2Proof.Machine.execClearKeep die s
  | .maintDone die => Sys2Proof.Machine.execMaintDone die s
  | .scdMaintRange die v => Sys2Proof.Machine.execScdMaintRange die v s
  | .scdClrCounters die => Sys2Proof.Machine.execScdClrCounters die s
  | .skmClrCounters die => Sys2Proof.Machine.execSkmClrCounters die s
  | .bankAccess source issuer write dpa len data poison flips => Sys2Proof.Machine.execBankAccess source issuer write dpa len data poison flips s
  | .refresh stack die bank => Sys2Proof.Machine.execRefresh stack die bank s
  | .mergeWindowClose stack flips => Sys2Proof.Machine.execMergeWindowClose stack flips s
  | .scrubVisit stack flips => Sys2Proof.Machine.execScrubVisit stack flips s
  | .controlSpaceAccess issuer write dpa n v poison => Sys2Proof.Machine.execControlSpaceAccess issuer write dpa n v poison s
  | .stkScrubCtrl stack v => Sys2Proof.Machine.execStkScrubCtrl stack v s
  | .stkClrCounters stack v => Sys2Proof.Machine.execStkClrCounters stack v s
  | .stackFault stack => Sys2Proof.Machine.execStackFault stack s
  | .trwStart t v => Sys2Proof.Machine.execTrwStart t v s
  | .trwKill t v => Sys2Proof.Machine.execTrwKill t v s
  | .trwClrCounters t v => Sys2Proof.Machine.execTrwClrCounters t v s
  | .trowelLaunch t => Sys2Proof.Machine.execTrowelLaunch t s
  | .trwXNop t => Sys2Proof.Machine.execTrwXNop t s
  | .trwOpen t flips => Sys2Proof.Machine.execTrwOpen t flips s
  | .trwStream t => Sys2Proof.Machine.execTrwStream t s
  | .trwLoadq t => Sys2Proof.Machine.execTrwLoadq t s
  | .trwStore t => Sys2Proof.Machine.execTrwStore t s
  | .trwCommit t => Sys2Proof.Machine.execTrwCommit t s
  | .trwEnd t => Sys2Proof.Machine.execTrwEnd t s
  | .trwSetp t => Sys2Proof.Machine.execTrwSetp t s
  | .trwAddp t => Sys2Proof.Machine.execTrwAddp t s
  | .trwLoop t => Sys2Proof.Machine.execTrwLoop t s
  | .trwWiden t => Sys2Proof.Machine.execTrwWiden t s
  | .trwCNop t => Sys2Proof.Machine.execTrwCNop t s
  | .trwMac t => Sys2Proof.Machine.execTrwMac t s
  | .trwMacs t => Sys2Proof.Machine.execTrwMacs t s
  | .trwMacb t => Sys2Proof.Machine.execTrwMacb t s
  | .trwShift t => Sys2Proof.Machine.execTrwShift t s
  | .trwCMax t => Sys2Proof.Machine.execTrwCMax t s
  | .trwCAdd t => Sys2Proof.Machine.execTrwCAdd t s
  | .trwZero t => Sys2Proof.Machine.execTrwZero t s
  | .trwMova t => Sys2Proof.Machine.execTrwMova t s
  | .spanExpiry t => Sys2Proof.Machine.execSpanExpiry t s
  | .heldResume t => Sys2Proof.Machine.execHeldResume t s
  | .channelWindow t b => Sys2Proof.Machine.execChannelWindow t b s
  | .trowelClusterDisable stack die => Sys2Proof.Machine.execTrowelClusterDisable stack die s
  | .rdcSum stack w => Sys2Proof.Machine.execRdcSum stack w s
  | .rdcMax stack w => Sys2Proof.Machine.execRdcMax stack w s
  | .rdcSoftmax stack w => Sys2Proof.Machine.execRdcSoftmax stack w s
  | .rdcMerge stack w => Sys2Proof.Machine.execRdcMerge stack w s
  | .rdcNorm stack w => Sys2Proof.Machine.execRdcNorm stack w s
  | .rdcRms stack w => Sys2Proof.Machine.execRdcRms stack w s
  | .reducerJobStart stack => Sys2Proof.Machine.execReducerJobStart stack s
  | .reducerJobDone stack => Sys2Proof.Machine.execReducerJobDone stack s
  | .bell => Sys2Proof.Machine.execBell s
  | .bellFrame port caravan bits => Sys2Proof.Machine.execBellFrame port caravan bits s
  | .frameTimeout port => Sys2Proof.Machine.execFrameTimeout port s
  | .epochStart => Sys2Proof.Machine.execEpochStart s
  | .itnStretch v => Sys2Proof.Machine.execItnStretch v s
  | .itnClrCounters v => Sys2Proof.Machine.execItnClrCounters v s
  | .manifestAdmit sent pages => Sys2Proof.Machine.execManifestAdmit sent pages s
  | .waystationRelease => Sys2Proof.Machine.execWaystationRelease s
  | .arrivalRelease j => Sys2Proof.Machine.execArrivalRelease j s
  | .waystationMiss j => Sys2Proof.Machine.execWaystationMiss j s
  | .resume => Sys2Proof.Machine.execResume s
  | .resumeTimeout => Sys2Proof.Machine.execResumeTimeout s
  | .phaseStart => Sys2Proof.Machine.execPhaseStart s
  | .schedSlot => Sys2Proof.Machine.execSchedSlot s
  | .emit => Sys2Proof.Machine.execEmit s
  | .recode => Sys2Proof.Machine.execRecode s
  | .sampleRow lane => Sys2Proof.Machine.execSampleRow lane s
  | .stencilRow lane => Sys2Proof.Machine.execStencilRow lane s
  | .adapterLoadDone slot => Sys2Proof.Machine.execAdapterLoadDone slot s
  | .smpSel v => Sys2Proof.Machine.execSmpSel v s
  | .stnSel v => Sys2Proof.Machine.execStnSel v s
  | .ldgEntrySel v => Sys2Proof.Machine.execLdgEntrySel v s
  | .smpClrCounters v => Sys2Proof.Machine.execSmpClrCounters v s
  | .stnClrCounters v => Sys2Proof.Machine.execStnClrCounters v s
  | .ldgClrCounters v => Sys2Proof.Machine.execLdgClrCounters v s
  | .pfxClrCounters v => Sys2Proof.Machine.execPfxClrCounters v s
  | .fabClrCounters v => Sys2Proof.Machine.execFabClrCounters v s
  | .portEnable port v => Sys2Proof.Machine.execPortEnable port v s
  | .trainRetry port => Sys2Proof.Machine.execTrainRetry port s
  | .detect port => Sys2Proof.Machine.execDetect port s
  | .bellSync port => Sys2Proof.Machine.execBellSync port s
  | .equalize port ok => Sys2Proof.Machine.execEqualize port ok s
  | .align port skew => Sys2Proof.Machine.execAlign port skew s
  | .delay port delay => Sys2Proof.Machine.execDelay port delay s
  | .trainingTimeout port => Sys2Proof.Machine.execTrainingTimeout port s
  | .linkLoss port => Sys2Proof.Machine.execLinkLoss port s
  | .flitReceive port bytes codeword symbols => Sys2Proof.Machine.execFlitReceive port bytes codeword symbols s
  | .controlFlit port seq nak tollLane tolls => Sys2Proof.Machine.execControlFlit port seq nak tollLane tolls s
  | .fabForward port => Sys2Proof.Machine.execFabForward port s
  | .escapeTimeout => Sys2Proof.Machine.execEscapeTimeout s
  | .routeWaitTimeout => Sys2Proof.Machine.execRouteWaitTimeout s
  | .bulkResponseTimeout id => Sys2Proof.Machine.execBulkResponseTimeout id s
  | .helloTimer port => Sys2Proof.Machine.execHelloTimer port s
  | .fabWrite port => Sys2Proof.Machine.execFabWrite port s
  | .fabWack port => Sys2Proof.Machine.execFabWack port s
  | .fabRead port => Sys2Proof.Machine.execFabRead port s
  | .fabReadResp port => Sys2Proof.Machine.execFabReadResp port s
  | .fabAtomic port => Sys2Proof.Machine.execFabAtomic port s
  | .fabAtomicResp port => Sys2Proof.Machine.execFabAtomicResp port s
  | .fabTree port => Sys2Proof.Machine.execFabTree port s
  | .mgmtHello port => Sys2Proof.Machine.execMgmtHello port s
  | .mgmtRead port => Sys2Proof.Machine.execMgmtRead port s
  | .mgmtWrite port => Sys2Proof.Machine.execMgmtWrite port s
  | .mgmtResp port => Sys2Proof.Machine.execMgmtResp port s
  | .mgmtNotice port => Sys2Proof.Machine.execMgmtNotice port s
  | .mgmtClaim port => Sys2Proof.Machine.execMgmtClaim port s
  | .fabLeave port => Sys2Proof.Machine.execFabLeave port s
  | .bar2Read fn off n => Sys2Proof.Machine.execBar2Read fn off n s
  | .bar2Write fn off bytes ep => Sys2Proof.Machine.execBar2Write fn off bytes ep s
  | .atomicop fn off op size x y => Sys2Proof.Machine.execAtomicop fn off op size x y s
  | .flrVf v => Sys2Proof.Machine.execFlrVf v s
  | .flrPf => Sys2Proof.Machine.execFlrPf s
  | .hotReset => Sys2Proof.Machine.execHotReset s
  | .modPerstN asserted => Sys2Proof.Machine.execModPerstN asserted s
  | .d3hot fn on => Sys2Proof.Machine.execD3hot fn on s
  | .vfEnable on n => Sys2Proof.Machine.execVfEnable on n s
  | .vectorUnmask fn vec => Sys2Proof.Machine.execVectorUnmask fn vec s
  | .pciBar2Base v => Sys2Proof.Machine.execPciBar2Base v s
  | .pciVfCfg v => Sys2Proof.Machine.execPciVfCfg v s
  | .pciVfXlat vf v => Sys2Proof.Machine.execPciVfXlat vf v s
  | .pciHostTime v => Sys2Proof.Machine.execPciHostTime v s
  | .ptmUpdate ns => Sys2Proof.Machine.execPtmUpdate ns s
  | .dmaChanCfg c v => Sys2Proof.Machine.execDmaChanCfg c v s
  | .dmaChanValue c v => Sys2Proof.Machine.execDmaChanValue c v s
  | .dmaChanFeed c n v => Sys2Proof.Machine.execDmaChanFeed c n v s
  | .feedProcess c => Sys2Proof.Machine.execFeedProcess c s
  | .wake x => Sys2Proof.Machine.execWake x s
  | .modWakeN asserted => Sys2Proof.Machine.execModWakeN asserted s
  | .powerSample module_ compute stks hub => Sys2Proof.Machine.execPowerSample module_ compute stks hub s
  | .budgetInterval => Sys2Proof.Machine.execBudgetInterval s
  | .dutyDelay unit took => Sys2Proof.Machine.execDutyDelay unit took s
  | .pwrClrCounters v => Sys2Proof.Machine.execPwrClrCounters v s
  | .sensorSample index temp => Sys2Proof.Machine.execSensorSample index temp s
  | .deferredFlashWrite => Sys2Proof.Machine.execDeferredFlashWrite s
  | .coolantUpdate freq => Sys2Proof.Machine.execCoolantUpdate freq s
  | .lowFlow => Sys2Proof.Machine.execLowFlow s
  | .colAnnounce v => Sys2Proof.Machine.execColAnnounce v s
  | .inputLoss => Sys2Proof.Machine.execInputLoss s
  | .inputLossEnd n => Sys2Proof.Machine.execInputLossEnd n s
  | .inputReturn volts => Sys2Proof.Machine.execInputReturn volts s
  | .standbyChange volts => Sys2Proof.Machine.execStandbyChange volts s
  | .push q w poison epoch => Sys2Proof.Machine.execPush q w poison epoch s
  | .pop q upset link => Sys2Proof.Machine.execPop q upset link s
  | .flush v => Sys2Proof.Machine.execFlush v s
  | .room q => Sys2Proof.Machine.execRoom q s
  | .depQcfgLimit v => Sys2Proof.Machine.execDepQcfgLimit v s
  | .depClrCounters v => Sys2Proof.Machine.execDepClrCounters v s
  | .alarmPush => Sys2Proof.Machine.execAlarmPush s
  | .counterSample => Sys2Proof.Machine.execCounterSample s
  | .incidentFreeze => Sys2Proof.Machine.execIncidentFreeze s
  | .ageingSample ms => Sys2Proof.Machine.execAgeingSample ms s
  | .eyeMarginSample ms => Sys2Proof.Machine.execEyeMarginSample ms s
  | .dailyPoint => Sys2Proof.Machine.execDailyPoint s
  | .qmWatchdog core => Sys2Proof.Machine.execQmWatchdog core s
  | .engineWatchdog issuer => Sys2Proof.Machine.execEngineWatchdog issuer s
  | .dieFault bridge n => Sys2Proof.Machine.execDieFault bridge n s
  | .bootStart => Sys2Proof.Machine.execBootStart s
  | .hubUp pass => Sys2Proof.Machine.execHubUp pass s
  | .retained => Sys2Proof.Machine.execRetained s
  | .blob => Sys2Proof.Machine.execBlob s
  | .image => Sys2Proof.Machine.execImage s
  | .signState => Sys2Proof.Machine.execSignState s
  | .boot v => Sys2Proof.Machine.execBoot v s
  | .writeBlob v => Sys2Proof.Machine.execWriteBlob v s
  | .nextTreeBuild => Sys2Proof.Machine.execNextTreeBuild s
  | .doeIdentity word payload => Sys2Proof.Machine.execDoeIdentity word payload s
  | .doeCertificate word payload => Sys2Proof.Machine.execDoeCertificate word payload s
  | .doeMeasurement word payload bad => Sys2Proof.Machine.execDoeMeasurement word payload bad s
  | .doeSignStatus word payload => Sys2Proof.Machine.execDoeSignStatus word payload s
  | .smbIdentity x => Sys2Proof.Machine.execSmbIdentity x s
  | .smbStatus x => Sys2Proof.Machine.execSmbStatus x s
  | .smbSensorSel x => Sys2Proof.Machine.execSmbSensorSel x s
  | .smbSensor x => Sys2Proof.Machine.execSmbSensor x s
  | .smbPower x => Sys2Proof.Machine.execSmbPower x s
  | .smbCoolant x => Sys2Proof.Machine.execSmbCoolant x s
  | .smbLastAlarm x => Sys2Proof.Machine.execSmbLastAlarm x s
  | .smbReset x => Sys2Proof.Machine.execSmbReset x s
  | .alertAck x => Sys2Proof.Machine.execAlertAck x s
  | .hostLinkTrained rate width flit => Sys2Proof.Machine.execHostLinkTrained rate width flit s
  | .completionTimeout q j => Sys2Proof.Machine.execCompletionTimeout q j s
  | .caravanFormTimeout => Sys2Proof.Machine.execCaravanFormTimeout s
  | .holdupOkChange energy capacity => Sys2Proof.Machine.execHoldupOkChange energy capacity s
  | .hubSramUe index => Sys2Proof.Machine.execHubSramUe index s
  | .bar2Resize fn size => Sys2Proof.Machine.execBar2Resize fn size s
  | .doeDiscovery index => Sys2Proof.Machine.execDoeDiscovery index s

end Sys2Proof.Machine
end

