-- ==== Sys2Proof/Machine/Settle.lean ====
section
/-!
DEFINITION. What the block does of itself while no command waits: requests and commands that had to wait go on as soon as
what they waited for is gone. Each rule answers the state after one such act, none where there is nothing to do.
-/
namespace Sys2Proof.Machine

/-- The state that a command leaves. -/
def after (i : Instr) (s : State) : State := match exec i s with | .next t => t | _ => s

/-- Host requests that waited behind a held write of their function are performed in order (R294, R295, R559). -/
def settleWaits (s : State) : Option State :=
  let held := fun (fn : Nat) => s.mem.stks.any fun k => k.held.any fun h => h.issuer == hostIssuer fn
  match s.pci.waits.find? fun w => !held w.1 with
  | none => none
  | some w =>
    let mine := s.pci.waits.filter fun x => x.1 == w.1
    let s1 := { s with pci := { s.pci with waits := s.pci.waits.filter fun x => x.1 != w.1 } }
    let t := mine.foldl (fun s x => after x.2 s) s1
    if (t.pci.waits.filter fun x => x.1 == w.1) = mine then none else some t

/-- Notices that the member owes its lead are sent (R620). -/
def settleNotices (s : State) : Option State := if s.flt.notices.isEmpty then none else some (sendNotices s)

/-- Contexts of a function that was reset are destroyed once their runs have ended (R536). -/
def settleDoomed (s : State) : Option State :=
  if s.cmd.doomed.any fun k => !(runOf s k).active then some (endDoomed s) else none

/-- A RETIRE goes on once the trowel of its bank has stopped (R207). -/
def settleRetire (s : State) (c : InProg) : Option State :=
  match retireTarget s c.pkt with
  | none => none
  | some r =>
    if retireReady s r then
      let x := retireReply s c.pkt r (c.window.getD 0)
      some (launchWaiting (completeProg x.1 c x.2) (retireTrowel r))
    else none

/-- A command in progress that can complete now, by its opcode. -/
def settleCommand (s : State) (c : InProg) : Option State :=
  match c.reply with
  | some r => if heldWrites s = 0 then some (completeProg s c r) else none
  | none =>
    if c.op = 0x0103 then (if s.cmd.inProg = [c] then some (completeProg (setWork s .quiesced) c (done c.pkt)) else none)
    else if c.op = 0x0106 then (if powerDue s c then some (settlePower s c) else none)
    else if c.op = 0x010A then
      (if sqBusy s (nth c.args 1 0) c.pkt then none
       else some (removeQueue (completeProg s c (doneC0 c.pkt (nth c.args 2 0))) 0 (nth c.args 1 0)))
    else if c.op = 0x010E then (if (runOf s (nth c.args 0 0)).active then none else some (completeProg (blockCtx s (nth c.args 0 0)) c (done c.pkt)))
    else if c.op = 0x0203 then
      (if (c.args.drop 1).all (maintFree s (nth c.args 0 0)) then
        let x := maintAll s (nth c.args 0 0) (c.args.drop 1)
        some (completeProg x.2 c (doneC0 c.pkt x.1))
       else none)
    else if c.op = 0x0204 then settleRetire s c
    else if c.op = 0x0207 then settleReload s c
    else if c.op = 0x0604 then finishMgmt s c
    else if c.op = 0x0803 then (if flashOpen s then some (settleActivate s c) else none)
    else none

/-- The oldest command in progress that can complete now. -/
def settleCommands (s : State) : Option State := s.cmd.inProg.findSome? (settleCommand s)

/-- An undefined opcode at the head of an SQ is answered (R459). -/
def settleBad (s : State) : Option State := if hubRuns s then (badHead s).map fun x => answerBad s x.1 x.2 else none

/-- A descriptor list that has ended frees its DMA queue (R528). -/
def settleDma (s : State) : Option State :=
  (s.dma.runs.map (·.1)).findSome? fun q =>
    let t := finishRun s q
    if (mget t.dma.runs q).isNone then some t else none

/-- The oldest packet that waited and may begin now begins (R478). -/
def settleDeferred (s : State) : Option State := (nextDeferred s).map fun i => after i s

/-- The rules in the order in which they are tried. -/
def settleRules : List (State → Option State) :=
  [settleWaits, settleNotices, settleDoomed, settleCommands, settleBad, settleDma, settleDeferred, mergeStep]

/-- What a step on an empty queue leaves: the first rule that applies, or nothing changed. -/
def settle (s : State) : State := (settleRules.findSome? fun r => r s).getD s

end Sys2Proof.Machine
end

