-- ==== Sys2Proof/Safety.lean ====
section
/-!
DEFINITION. What counts as a safe run: a state whose maps are in canonical form and whose counters stay in range, the
outcome of a step, and the conditions under which a command performs its own effect, in the terms that statements use.
-/
namespace Sys2Proof.Machine

/-- A sparse map in canonical form: keys strictly rising, no value equal to what an unlisted key reads as. -/
def mcanon {α : Type} [DecidableEq α] (d : α) (m : List (Nat × α)) : Bool := msorted m && m.all fun kv => decide (kv.2 ≠ d)

/-- The memory of the stacks in canonical form: data bytes and check differences, neither listing a zero. -/
def Mem.wf (m : Mem) : Bool := mcanon 0 m.dram && mcanon 0 m.chk

/-- A step that answers a next state. -/
def steps (s t : State) : Prop := step s = .next t

/-- A recipe step issues (R92 to R97): its array is ACTIVE with tile `t`, the site's context `x` is enabled, ramped in,
in RUN and at a step of this operation, and both operands that the step needs have a value. -/
structure Issuing (s : State) (st : Site) (op : Nat) (t : Tile) (x : Ctx) (va vb : Opnd) : Prop where
  active : (arrAt s (aryKey st.die st.array)).state = .active
  tile : (arrAt s (aryKey st.die st.array)).active = some t
  ctx : mget (arrAt s (aryKey st.die st.array)).ctxs (st.cell * 16 + st.k % 16) = some x
  slot : atSlot (arrAt s (aryKey st.die st.array)) t x st op = true
  run : x.state = .run
  left : operandA s st op t x = some va
  right : operandB s st op t x = some vb

/-- A trowel in RUN stands at an X-slot operation (Table 6.5): its command `c` is at that slot, and its instruction `w` names
the operation and holds no reserved code. -/
structure AtX (s : State) (x : TSite) (op : Nat) (c : TrwCmd) (w : Nat) : Prop where
  run : (trowelAt s x).state = .run
  cmd : (trowelAt s x).cmd = some c
  slot : c.slot = 0
  word : fetchMicro s x c = w
  clear : uReserved w = false
  op : uXop w = op

/-- A trowel in RUN or COMMIT stands at a C-slot operation. -/
structure AtC (s : State) (x : TSite) (op : Nat) (c : TrwCmd) (w : Nat) : Prop where
  run : (trowelAt s x).state = .run ∨ (trowelAt s x).state = .commit
  cmd : (trowelAt s x).cmd = some c
  slot : c.slot = 2
  word : fetchMicro s x c = w
  op : uCop w = op

/-- A packet at the front of its SQ `q` begins and passes every check of R459 that is not its own, and its own rules act
on `t`, where it has left the queue. -/
structure Begins (s t : State) (op : Nat) (p : Packet) (c : Instr) (q : SQueue) : Prop where
  queue : sqAt s p.sq = some q
  ready : canStart s ⟨op, p, c⟩ q = true
  taken : t = setSq (dropDeferred s ⟨op, p, c⟩) p.sq (q.taking ⟨op, p⟩)
  clean : reservedSet op p = false
  owned : ctxOwned t q.fn (pktCtx p) = true
  physical : pfOnly op = true → q.fn = 0
  allowed : stateAllows t op = true

/-- The opcode and the packet of a command packet (Table 12.4); none for a command that is no packet. -/
def packetOp : Instr → Option (Nat × Packet)
  | .deviceIdentify p _ => some (0x0101, p)
  | .deviceInit p _ => some (0x0102, p)
  | .deviceQuiesce p _ => some (0x0103, p)
  | .deviceResume p _ => some (0x0104, p)
  | .deviceReset p _ => some (0x0105, p)
  | .powerSet p _ => some (0x0106, p)
  | .maintEnter p _ => some (0x0107, p)
  | .maintExit p _ => some (0x0108, p)
  | .queueCreate p _ => some (0x0109, p)
  | .queueDelete p _ => some (0x010A, p)
  | .contextCreate p _ => some (0x010B, p)
  | .contextDestroy p _ => some (0x010C, p)
  | .contextPolicy p _ => some (0x010D, p)
  | .contextPreempt p _ => some (0x010E, p)
  | .contextResume p _ => some (0x010F, p)
  | .contextSwap p _ => some (0x0110, p)
  | .dmaSubmit p _ => some (0x0201, p)
  | .memFill p _ => some (0x0202, p)
  | .screedMaint p _ => some (0x0203, p)
  | .retire p _ => some (0x0204, p)
  | .retireList p _ => some (0x0205, p)
  | .retireClear p _ => some (0x0206, p)
  | .reloadRange p _ => some (0x0207, p)
  | .release p _ => some (0x0208, p)
  | .itinLoad p _ _ => some (0x0301, p)
  | .itinUnload p _ => some (0x0302, p)
  | .itinRun p _ => some (0x0303, p)
  | .caravanForm p _ _ => some (0x0304, p)
  | .caravanDisband p _ => some (0x0305, p)
  | .step p _ => some (0x0401, p)
  | .prefixHash p _ => some (0x0402, p)
  | .prefixLookup p _ => some (0x0403, p)
  | .pageAlloc p _ => some (0x0404, p)
  | .pageRef p _ => some (0x0405, p)
  | .pageFree p _ => some (0x0406, p)
  | .pageRead p _ => some (0x0407, p)
  | .pageWrite p _ => some (0x0408, p)
  | .blockTableRead p _ => some (0x0409, p)
  | .tenantSet p _ => some (0x040A, p)
  | .modelLoad p _ => some (0x0501, p)
  | .modelUnload p _ => some (0x0502, p)
  | .adapterLoad p _ => some (0x0503, p)
  | .adapterFree p _ => some (0x0504, p)
  | .grammarLoad p _ => some (0x0505, p)
  | .grammarFree p _ => some (0x0506, p)
  | .fabricManage p _ _ _ => some (0x0601, p)
  | .fabricRelease p _ => some (0x0602, p)
  | .fabricWrite p _ => some (0x0603, p)
  | .fabricMgmt p _ => some (0x0604, p)
  | .eventWait p _ => some (0x0701, p)
  | .logDrain p _ => some (0x0702, p)
  | .telemetryRead p _ => some (0x0703, p)
  | .attest p _ _ => some (0x0801, p)
  | .fwStage p _ => some (0x0802, p)
  | .fwActivate p _ _ => some (0x0803, p)
  | .signStatus p _ => some (0x0804, p)
  | _ => none

/-- What a packet's row does in the same step after its reply or its beginning. -/
def afterPacket : Instr → State → State
  | .queueDelete p _, s => finishDelete p s
  | .eventWait p _, s => deliverOwn p s
  | _, s => s

/-- A packet at the front of its SQ begins: it has left its queue in `t`, and no check has been made. -/
structure Starts (s t : State) (op : Nat) (p : Packet) (c : Instr) (q : SQueue) : Prop where
  row : packetOp c = some (op, p)
  queue : sqAt s p.sq = some q
  ready : canStart s ⟨op, p, c⟩ q = true
  taken : t = setSq (dropDeferred s ⟨op, p, c⟩) p.sq (q.taking ⟨op, p⟩)

/-- Table 12.6: the work states in which each opcode is legal. -/
def legalTable : List (List Nat × List Work) :=
  let on := [Work.configured, .loaded, .serving]
  [([0x0101, 0x0105, 0x0208, 0x0701, 0x0702, 0x0703, 0x0801, 0x0804], [.cold] ++ on ++ [.caravanLocked, .quiesced, .maintenance, .fault]),
   ([0x0102], [.cold]), ([0x0103], on), ([0x0104, 0x0107], [.quiesced]), ([0x0108, 0x0206, 0x0802, 0x0803], [.maintenance]),
   ([0x0106], [.cold, .configured, .loaded, .quiesced, .fault]),
   ([0x0109, 0x010A], [.cold] ++ on ++ [.caravanLocked, .quiesced, .maintenance]),
   ([0x010B, 0x010C, 0x010D], on ++ [.caravanLocked, .quiesced]), ([0x010E, 0x010F, 0x0110], on),
   ([0x0201, 0x0202, 0x0203], on ++ [.caravanLocked, .maintenance]), ([0x0204, 0x0205], on ++ [.caravanLocked, .quiesced, .maintenance]),
   ([0x0207], [.loaded, .serving, .caravanLocked]), ([0x0301, 0x0302], on ++ [.caravanLocked]), ([0x0303], on), ([0x0304], on),
   ([0x0305], on ++ [.caravanLocked]), ([0x0401], [.serving]), ([0x0404, 0x0405, 0x0406], [.loaded, .serving]),
   ([0x0402, 0x0403, 0x0407, 0x0408, 0x0409, 0x040A, 0x0503, 0x0504, 0x0505, 0x0506], [.loaded, .serving, .caravanLocked]),
   ([0x0501], [.configured]), ([0x0502], [.loaded]),
   ([0x0601, 0x0602, 0x0603, 0x0604], [.cold] ++ on ++ [.quiesced, .maintenance])]

/-- The 64 bytes of a command packet (Table 12.1), multi-byte fields lowest byte first. -/
def packetBytes (op : Nat) (p : Packet) : List Byte :=
  leBytes 2 op ++ leBytes 2 p.flags.toNat ++ leBytes 4 p.tag.toNat ++ leBytes 4 p.ctxWord.toNat ++ leBytes 8 p.deadline.toNat
  ++ leBytes 44 p.params.toNat

/-- What a step of a recipe at a site leaves alone: nothing but the arrays, registers, the counter of free values and, with
an ECC outcome to report, what an event takes; of the arrays only its own, there only its own context, and of scratch only
the words of which `put` holds; of the registers only the counters of its array, with an ECC outcome the die's. -/
structure StepKeeps (s t : State) (st : Site) (put : Nat → Prop) : Prop where
  rest : { t with arrays := s.arrays, regs := s.regs, freeCtr := s.freeCtr, cmd := s.cmd, outbox := s.outbox, pci := s.pci } = s
  quiet : (∀ e ∈ st.ecc, e = .clean) → t.cmd = s.cmd ∧ t.outbox = s.outbox ∧ t.pci = s.pci
  arrays : ∀ a, a ≠ aryKey st.die st.array → arrAt t a = arrAt s a
  array : let x := arrAt s (aryKey st.die st.array)
    { arrAt t (aryKey st.die st.array) with k := x.k, nextCell := x.nextCell, frozen := x.frozen, ctxs := x.ctxs, latches := x.latches,
                                            busDrive := x.busDrive, portK := x.portK, ports := x.ports, flags := x.flags,
                                            wrotePoison := x.wrotePoison, scratch := x.scratch } = x
  ctxs : ∀ i, i ≠ st.cell * 16 + st.k % 16 →
    mget (arrAt t (aryKey st.die st.array)).ctxs i = mget (arrAt s (aryKey st.die st.array)).ctxs i
  scratch : ∀ o, ¬put (o / 8) → scratchAt (arrAt t (aryKey st.die st.array)) o = scratchAt (arrAt s (aryKey st.die st.array)) o
  regs : ∀ a, a ≠ Reg.ARY_ISSUE st.die st.array → a ≠ Reg.ARY_BUBBLE st.die st.array → a ≠ Reg.ARY_STALL st.die st.array →
    ((∀ e ∈ st.ecc, e = .clean) ∨ (a ≠ Reg.ARY_ECC_CNT st.die ∧ a ≠ Reg.ARY_ERR_0 st.die ∧ a ≠ Reg.ARY_ERR_1 st.die)) → reg t a = reg s a

/-- The scratch address of an ST by a context at a step of its tile (R112). -/
def storeOff (st : Site) (t : Tile) (x : Ctx) (step : Nat) : Nat :=
  (bBase (t.bind (sBindA step)) + bOffset (t.bind (sBindA step)) (st.cell / 32) (st.cell % 32) (st.k % 16) x.pass (sImm step)) / 8 * 8

/-- A command of the stacks, their trowels and reducers (chapters 5 and 6), or a recipe step that no slice serves. -/
def nearMemory : Instr → Bool
  | .bankAccess .. | .refresh .. | .mergeWindowClose .. | .scrubVisit .. | .stkScrubCtrl .. | .stkClrCounters .. | .stackFault ..
  | .trwStart .. | .trwKill .. | .trwClrCounters .. | .trowelLaunch .. | .trwXNop .. | .trwOpen .. | .trwStream .. | .trwLoadq ..
  | .trwStore .. | .trwCommit .. | .trwEnd .. | .trwSetp .. | .trwAddp .. | .trwLoop .. | .trwWiden .. | .trwCNop .. | .trwMac ..
  | .trwMacs .. | .trwMacb .. | .trwShift .. | .trwCMax .. | .trwCAdd .. | .trwZero .. | .trwMova .. | .spanExpiry ..
  | .heldResume .. | .channelWindow .. | .trowelClusterDisable .. | .rdcSum .. | .rdcMax .. | .rdcSoftmax .. | .rdcMerge ..
  | .rdcNorm .. | .rdcRms .. | .reducerJobStart .. | .reducerJobDone .. | .nop .. | .dot .. | .add .. | .mul .. | .fma .. | .max ..
  | .min .. | .exp2 .. | .rsqrt .. | .recip .. | .mov .. | .cvt .. | .benc .. | .ld .. | .st .. => true
  | _ => false

end Sys2Proof.Machine
end

