-- ==== Sys2Proof/WellFormed.lean ====
section
/-!
DEFINITION. Which commands are well formed: every operand within the range of what it numbers. The block takes an
ill-formed command as it takes one that names something absent.
-/
namespace Sys2Proof

/-- A packet comes from one of the 256 SQs (R450). -/
def Packet.wf (p : Packet) : Bool := decide (p.sq < 256)
/-- A site of a recipe step: two compute dies of 96 arrays of 1,024 cells. -/
def Site.wf (x : Site) : Bool := decide (x.die < 2) && decide (x.array < 96) && decide (x.cell < 1024)
/-- A trowel: up to twelve stacks of 640. -/
def TSite.wf (x : TSite) : Bool := decide (x.stack < 12) && decide (x.trowel < 640)
/-- An SMBus transaction at one of three speeds. -/
def SmbTxn.wf (x : SmbTxn) : Bool := decide (x.speed < 3)
/-- An access of at most one line by an issuer of Table 4.2, with as many data bytes as it writes. -/
def Access.wf (x : Access) : Bool :=
  decide (x.issuer < 1292) && decide (1 ≤ x.len) && decide (x.dpa % 64 + x.len ≤ 64) && (!x.write || decide (x.data.length = x.len))

/-- Whether a command is well formed. -/
def Instr.wf : Instr → Bool
  | .deviceIdentify p _ => p.wf
  | .deviceInit p _ => p.wf
  | .deviceQuiesce p _ => p.wf
  | .deviceResume p _ => p.wf
  | .deviceReset p _ => p.wf
  | .powerSet p _ => p.wf
  | .maintEnter p _ => p.wf
  | .maintExit p _ => p.wf
  | .queueCreate p _ => p.wf
  | .queueDelete p _ => p.wf
  | .contextCreate p _ => p.wf
  | .contextDestroy p _ => p.wf
  | .contextPolicy p _ => p.wf
  | .contextPreempt p _ => p.wf
  | .contextResume p _ => p.wf
  | .contextSwap p _ => p.wf
  | .dmaSubmit p _ => p.wf
  | .copy q i _ => decide (q < 32) && decide (i < 65536)
  | .gather q i _ => decide (q < 32) && decide (i < 65536)
  | .scatter q i _ => decide (q < 32) && decide (i < 65536)
  | .convert q i _ => decide (q < 32) && decide (i < 65536)
  | .chanLoad q i => decide (q < 32) && decide (i < 65536)
  | .chanStore q i => decide (q < 32) && decide (i < 65536)
  | .dmaFence q i => decide (q < 32) && decide (i < 65536)
  | .memFill p _ => p.wf
  | .screedMaint p _ => p.wf
  | .retire p _ => p.wf
  | .retireList p _ => p.wf
  | .retireClear p _ => p.wf
  | .reloadRange p _ => p.wf
  | .release p _ => p.wf
  | .itinLoad p _ _ => p.wf
  | .itinUnload p _ => p.wf
  | .itinRun p _ => p.wf
  | .caravanForm p _ _ => p.wf
  | .caravanDisband p _ => p.wf
  | .step p _ => p.wf
  | .prefixHash p _ => p.wf
  | .prefixLookup p _ => p.wf
  | .pageAlloc p _ => p.wf
  | .pageRef p _ => p.wf
  | .pageFree p _ => p.wf
  | .pageRead p _ => p.wf
  | .pageWrite p _ => p.wf
  | .blockTableRead p _ => p.wf
  | .tenantSet p _ => p.wf
  | .modelLoad p _ => p.wf
  | .modelUnload p _ => p.wf
  | .adapterLoad p _ => p.wf
  | .adapterFree p _ => p.wf
  | .grammarLoad p _ => p.wf
  | .grammarFree p _ => p.wf
  | .fabricManage p _ _ _ => p.wf
  | .fabricRelease p _ => p.wf
  | .fabricWrite p _ => p.wf
  | .fabricMgmt p _ => p.wf
  | .eventWait p _ => p.wf
  | .logDrain p _ => p.wf
  | .telemetryRead p _ => p.wf
  | .attest p _ _ => p.wf
  | .fwStage p _ => p.wf
  | .fwActivate p _ _ => p.wf
  | .signStatus p _ => p.wf
  | .hubSqTail fn n _ => decide (fn ≤ 64) && decide (n < 256)
  | .hubCqHead fn n _ => decide (fn ≤ 64) && decide (n < 256)
  | .hubSqHalt fn k _ => decide (fn ≤ 64) && decide (k < 4)
  | .registerWrite fn _ bytes _ => decide (fn ≤ 64) && decide (1 ≤ bytes.length ∧ bytes.length ≤ 8)
  | .nop z => z.wf
  | .dot z => z.wf
  | .add z => z.wf
  | .mul z => z.wf
  | .fma z => z.wf
  | .max z => z.wf
  | .min z => z.wf
  | .exp2 z => z.wf
  | .rsqrt z => z.wf
  | .recip z => z.wf
  | .mov z => z.wf
  | .cvt z => z.wf
  | .benc z => z.wf
  | .ld z => z.wf
  | .st z => z.wf
  | .sld z => z.wf
  | .sst z => z.wf
  | .satom z => z.wf
  | .fence z => z.wf
  | .screedReturn die array cell c => decide (die < 2) && decide (array < 96) && decide (cell < 1024) && decide (c < 16)
  | .fenceDone die array cell c => decide (die < 2) && decide (array < 96) && decide (cell < 1024) && decide (c < 16)
  | .tileEnd die array => decide (die < 2) && decide (array < 96)
  | .activationStrobe die array _ => decide (die < 2) && decide (array < 96)
  | .rampStep die array => decide (die < 2) && decide (array < 96)
  | .shadowLoaded die array => decide (die < 2) && decide (array < 96)
  | .prefetchDone die array bind => decide (die < 2) && decide (array < 96) && decide (bind < 8)
  | .drainDone die array _ => decide (die < 2) && decide (array < 96)
  | .stopRequest die array _ => decide (die < 2) && decide (array < 96)
  | .heldRelease die array => decide (die < 2) && decide (array < 96)
  | .tileWatchdog die array => decide (die < 2) && decide (array < 96)
  | .clusterClockLoss die cluster => decide (die < 2) && decide (cluster < 12)
  | .aryClrCounters die _ => decide (die < 2)
  | .sliceAccess a _ _ => a.wf
  | .writebackDone slice => decide (slice < 8)
  | .atomicPerform slice => decide (slice < 8)
  | .commitNotice dpa => decide (dpa < 2 ^ 40)
  | .skimAccess _ _ addr _ _ _ => decide (addr < 2 ^ 40)
  | .skimChannelService stack channel _ => decide (stack < 12) && decide (channel < 32)
  | .writeback die => decide (die < 2)
  | .wbInvalidate die => decide (die < 2)
  | .clearKeep die => decide (die < 2)
  | .maintDone die => decide (die < 2)
  | .scdMaintRange die _ => decide (die < 2)
  | .scdClrCounters die => decide (die < 2)
  | .skmClrCounters die => decide (die < 2)
  | .bankAccess _ _ _ _ len _ _ _ => decide (1 ≤ len ∧ len ≤ 64)
  | .refresh stack die bank => decide (stack < 12) && decide (die < 20) && decide (bank < 64)
  | .mergeWindowClose stack _ => decide (stack < 12)
  | .scrubVisit stack _ => decide (stack < 12)
  | .controlSpaceAccess _ _ _ n _ _ => decide (n = 4 ∨ n = 8)
  | .stkScrubCtrl stack _ => decide (stack < 12)
  | .stkClrCounters stack _ => decide (stack < 12)
  | .stackFault stack => decide (stack < 12)
  | .trwStart t _ => t.wf
  | .trwKill t _ => t.wf
  | .trwClrCounters t _ => t.wf
  | .trowelLaunch t => t.wf
  | .trwXNop t => t.wf
  | .trwOpen t _ => t.wf
  | .trwStream t => t.wf
  | .trwLoadq t => t.wf
  | .trwStore t => t.wf
  | .trwCommit t => t.wf
  | .trwEnd t => t.wf
  | .trwSetp t => t.wf
  | .trwAddp t => t.wf
  | .trwLoop t => t.wf
  | .trwWiden t => t.wf
  | .trwCNop t => t.wf
  | .trwMac t => t.wf
  | .trwMacs t => t.wf
  | .trwMacb t => t.wf
  | .trwShift t => t.wf
  | .trwCMax t => t.wf
  | .trwCAdd t => t.wf
  | .trwZero t => t.wf
  | .trwMova t => t.wf
  | .spanExpiry t => t.wf
  | .heldResume t => t.wf
  | .channelWindow t b => t.wf && decide (b < 2)
  | .trowelClusterDisable stack die => decide (stack < 12) && decide (die < 20)
  | .rdcSum stack _ => decide (stack < 12)
  | .rdcMax stack _ => decide (stack < 12)
  | .rdcSoftmax stack _ => decide (stack < 12)
  | .rdcMerge stack _ => decide (stack < 12)
  | .rdcNorm stack _ => decide (stack < 12)
  | .rdcRms stack _ => decide (stack < 12)
  | .reducerJobStart stack => decide (stack < 12)
  | .reducerJobDone stack => decide (stack < 12)
  | .bellFrame port _ _ => decide (port < 16)
  | .frameTimeout port => decide (port < 16)
  | .arrivalRelease i => decide (i < 65536)
  | .waystationMiss i => decide (i < 65536)
  | .sampleRow lane => decide (lane < 8)
  | .stencilRow lane => decide (lane < 4)
  | .adapterLoadDone slot => decide (slot < 256)
  | .portEnable port _ => decide (port < 16)
  | .trainRetry port => decide (port < 16)
  | .detect port => decide (port < 16)
  | .bellSync port => decide (port < 16)
  | .equalize port _ => decide (port < 16)
  | .align port _ => decide (port < 16)
  | .delay port _ => decide (port < 16)
  | .trainingTimeout port => decide (port < 16)
  | .linkLoss port => decide (port < 16)
  | .flitReceive port bytes _ _ => decide (port < 16) && decide (bytes.length = 128)
  | .controlFlit port seq _ tollLane tolls => decide (port < 16) && decide (seq < 4096) && decide (tollLane < 6) && decide (tolls < 256)
  | .fabForward port => decide (port < 16)
  | .helloTimer port => decide (port < 16)
  | .fabWrite port => decide (port < 16)
  | .fabWack port => decide (port < 16)
  | .fabRead port => decide (port < 16)
  | .fabReadResp port => decide (port < 16)
  | .fabAtomic port => decide (port < 16)
  | .fabAtomicResp port => decide (port < 16)
  | .fabTree port => decide (port < 16)
  | .mgmtHello port => decide (port < 16)
  | .mgmtRead port => decide (port < 16)
  | .mgmtWrite port => decide (port < 16)
  | .mgmtResp port => decide (port < 16)
  | .mgmtNotice port => decide (port < 16)
  | .mgmtClaim port => decide (port < 16)
  | .fabLeave port => decide (port < 16)
  | .bar2Read fn _ _ => decide (fn ≤ 64)
  | .bar2Write fn _ _ _ => decide (fn ≤ 64)
  | .atomicop fn _ _ _ _ _ => decide (fn ≤ 64)
  | .flrVf v => decide (1 ≤ v ∧ v ≤ 64)
  | .d3hot fn _ => decide (fn ≤ 64)
  | .vfEnable _ n => decide (n ≤ 64)
  | .vectorUnmask fn vec => decide (fn ≤ 64) && decide (vec < 256)
  | .pciVfXlat vf _ => decide (1 ≤ vf ∧ vf ≤ 64)
  | .dmaChanCfg c _ => decide (c < 32)
  | .dmaChanValue c _ => decide (c < 32)
  | .dmaChanFeed c n _ => decide (c < 32) && decide (n = 1 ∨ n = 2 ∨ n = 4 ∨ n = 8)
  | .feedProcess c => decide (c < 32)
  | .wake x => x.wf
  | .sensorSample index _ => decide (index ≤ 280)
  | .inputReturn volts => decide (volts < 65536)
  | .standbyChange volts => decide (volts < 65536)
  | .push q _ _ _ => decide (q < 256)
  | .pop q _ _ => decide (q < 256)
  | .room q => decide (q < 256)
  | .dieFault _ n => decide (n < 12)
  | .smbIdentity x => x.wf
  | .smbStatus x => x.wf
  | .smbSensorSel x => x.wf
  | .smbSensor x => x.wf
  | .smbPower x => x.wf
  | .smbCoolant x => x.wf
  | .smbLastAlarm x => x.wf
  | .smbReset x => x.wf
  | .alertAck x => x.wf
  | .hostLinkTrained rate width _ => decide (1 ≤ rate ∧ rate ≤ 7) && decide (1 ≤ width ∧ width ≤ 16)
  | .completionTimeout q i => decide (q < 32) && decide (i < 65536)
  | .bar2Resize fn size => decide (fn ≤ 64) && decide (size ≤ 10)
  | .autoEvict | .packetFetch _ _ | .hubCmdCtrlEnable _ | .lineFill _ | .bell | .epochStart | .itnStretch _
  | .itnClrCounters _ | .manifestAdmit _ _ | .waystationRelease | .resume | .resumeTimeout | .phaseStart
  | .schedSlot | .emit | .recode | .smpSel _ | .stnSel _ | .ldgEntrySel _ | .smpClrCounters _ | .stnClrCounters _
  | .ldgClrCounters _ | .pfxClrCounters _ | .fabClrCounters _ | .escapeTimeout | .routeWaitTimeout
  | .bulkResponseTimeout _ | .flrPf | .hotReset | .modPerstN _ | .pciBar2Base _ | .pciVfCfg _ | .pciHostTime _
  | .ptmUpdate _ | .modWakeN _ | .powerSample _ _ _ _ | .budgetInterval | .dutyDelay _ _ | .pwrClrCounters _
  | .deferredFlashWrite | .coolantUpdate _ | .lowFlow | .colAnnounce _ | .inputLoss | .inputLossEnd _ | .flush _
  | .depQcfgLimit _ | .depClrCounters _ | .alarmPush | .counterSample | .incidentFreeze | .ageingSample _
  | .eyeMarginSample _ | .dailyPoint | .qmWatchdog _ | .engineWatchdog _ | .bootStart | .hubUp _ | .retained
  | .blob | .image | .signState | .boot _ | .writeBlob _ | .nextTreeBuild | .doeIdentity _ _ | .doeCertificate _ _
  | .doeMeasurement _ _ _ | .doeSignStatus _ _ | .caravanFormTimeout | .holdupOkChange _ _ | .hubSramUe _
  | .doeDiscovery _ => true

end Sys2Proof
end

