-- ==== Sys2Proof/Certificates/Slice0/Obligations.lean ====
section
/-!
DEFINITION. The statements for the provers.
-/
open Sys2Proof Sys2Proof.Machine

/-- ADD, MUL, FMA, MAX and MIN (R47, R91, R108): where the step issues, both lanes of dst take the result. -/
def Obligations.LaneSteps : Prop :=
  ∀ (st : Site) (s : State) (t : Tile) (x : Ctx) (va vb : Opnd),
    let i := issueOf st t x va vb
    let put := fun (op : Nat) (r : Nat × Flags) (poison : Bool) => result64 i r.1 poison r.2 (issueState s st op t x va vb)
    let lanes := fun (f : Nat → Nat → Nat → Nat) (g : Int → Int → Int → Int) =>
      lanes2 (if i.int then fun a b c => satI32 (g (intDecode 32 a) (intDecode 32 b) (intDecode 32 c)) else fun a b c => (f a b c, .none))
        va.lo.toNat vb.lo.toNat i.sc.w.toNat
    let bad := va.poison || vb.poison
    (Issuing s st 0x02 t x va vb → exec (.add st) s = .next (put 0x02 (lanes (fun a b _ => f32Add a b) fun a b _ => a + b) bad)) ∧
    (Issuing s st 0x03 t x va vb → exec (.mul st) s = .next (put 0x03 (lanes (fun a b _ => f32Mul a b) fun a b _ => a * b) bad)) ∧
    (Issuing s st 0x04 t x va vb → exec (.fma st) s = .next (put 0x04 (lanes f32Fma fun a b c => a * b + c) (bad || i.sc.poison))) ∧
    (Issuing s st 0x05 t x va vb → exec (.max st) s = .next (put 0x05 (lanes (fun a b _ => f32Max a b) fun a b _ => max a b) bad)) ∧
    (Issuing s st 0x06 t x va vb → exec (.min st) s = .next (put 0x06 (lanes (fun a b _ => f32Min a b) fun a b _ => min a b) bad))

/-- NOP, EXP2, RSQRT, RECIP and MOV (R91, R108): what dst takes where the step issues. -/
def Obligations.UnarySteps : Prop :=
  ∀ (st : Site) (s : State) (t : Tile) (x : Ctx) (va vb : Opnd),
    let i := issueOf st t x va vb
    let a := va.lo.toNat
    let put := fun (op : Nat) (f : Nat → Nat) =>
      result64 i (f (a % 2 ^ 32) % 2 ^ 32 + 2 ^ 32 * (f (a / 2 ^ 32) % 2 ^ 32)) va.poison (Flags.none.or .none) (issueState s st op t x va vb)
    (Issuing s st 0x00 t x va vb → exec (.nop st) s = .next (issueState s st 0x00 t x va vb)) ∧
    (Issuing s st 0x07 t x va vb → exec (.exp2 st) s = .next (put 0x07 (f32Exp2 fun v => Config.exp2Up (BitVec.ofNat 32 v)))) ∧
    (Issuing s st 0x08 t x va vb → exec (.rsqrt st) s = .next (put 0x08 (f32Rsqrt fun v => Config.rsqrtUp (BitVec.ofNat 32 v)))) ∧
    (Issuing s st 0x09 t x va vb → exec (.recip st) s = .next (put 0x09 (f32Recip fun v => Config.recipUp (BitVec.ofNat 32 v)))) ∧
    (Issuing s st 0x0A t x va vb → exec (.mov st) s = .next (result128 i va va.poison va.poison (issueState s st 0x0A t x va vb)))

/-- DOT (R89), CVT and BENC (R113): what dst takes where the step issues. -/
def Obligations.ConvertSteps : Prop :=
  ∀ (st : Site) (s : State) (t : Tile) (x : Ctx) (va vb : Opnd),
    let i := issueOf st t x va vb
    let w := t.word st.cell
    let d := x.reg (sDst i.step)
    let sc := x.reg (sSc i.step)
    let u := fun (op : Nat) => issueState s st op t x va vb
    (Issuing s st 0x01 t x va vb →
      let blk := isBlock (bitsOf (rFmtA w) 0 5) || isBlock (bitsOf (rFmtB w) 0 5)
      let r := dotValue (rFmtA w) (rFmtB w) va.bits vb.bits sc.w.toNat (d.w.toNat % 2 ^ 32)
      exec (.dot st) s = .next (result64 i (setBits d.w.toNat 0 32 r.1)
        (va.poison || vb.poison || d.poison || (blk && sc.poison)) r.2 (u 0x01))) ∧
    (∀ o, Issuing s st 0x0B t x va vb → fmtDecode (rFmtOut w) = some o → isBlock o.code = false →
      let n := elemBits o.code
      let p := 2 * (sImm i.step % 32)
      let mode := fun (e : Nat) => modeFor (convRound o.code o.round) (itinSeed (u 0x0B)) (u 0x0B).itn.seqWord
        (bTag (t.bind (sBindA i.step))) (stepElem i n 0 + p + e)
      let wide := fun (e : Nat) =>
        viaFp32 (if i.int then 0x0A else 1) o.code o.ovf (accVal i.int (bitsOf va.lo.toNat (32 * e) 32))
      let lane := fun (e : Nat) => toScalar o.code (mode e) o.ovf (wide e).1
      exec (.cvt st) s = .next (result64 i
        (setBits (setBits d.w.toNat (n * p) n (lane 0).1) (n * (p + 1)) n (lane 1).1 % 2 ^ 64) (va.poison || d.poison)
        (((lane 0).2.or (wide 0).2).or ((lane 1).2.or (wide 1).2)) (u 0x0B))) ∧
    (∀ o, Issuing s st 0x0C t x va vb → fmtDecode (rFmtOut w) = some o → isBlock o.code = true →
      let n := blockLen o.code
      let wd := elemBits o.code
      let regs := (List.range (n / 2)).map fun r => x.reg (sSa i.step + r)
      let bad := regs.any (·.poison)
      let xs := regs.flatMap fun r => [f32 (r.w.toNat % 2 ^ 32), f32 (r.w.toNat / 2 ^ 32)]
      let e := blockEncode o.code o.elem (fun j => modeFor o.round (itinSeed (u 0x0C)) (u 0x0C).itn.seqWord
        (bTag (t.bind (sBindA i.step))) (stepElem i wd (sImm i.step) + j)) xs
      let num := (e.2.1.foldl (fun (v : Nat × Nat) q => (v.1 + q * 2 ^ v.2, v.2 + wd)) (0, 0)).1
      let fill := fun (y : Ctx) => loopN ((n * wd + 63) / 64) y fun r y =>
        y.set (sDst i.step + r) ⟨BitVec.ofNat 64 (setBits (y.reg (sDst i.step + r)).w.toNat 0 (min 64 (n * wd - 64 * r))
          (num / 2 ^ (64 * r))), bad⟩
      exec (.benc st) s = .next (sendResult i ⟨BitVec.ofNat 64 (setBits d.w.toNat 0 (min 64 (n * wd)) num), none, bad⟩
        (stepFlags i e.2.2 (modCtx (u 0x0C) i.arr st.cell (st.k % 16) fun y =>
          (fill y).set (sSc i.step) ⟨BitVec.ofNat 64 (setBits ((fill y).reg (sSc i.step)).w.toNat 0 8 e.1), bad⟩))))

/-- LD, ST, SLD, SST, SATOM and FENCE (R95, R109, R112, R119, R152, R156, R275): what each does where its step issues. -/
def Obligations.MemorySteps : Prop :=
  ∀ (st : Site) (s : State) (t : Tile) (x : Ctx) (va vb : Opnd),
    let i := issueOf st t x va vb
    let arr := aryKey st.die st.array
    let u := fun (op : Nat) => issueState s st op t x va vb
    let b := t.bind (sBindA i.step)
    let off := bOffset b (st.cell / 32) (st.cell % 32) (st.k % 16) x.pass (sImm i.step)
    let v := x.reg (sSa i.step)
    let waits := fun (q : State) (a : Await) => modCtx q arr st.cell (st.k % 16) fun y => { y with state := .wait, await := some a }
    (Issuing s st 0x10 t x va vb →
      let o := (bBase b + off) / 16 * 16
      let lo := scratchAt (arrAt (u 0x10) arr) o
      let hi := scratchAt (arrAt (u 0x10) arr) (o + 8)
      let p := lo.poison || eccAt st 0 == .uncorrectable
      let q := hi.poison || eccAt st 1 == .uncorrectable
      exec (.ld st) s = .next (result128 i ⟨lo.w, some hi.w, p || q⟩ p q
        (useBank (u 0x10) arr st.k (st.cell / 32) (1 + st.cell % 32) o))) ∧
    (Issuing s st 0x11 t x va vb →
      let o := (bBase b + off) / 8 * 8
      (drainPending (arrAt s arr) o = false → exec (.st st) s =
        .next (modArr (useBank (u 0x11) arr st.k (st.cell / 32) (1 + st.cell % 32) o) arr fun a =>
          { (setScratch a o v) with wrotePoison := a.wrotePoison || v.poison })) ∧
      (drainPending (arrAt s arr) o = true → exec (.st st) s =
        .next (bump (modArr s arr fun a => if a.frozen.contains st.cell then a
          else { (a.slotAt st.k st.cell) with frozen := a.frozen ++ [st.cell] }) (Reg.ARY_STALL st.die st.array) 32 32 1))) ∧
    (Issuing s st 0x12 t x va vb →
      let dpa := bDpa b + off / 8 * 8
      let who := Waiter.ctx arr st.cell (st.k % 16)
      let w := waits (u 0x12) (.queued i.step)
      let r := readMem w 1 (bHint b) dpa 8
      exec (.sld st) s = .next (
        if isNarrow w (bHint b) dpa 8 then narrowAccess w arr (ctxTag i) none false (bHint b) dpa 0 false who
        else if sliceFault w (homeSlice w dpa) = false ∧ waitsHeld w arr (ctxTag i) false false dpa = true then
          joinHeld w ⟨arr, ctxTag i, 1, false, bHint b, dpa, 8, [], false, who⟩
        else deliver r.2 who arr dpa r.1)) ∧
    (Issuing s st 0x13 t x va vb →
      let dpa := bDpa b + off / 8 * 8
      let w := u 0x13
      exec (.sst st) s = .next (modArr (
        if isNarrow w (bHint b) dpa 8 then narrowAccess w arr (ctxTag i) none true (bHint b) dpa v.w v.poison .none
        else if dpa % 8 = 0 then lineWriteBy w 1 arr (ctxTag i) (bHint b) dpa (leBytes 8 v.w.toNat) v.poison
        else writeMem w 1 arr (bHint b) dpa ((leBytes 8 v.w.toNat).map fun y => ⟨y, v.poison⟩)) arr fun a =>
          { a with wrotePoison := a.wrotePoison || v.poison })) ∧
    (Issuing s st 0x14 t x va vb →
      let dpa := bDpa b + off / 8 * 8
      let v2 := x.reg (sSa i.step + 1)
      let q : AtomReq := { slice := homeSlice (u 0x14) dpa, issuer := arr, slot := none, aop := sAop i.step, dpa := dpa, x := v.w,
                           y := v2.w, keep := bHint b == .keep, poison := v.poison || (sAop i.step == 0x10 && v2.poison),
                           who := .ctx arr st.cell (st.k % 16) }
      (∀ s2, enqueueAtomic (u 0x14) q = some s2 → exec (.satom st) s = .next (waits s2 (.queued i.step))) ∧
      (enqueueAtomic (u 0x14) q = none → exec (.satom st) s = .next (bumpSlice s Reg.SCD_BP q.slice 1))) ∧
    (Issuing s st 0x18 t x va vb →
      exec (.fence st) s = .next (if sFkind i.step = 0 then u 0x18
        else waits (u 0x18) (.fence (sFscope i.step) (u 0x18).itn.schedOut)))

/-- SCREED_RETURN (R95), FENCE_DONE (R275), TILE_END (R96, Table 3.9), RAMP_STEP and SHADOW_LOADED (R116). -/
def Obligations.ArraySteps : Prop :=
  ∀ (die array cell c : Nat) (s : State) (t : Tile) (x : Ctx),
    let arr := aryKey die array
    let a := arrAt s arr
    let woken := fun (y : Ctx) => { y with await := none, state := if rTrip (t.word cell) ≤ y.pass then .done else .run }
    (∀ step v, a.active = some t → mget a.ctxs (cell * 16 + c) = some x → x.state = .wait → x.await = some (.load step v) →
      exec (.screedReturn die array cell c) s = .next (sendFrom arr cell step (a.k + 1) ⟨v.w, none, v.poison⟩
        (modCtx s arr cell c fun y => woken { y with regs := y.regs.set (sDst step) v }))) ∧
    (∀ sc out, a.active = some t → mget a.ctxs (cell * 16 + c) = some x → x.state = .wait → x.await = some (.fence sc out) →
      fenceMet s arr sc out = true → exec (.fenceDone die array cell c) s = .next (modCtx s arr cell c woken)) ∧
    (a.state = .active → a.active = some t → (∀ kv ∈ a.ctxs, kv.2.state = .done) →
      let drains := (List.range 8).filterMap fun b => if bKind (t.bind b) = 3 then some (⟨t.item, b, t.bind b⟩ : DrainReq) else none
      let s1 := setArr s arr (afterSwitch { a with drains := a.drains ++ drains, ended := a.ended ++ [t.item] })
      let s2 := setReg s1 (Reg.ARY_FLAGS die array) (bitsOf a.flags.bits 0 5 + 32 * b2n a.wrotePoison)
      let s3 := setReg s2 (Reg.ARY_TILE die array) (t.id % 2 ^ 16 * 2 ^ 48 + s.bell % 2 ^ 48)
      exec (.tileEnd die array) s = .next (settleItem (runFlags s3 a.flags a.wrotePoison) arr)) ∧
    (a.state = .active → a.ramp < 8 → a.frozen = [] →
      exec (.rampStep die array) s = .next (setArr s arr { a with ramp := a.ramp + 1, k := max a.k (640 * a.ramp),
                                                                  nextCell := if a.k < 640 * a.ramp then 0 else a.nextCell })) ∧
    (a.shadowState = .loading → a.shadow = some t →
      exec (.shadowLoaded die array) s =
        .next (shadowReady (setArr s arr { a with shadowState := .prefetch, bindPending := prefetchMask t }) arr))

/-- PREFETCH_DONE, DRAIN_DONE (R119), STOP_REQUEST (R127), HELD_RELEASE (R129), TILE_WATCHDOG (R124), CLUSTER_CLOCK_LOSS (R132)
and ARY_CLR_COUNTERS (Table 3.12). ACTIVATION_STROBE (R116, R120, R121). -/
def Obligations.ArrayEvents : Prop :=
  (∀ (die array : Nat) (s : State),
    let arr := aryKey die array
    let a := arrAt s arr
    (∀ t bind, a.shadowState = .prefetch → a.shadow = some t → a.bindPending.getLsbD bind = true → tileDeps s t = true →
      (∀ q ∈ a.drains, overlaps (bDpa q.desc) (bLen q.desc) (bDpa (t.bind bind)) (bLen (t.bind bind)) = false) →
      let r := readMem s 1 (bHint (t.bind bind)) (bDpa (t.bind bind)) (bLen (t.bind bind))
      exec (.prefetchDone die array bind) s = .next (shadowReady (modArr r.2 arr fun b =>
        { (scratchWrite b (bBase (t.bind bind)) r.1) with bindPending := b.bindPending &&& ~~~ BitVec.ofNat 8 (2 ^ bind) }) arr)) ∧
    (∀ d ds ecc, a.drains = d :: ds →
      let seen := ecc.filter fun e => decide (8 * e.1 < bLen d.desc)
      let bytes := (scratchBytes a (bBase d.desc) (bLen d.desc)).mapIdx fun i b =>
        (⟨b.b, b.poison || seen.any fun e => e.1 == i / 8 && e.2 == .uncorrectable⟩ : PByte)
      exec (.drainDone die array ecc) s = .next (settleItem (writeMem
        (seen.foldl (fun s e => scratchEcc s arr e.2) (setArr s arr { a with drains := ds })) 1 arr (bHint d.desc) (bDpa d.desc) bytes) arr)) ∧
    (∀ late, a.state = .active ∨ (a.state = .switching ∧ (late = true ∨ a.past96 = true)) ∨
        (a.state = .idle ∧ ¬(a.shadowState = .empty ∧ a.todo = [])) →
      exec (.stopRequest die array late) s = .next (setArr s arr { a with preempt := true })) ∧
    (a.state = .switching → a.past96 = false →
      exec (.stopRequest die array false) s = .next (setArr s arr { a with preempt := true, state := .held })) ∧
    (a.state = .held → exec (.heldRelease die array) s =
      .next (setArr s arr { (afterSwitch { a with preempt := false }) with past96 := true })) ∧
    (∀ t, a.state = .active → a.active = some t → (∃ kv ∈ a.ctxs, kv.2.state ≠ .done) →
      let s2 := setReg (orphan (setArr s arr (afterSwitch a)) arr) (Reg.ARY_WDOG die array) (t.id % 2 ^ 16 * 2 ^ 48 + s.bell % 2 ^ 48)
      exec (.tileWatchdog die array) s = .next (lostWork (raiseIf (logCond (raiseAlarm (aryErr s2 arr) 0x0A arr) 0x11 0x02 0x10 arr t.id)
        (Reg.ARY_CTRL die) 2 0x0010 arr))) ∧
    (∀ cluster, die < 2 → cluster < 12 →
      let lost := loopN 8 s fun n s => modArr s (aryKey die (8 * cluster + n)) fun b =>
        { b with state := .fault, ctxs := [], latches := [], frozen := [] }
      exec (.clusterClockLoss die cluster) s = .next (if ((List.range 8).any fun n =>
          let b := arrAt s (aryKey die (8 * cluster + n))
          b.state == .active || b.state == .switching || !b.todo.isEmpty) then lostWork lost else lost)) ∧
    (∀ v : W64, die < 2 → v.getLsbD 7 = true →
      exec (.aryClrCounters die v) s = .next (loopN 96 (setReg (plainWrite s (Reg.ARY_CTRL die) v.toNat) (Reg.ARY_ECC_CNT die) 0) fun n s =>
        setReg (setReg (setReg s (Reg.ARY_ISSUE die n) 0) (Reg.ARY_BUBBLE die n) 0) (Reg.ARY_STALL die n) 0))) ∧
  (∀ (die array : Nat) (words : Ecc) (s : State) (t : Tile),
    let arr := aryKey die array
    let s0 := modArr (settleItem (shadowReady s arr) arr) arr fun b => { b with past96 := true }
    let a := arrAt s0 arr
    let s1 := { s0 with itn := { s0.itn with begun := s0.itn.begun ++ [t.item] } }
    let active := loadNext { a with state := .active, active := some t, shadow := none, shadowState := .empty, bindPending := 0, k := 0,
                                    nextCell := 0, frozen := [], ramp := 1, ctxs := freshCtxs t, latches := [], busDrive := [],
                                    portK := 0, ports := [], flags := .none, wrotePoison := false }
    (a.state = .switching ∨ a.state = .idle) → a.shadowState = .ready → a.shadow = some t → tileStart s0 t = true →
    exec (.activationStrobe die array words) s = .next (match words with
      | .clean => setArr s1 arr active
      | .corrected => setArr (bump s1 (Reg.ARY_ECC_CNT die) 32 32 1) arr active
      | .uncorrectable => lostWork (raiseIf (aryErr (setArr s1 arr { a with state := .idle, shadowState := .bad }) arr)
          (Reg.ARY_CTRL die) 3 0x0011 arr)))

/-- SLICE_ACCESS (R144, R148), LINE_FILL (R138), WRITEBACK_DONE (R141), ATOMIC_PERFORM (R152, R156) and COMMIT_NOTICE (R149). -/
def Obligations.ScreedAccess : Prop :=
  ∀ (s : State),
    (∀ (a : Access) (tag data : Ecc),
      let u := sliceDataEcc (sliceTagEcc s tag a.dpa) data a.dpa
      let room := 64 - a.dpa % 64
      let bytes := a.data.take room
      let n := if a.write then bytes.length else min a.len room
      let held := ∃ x, findLine u a.dpa = some x ∧ x.2.valid &&& byteMask (a.dpa % 64) n = byteMask (a.dpa % 64) n
      let behind := sliceFault u (homeSlice u a.dpa) = false ∧ waitsHeld u a.issuer 0 false false a.dpa = true
      let fills := (a.hint = .normal ∨ a.hint = .keep) ∧ regionOf u a.dpa = .interleaved ∧ sliceFault u (homeSlice u a.dpa) = false ∧ ¬ held
      (isNarrow u a.hint a.dpa n = true → exec (.sliceAccess a tag data) s =
        .next (narrowAccess u a.issuer 0 a.slot a.write a.hint a.dpa (BitVec.ofNat 64 (ofLe bytes)) a.poison
          (if a.write then .none else .ext))) ∧
      (isNarrow u a.hint a.dpa n = false → a.write = true → exec (.sliceAccess a tag data) s =
        .next (lineWrite u 1 a.issuer a.hint a.dpa bytes a.poison)) ∧
      (isNarrow u a.hint a.dpa n = false → a.write = false → behind → exec (.sliceAccess a tag data) s =
        .next (joinHeld u ⟨a.issuer, 0, 1, false, a.hint, a.dpa, n, [], false, .ext⟩)) ∧
      (isNarrow u a.hint a.dpa n = false → a.write = false → ¬ behind → fills → exec (.sliceAccess a tag data) s =
        .next { u with scr := { u.scr with fills := u.scr.fills ++ [⟨a.dpa, n, a.issuer, a.hint == .keep⟩] } }) ∧
      (isNarrow u a.hint a.dpa n = false → a.write = false → ¬ behind → ¬ fills → exec (.sliceAccess a tag data) s =
        .next (emit (lineRead u 1 a.hint a.dpa n).2 (.readData a.issuer a.dpa (lineRead u 1 a.hint a.dpa n).1)))) ∧
    (∀ f flips, (s.scr.fills.find? fun f => !waitsHeld s f.issuer 0 false false f.dpa) = some f →
      let s1 := flipBits { s with scr := { s.scr with fills := s.scr.fills.erase f } } flips
      let r := lineRead s1 1 (if f.keep then .keep else .normal) f.dpa f.len
      (bankBusy s1 f.dpa = false → exec (.lineFill flips) s = .next (emit r.2 (.readData f.issuer f.dpa r.1))) ∧
      (∀ x, bankBusy s1 f.dpa = true → bankReqAt s1 f.dpa 1 f.issuer false (.fill f) = some x →
        exec (.lineFill flips) s = .next (joinBank s1 x.1 x.2))) ∧
    (∀ slice v, (s.scr.victims.find? fun v => v.slice = slice && !dpaHeld s v.dpa) = some v →
      (bankBusy s v.dpa = false → exec (.writebackDone slice) s =
        .next (writebackLine { s with scr := { s.scr with victims := s.scr.victims.erase v } } v.dpa v.line)) ∧
      (∀ x, bankBusy s v.dpa = true → bankReqAt s v.dpa 1 255 true (.victim v) = some x →
        (stackAt s x.1).bankq.any (fun r => r.work == .victim v) = false →
        exec (.writebackDone slice) s = .next (joinBank s x.1 x.2))) ∧
    (∀ slice q rank, nextAtomic s slice = some (q, rank) →
      let s1 := setServed { s with scr := { s.scr with atoms := s.scr.atoms.erase q } } slice rank
      let r := if sliceFault s slice then (⟨0, true⟩, s1) else performAtomic s1 q.issuer q.aop q.dpa q.x.toNat q.y.toNat q.keep q.poison
      exec (.atomicPerform slice) s = .next (answerAtomic r.2 q r.1 (sliceFault s slice))) ∧
    (∀ dpa l n, locateS s dpa = some l → ((stackAt s l.stack).notices.find? fun n => n.dpa / 64 == dpa / 64) = some n →
      let left := fun (v : Victim) =>
        if v.dpa / 64 == n.dpa / 64 then
          if v.line.dirty &&& ~~~ n.mask = 0 then none else some { v with line := v.line.without n.mask }
        else some v
      let s1 := modStack s l.stack fun k => { k with notices := k.notices.erase n }
      let s2 := { s1 with scr := { s1.scr with victims := s1.scr.victims.filterMap left } }
      exec (.commitNotice dpa) s = .next (match findLine s2 n.dpa with
        | some (key, ln) => putLine s2 key (ln.without n.mask)
        | none => s2))

/-- SKIM_ACCESS (R161, R162, R24) and SKIM_CHANNEL_SERVICE (R163), each with what a poisoned read of the hub's tables does
(`hubPoison`). -/
def Obligations.SkimAccess : Prop :=
  (∀ (issuer addr : Nat) (slot : Option Nat) (write poison : Bool) (value : W64) (s : State) (l : Loc),
    let dpa := addr / 8 * 8
    let sl := homeSlice s dpa
    let u := settleVictim s dpa
    let line := if regionOf u dpa = .interleaved then findLine u dpa else none
    let holds := ∃ x, line = some x ∧ x.2.valid &&& byteMask (dpa % 64) 8 = byteMask (dpa % 64) 8
    let who := if write then Waiter.none else .ext
    let q : SkimReq := ⟨sl, l.stack, channelOf l.die l.bank, issuer, slot, write, false, dpa, value, poison, who⟩
    let behind := waitsHeld s issuer 0 write true dpa = true
    let answers := fun (t : State) => exec (.skimAccess issuer write addr value poison slot) s = .next (hubPoison s t)
    (locateS s dpa = none → answers (if write then s else emit s (.readData issuer dpa (poisonBytes 8)))) ∧
    (locateS s dpa = some l →
      (sliceFault s sl = true →
        answers (if write then s else emit (setRegBit s (Reg.SKM_ERR (sl / 4)) 0) (.readData issuer dpa (poisonBytes 8)))) ∧
      (sliceFault s sl = false → behind →
        answers (joinHeld s ⟨issuer, 0, 3, write, .stream, dpa, 8, leBytes 8 value.toNat, poison, who⟩)) ∧
      (sliceFault s sl = false → ¬ behind →
        (line.isSome = true → write = true → answers (lineWrite u 3 issuer .stream dpa (leBytes 8 value.toNat) poison)) ∧
        (write = false → holds →
          let r := lineRead u 3 .stream dpa 8
          answers (emit (noteSkimPoison r.2 sl r.1) (.readData issuer dpa r.1))) ∧
        (¬ (line.isSome = true ∧ write = true) → ¬ holds →
          let s1 := if 256 ≤ frontDepth u sl then
              let s1 := bumpSlice u Reg.SKM_BP sl 1
              if regField s1 (Reg.SKM_BP (sl / 4) (sl % 4)) 0 64 = 2 ^ 20 + 1 then raiseIf s1 (Reg.SKM_CTRL (sl / 4)) 0 0x0023 sl else s1
            else u
          let s2 := { s1 with scr := { s1.scr with frontWait := s1.scr.frontWait ++ [q] } }
          answers (advanceSkim (skimFuel s2) s2))))) ∧
  (∀ (stack channel : Nat) (flips : List Flip) (s : State) (i : Nat) (q : SkimReq),
    let mine := s.scr.chan.filter fun q => q.stack = stack ∧ q.channel = channel
    let key := 16 + stack * 32 + channel
    nextInRound (servedAt s key) (mine.map fun q => rankOf q.issuer q.slot) = some i →
    (mine.find? fun q => rankOf q.issuer q.slot = i) = some q →
    let s1 := flipBits (setServed { s with scr := { s.scr with chan := s.scr.chan.erase q } } key i) flips
    let moved := fun (t : State) => exec (.skimChannelService stack channel flips) s = .next (hubPoison s (advanceSkim (skimFuel t) t))
    (bankBusy s1 q.dpa = false → moved (performSkim s1 q)) ∧
    (∀ x, bankBusy s1 q.dpa = true → bankReqAt s1 q.dpa 3 q.issuer q.write (.skim q) = some x → moved (joinBank s1 x.1 x.2)))

/-- WRITEBACK, WB_INVALIDATE, CLEAR_KEEP, MAINT_DONE (R166), SCD_MAINT_RANGE (R167), SCD_CLR_COUNTERS (R168) and SKM_CLR_COUNTERS
(R169). -/
def Obligations.ScreedMaintenance : Prop :=
  ∀ (die : Nat) (s : State), die < 2 →
    let busy := ∃ m ∈ s.scr.maint, m.die = die
    let started := fun (op : Nat) => setReg { s with scr := { s.scr with maint := s.scr.maint ++
      [⟨die, op, BitVec.ofNat 64 (reg s (Reg.SCD_MAINT_RANGE die))⟩] } } (Reg.SCD_MAINT_STATUS die) 1
    let refusedBusy := Host.Outcome.next (setRegBit s (Reg.SCD_ERR die) 3)
    (¬ busy → exec (.writeback die) s = .next (started 1) ∧ exec (.wbInvalidate die) s = .next (started 2) ∧
      exec (.clearKeep die) s = .next (started 3) ∧
      ∀ v : W64, exec (.scdMaintRange die v) s = .next (plainWrite s (Reg.SCD_MAINT_RANGE die) v.toNat)) ∧
    (busy → exec (.writeback die) s = refusedBusy ∧ exec (.wbInvalidate die) s = refusedBusy ∧ exec (.clearKeep die) s = refusedBusy ∧
      ∀ v : W64, exec (.scdMaintRange die v) s = refusedBusy) ∧
    (∀ m, (s.scr.maint.find? fun m => m.die = die) = some m → maintHeld s die m.op m.range.toNat = false →
      let r := maintPass { s with scr := { s.scr with maint := s.scr.maint.erase m } } die m.op m.range.toNat
      exec (.maintDone die) s = .next (raiseIf (setReg r.2 (Reg.SCD_MAINT_STATUS die) (r.1 * 2 ^ 32)) (Reg.SCD_CTRL die) 0 0x0022 die)) ∧
    exec (.scdClrCounters die) s = .next ((List.range 4).foldl (fun s i => setField (zeroRegs s
      [Reg.SCD_HIT die i, Reg.SCD_MISS die i, Reg.SCD_WB die i, Reg.SCD_LAST_DISCARD die i, Reg.SCD_ATOM die i, Reg.SCD_BP die i])
      (Reg.SCD_SLICE_STATUS die i) 11 9 0) (setReg s (Reg.SCD_ECC_CNT die) 0)) ∧
    exec (.skmClrCounters die) s = .next ((List.range 6).foldl (fun s i => setReg s (Reg.SKM_CHAN die i) 0)
      ((List.range 4).foldl (fun s i => setField (zeroRegs s [Reg.SKM_READ die i, Reg.SKM_WRITE die i, Reg.SKM_BP die i])
        (Reg.SKM_FRONT die i) 9 9 0) s))

/-- BANK_ACCESS (R251, R252), REFRESH (R174, R251), MERGE_WINDOW_CLOSE (R192) and SCRUB_VISIT (R200, R201). -/
def Obligations.StackService : Prop :=
  ∀ (s : State),
    (∀ (source issuer dpa len : Nat) (write poison : Bool) (data : List Byte) (flips : List Flip),
      let go := exec (.bankAccess source issuer write dpa len data poison flips) s
      (locateS s dpa = none → go = .next s) ∧
      (∀ l : Loc, locateS s dpa = some l →
        let room := 256 - dpa % 256
        let s1 := flipBits s flips
        let at_ := dpaOf (stackCount s1) s1.mem.p l
        let holds := stackHolds s1 l.stack
        let queued := trowelBusy s1 (trowelOf l.stack l.die l.bank) = true ∧ ¬ (write = true ∧ holds = true)
        (queued → go = .next (joinBank s1 l.stack
          ⟨l.die, l.bank, l.row, l.byte, source, issuer, write, min len room, data.take room, poison, .access, none⟩)) ∧
        (¬ queued → write = true → holds = true → go = .next (joinHeld s1
          ⟨issuer, 0, source, true, .stream, at_, (data.take room).length, data.take room, poison, .none⟩)) ∧
        (¬ queued → write = true → holds = false → go = .next (bankWrite s1 source l (data.take room) poison)) ∧
        (¬ queued → write = false → go = .next (emit (bankRead s1 source l (min len room)).2
          (.readData issuer at_ (bankRead s1 source l (min len room)).1))))) ∧
    (∀ (stack die bank : Nat), stack < stackCount s → die < 20 → bank < 64 → refreshes s stack = true →
      let b := bankKey stack die bank
      let x := trowelOf stack die bank
      let n := mgetD 0 s.mem.postponed b
      let counted := fun (t : State) (m : Nat) => bump t (Reg.STK_REFRESH stack) 32 32 m
      let deferred := if n < 4 then setPostponed s stack b (n + 1) else counted s 1
      exec (.refresh stack die bank) s = .next (
        if s.itn.run = .running then s
        else if trowelBusy s x then
          match takeRefresh s x (bank % 2) with
          | some s1 => s1
          | none => deferred
        else if bankPending s stack die bank then deferred
        else counted (setPostponed s stack b 0) n)) ∧
    (∀ (stack : Nat) (flips : List Flip) (e : MergeEnt) (es : List MergeEnt), (stackAt (flipBits s flips) stack).state = .active →
      (stackAt (flipBits s flips) stack).merge = e :: es → exec (.mergeWindowClose stack flips) s = .next (closeEntry (flipBits s flips) e)) ∧
    (∀ (stack : Nat) (flips : List Flip),
      let w := flipBits s flips
      let u := modStack w stack fun k => { k with scrubLag := k.scrubLag + 1 }
      let pos := (stackAt u stack).scrubPos
      let l : Loc := ⟨stack, pos / 64 % 20, pos % 64, pos / 1280, 0⟩
      let s1 := modStack (if isRetired u l then u else scrubRow u l) stack fun k => { k with scrubLag := k.scrubLag - 1 }
      let go := exec (.scrubVisit stack flips) s
      stack < stackCount w → stackServes w stack = true → regBit w (Reg.STK_SCRUB_CTRL stack) 8 = true →
      go = .next (scrubDue (stackAt u stack).scrubLag u stack) ∧
      ((stackAt u stack).scrubLag ≠ 0 → scrubWaits u stack l.die l.bank = true → go = .next u) ∧
      ((stackAt u stack).scrubLag = 1 → scrubWaits u stack l.die l.bank = false → pos + 1 < 32768 * 20 * 64 →
        go = .next (modStack s1 stack fun k => { k with scrubPos := pos + 1 })) ∧
      ((stackAt u stack).scrubLag = 1 → scrubWaits u stack l.die l.bank = false → ¬ pos + 1 < 32768 * 20 * 64 →
        let s2 := modStack s1 stack fun k => { k with scrubPos := 0, scrubLag := 0, scrubPasses := min (k.scrubPasses + 1) (2 ^ 32 - 1) }
        let s3 := if (stackAt s1 stack).scrubLag ≠ 0 then setRegBit s2 (Reg.STK_ERR stack) 0 else s2
        go = .next (raiseIf s3 (Reg.STK_CTRL stack) 1 0x0032 stack)))

/-- CONTROL_SPACE_ACCESS (R184, R513), STK_SCRUB_CTRL (R212), STK_CLR_COUNTERS (R211) and STACK_FAULT (R610). -/
def Obligations.StackControl : Prop :=
  (∀ (issuer dpa n : Nat) (v : W64) (write poison : Bool) (s : State),
    let formed := 0xF000000000 ≤ dpa ∧ (n = 4 ∨ n = 8) ∧ dpa % n = 0
    exec (.controlSpaceAccess issuer write dpa n v poison) s =
      if formed then (if write then .next (ctlWrite s dpa n v.toNat poison) else .next (emit s (.readData issuer dpa (ctlRead s dpa n))))
      else .next s) ∧
  (∀ (stack : Nat) (v : W64) (s : State), stack < stackCount s →
    exec (.stkScrubCtrl stack v) s = .next (if 1 ≤ v.toNat % 256 ∧ v.toNat % 256 ≤ 168
      then plainWrite s (Reg.STK_SCRUB_CTRL stack) v.toNat else setRegBit s (Reg.STK_ERR stack) 4) ∧
    (v.getLsbD 7 = true → exec (.stkClrCounters stack v) s = .next (setField (zeroRegs (plainWrite s (Reg.STK_CTRL stack) v.toNat)
      [Reg.STK_CE_CNT stack, Reg.STK_UE_CNT stack, Reg.STK_REFRESH stack]) (Reg.STK_MERGE stack) 16 48 0)) ∧
    exec (.stackFault stack) s = .next (raiseEvent (setRegBit (endStackCmds (modStack s stack fun x => { x with state := .fault }) stack .fault)
      (Reg.STK_ERR stack) 3) 0x00E4 stack))

/-- X_NOP (R224), SETP, ADDP, STREAM (R225), LOOP (R226) and END (R220) where a running trowel's X slot names them. -/
def Obligations.TrowelSimple : Prop :=
  ∀ (x : TSite) (s : State) (c : TrwCmd) (w : Nat),
    let slot := if uWop w = 1 then 1 else 2
    let ends := fun (b : TrwOutcome) => Host.Outcome.next (endKilled s x b)
    let leaves := fun (d : TrwCmd) => Host.Outcome.next (modCmd s x fun _ => { d with slot := slot })
    (AtX s x 0 c w → exec (.trwXNop x) s = match charge c c.now 1 0 with | none => ends .span | some d => leaves d) ∧
    (AtX s x 8 c w → exec (.trwSetp x) s = match charge c c.now 1 0 with
      | none => ends .span
      | some d => leaves { d with ptr := d.ptr.set (uX w 14 4) (BitVec.ofNat 16 (nth d.params (uX w 10 4) 0).toNat) }) ∧
    (AtX s x 9 c w → exec (.trwAddp x) s = match charge c c.now 1 0 with
      | none => ends .span
      | some d => leaves (d.setP (uX w 14 4) ((((d.p (uX w 14 4) : Nat) : Int) + intDecode 14 (uX w 0 14)) % 65536).toNat)) ∧
    (AtX s x 10 c w → exec (.trwLoop x) s =
      let n := c.p (uX w 14 4)
      if n ≠ 0 ∧ 2 ≤ c.loops.length then ends .fault
      else match charge c c.now 1 0 with
        | none => ends .span
        | some d => leaves (if n = 0 then { d with skip := some (uX w 0 8) } else { d with loops := ⟨d.pc + 1, uX w 0 8, n⟩ :: d.loops })) ∧
    (AtX s x 2 c w → exec (.trwStream x) s = match c.latch (uX w 17 1) with
      | none => ends .span
      | some (l, v) => match charge c (max c.now v) 1 0 with
        | none => ends .span
        | some d =>
          let p := uX w 13 4
          let bt := (l.drop (64 * (d.p p % 32))).take 64
          let d1 := d.setP p (addPtr (d.p p) 1)
          leaves (match uX w 11 2 with
            | 0 => { d1 with wbuf := bt ++ d.wbuf.drop 64 }
            | 1 => { d1 with wbuf := d.wbuf.take 64 ++ bt }
            | _ => { d1 with sbuf := bt })) ∧
    (AtX s x 6 c w → exec (.trwEnd x) s =
      if (stackAt s x.stack).notices.any fun n => n.trowel == x.trowel then .next s
      else match charge c (max c.now (max c.o0 c.o1)) 1 0 with
        | none => ends .span
        | some d => .next (endDone (modCmd s x fun _ => d) x)) ∧
    ((trowelAt s x).state = .commit → (trowelAt s x).cmd = some c → c.slot = 0 → fetchMicro s x c = w → uXop w = 6 →
      ((stackAt s x.stack).notices.any fun n => n.trowel == x.trowel) = false →
      let fin := max c.now (max c.o0 c.o1)
      exec (.trwEnd x) s = match charge c fin 1 0 with
        | none => .next (endDone (modCmd s x fun d => { d with now := fin + 1 }) x)
        | some d => .next (endDone (modCmd s x fun _ => d) x))

/-- OPEN (R230), LOADQ (R235), STORE (R236) and COMMIT (R237, R242, R243) where a running trowel's X slot names them. -/
def Obligations.TrowelBanks : Prop :=
  ∀ (x : TSite) (s : State) (c : TrwCmd) (w : Nat),
    (∀ flips, AtX (flipBits s flips) x 1 c w →
      let s0 := flipBits s flips
      let b := uX w 17 1
      let p := uX w 13 4
      let issue := bankIssue x c b 38
      let at_ := issue.1
      let stall := issue.2
      exec (.trwOpen x flips) s = .next (
        if 32768 ≤ c.p p then endKilled s0 x .fault
        else match charge c at_ 1 stall with
          | none => endKilled s0 x .span
          | some d =>
            let l : Loc := ⟨x.stack, tDie x, tBank x b, c.p p, 0⟩
            let s1 := if isRetired s0 l then setRegBit s0 (Reg.TRW_ERR x.stack x.trowel) 2
              else if rowHasUe s0 l then setRegBit s0 (Reg.TRW_ERR x.stack x.trowel) 1 else s0
            let r := bankRead s1 2 l 2048
            let d1 := d.setP p (addPtr (c.p p) (signedOf 8 (uX w 0 8)))
            let d2 := if b = 0 then { d1 with l0 := some r.1, v0 := at_ + 24, r0 := at_ + 38, o0 := at_ + 38 }
              else { d1 with l1 := some r.1, v1 := at_ + 24, r1 := at_ + 38, o1 := at_ + 38 }
            modCmd (noteStall r.2 x stall) x fun _ => { d2 with slot := afterX w })) ∧
    (AtX s x 3 c w →
      let n := loadqCycles (bitsOf c.qfmt 0 5)
      let p := uX w 12 4
      let src := uX w 16 2
      let fill := fun (d : TrwCmd) (bs : List PByte) =>
        let r := loadqLanes (bitsOf c.qfmt 0 5) bs
        ({ (d.setP p (addPtr (d.p p) n)) with q := d.q.set (uX w 9 3) r.1, flags := d.flags.or r.2 } : TrwCmd)
      (src = 2 → 64 * (c.p p + n) ≤ 32768 → ∀ d, charge c c.now n 0 = some d →
        exec (.trwLoadq x) s = .next (modCmd s x fun _ =>
          { (fill d (areaRead (reducerAt s x.stack) (64 * d.p p) (64 * n))) with slot := afterX w })) ∧
      (∀ l v d, src ≠ 2 → c.p p + n ≤ 32 → c.latch src = some (l, v) → charge c (max c.now v) n 0 = some d →
        exec (.trwLoadq x) s = .next (modCmd s x fun _ => { (fill d ((l.drop (64 * d.p p)).take (64 * n))) with slot := afterX w }))) ∧
    (∀ o d, AtX s x 4 c w → fmtDecode c.ofmt = some o →
      let p := uX w 10 4
      let n := uX w 4 6 + 1
      let off := c.p p
      let eb := elemBits o.code
      let bytes := n * eb / 8
      let int := isInt (bitsOf c.wfmt 0 5)
      let lanes := (nth c.acc (uX w 14 4) []).take n
      let conv := lanes.mapIdx fun i l =>
        let y := viaFp32 (if int then 0x0A else 1) o.code o.ovf (accVal int l.v.toNat)
        let r := toScalar o.code (modeFor o.round c.seed c.seq c.tag (8 * off / eb + i)) o.ovf y.1
        (r.1, r.2.or y.2)
      off % 8 = 0 → off + bytes ≤ 2048 → charge c c.now 1 0 = some d →
      ∃ e : TrwCmd, exec (.trwStore x) s = .next (modCmd s x fun _ => e) ∧
        e.cbuf = ((conv.flatMap fun r => leBytes (eb / 8) r.1).foldl (fun (m : List (Nat × Byte) × Nat) b => (mset m.1 m.2 b, m.2 + 1))
          (c.cbuf, off)).1 ∧
        e.flags = conv.foldl (fun f r => f.or r.2) d.flags ∧
        { e with cbuf := d.cbuf, cpoison := d.cpoison, storedPoison := d.storedPoison, flags := d.flags } =
          { d.setP p (addPtr off bytes) with slot := afterX w }) ∧
    (∀ d, AtX s x 5 c w → uXop (fetchMicro s x { c with pc := (nextIndex c).1 }) = 6 →
      uReserved (fetchMicro s x { c with pc := (nextIndex c).1 }) = false → (nextIndex c).1 ≤ 255 →
      ¬ (uWop w = 1 ∧ partOk (bitsOf c.wfmt 0 5) (uPart w) = false) →
      let slot := uX w 17 1 = 1
      let pv := c.p (uX w 12 4)
      let issue := if slot then (c.now, 0) else bankIssue x c (uX w 16 1) 36
      let dur := if slot then 4 + (c.cbuf.length + 63) / 64 else 36
      (if slot then pv ≤ 63 ∧ (∀ b ∈ c.cbuf, b.1 ≤ 255) ∧ reducerSlotOk (bitsOf c.ofmt 0 5) = true else pv < 32768) →
      charge c issue.1 1 issue.2 = some d →
      let d1 := { d with now := issue.1 + dur, count := d.count + dur - 1 }
      let s1 := noteStall s x issue.2
      exec (.trwCommit x) s = .next (if commitHeld s x c w
        then setTrowel s1 x { trowelAt s1 x with state := .held, cmd := some d1 } else doCommit s1 x d1 w))

/-- WIDEN (R233), C_NOP, SHIFT, ADD, ZERO, MOVA (R224), MAC, MACS, MACB (R227) and MAX (R47) where a trowel's slot names them. -/
def Obligations.TrowelCompute : Prop :=
  ∀ (x : TSite) (s : State) (c : TrwCmd) (w : Nat),
    let step := fun (op : Nat) (f : TrwCmd → TrwCmd) => Host.Outcome.next (advance (modCmd s x fun d =>
      if op ≠ 0 ∧ bitAt w 7 then (f d).setP (bitsOf w 8 4) (addPtr ((f d).p (bitsOf w 8 4)) 1) else f d) x)
    let lanes := fun (op : Nat) (f : TrwCmd → Nat → ALane → (Nat × Flags) × Bool) => step op fun d => lanesOp d w (f d)
    let mul := fun (d : TrwCmd) (i j : Nat) => workMul d (wLane d i) (qLane d (uQ w) j)
    let bad := fun (d : TrwCmd) (i j : Nat) => (wLane d i).poison || (qLane d (uQ w) j).poison
    (∀ (r : (trowelAt s x).state = .run ∨ (trowelAt s x).state = .commit), (trowelAt s x).cmd = some c → c.slot = 1 →
      fetchMicro s x c = w → partOk (bitsOf c.wfmt 0 5) (uPart w) = true →
      let v := widenPart c (uPart w) (c.p (uScale w))
      exec (.trwWiden x) s = .next (modCmd s x fun d => { (d.setP (uScale w) (addPtr (d.p (uScale w)) (wScales (bitsOf c.wfmt 0 5)))) with
        w := v.1, flags := d.flags.or v.2, slot := 2 })) ∧
    (AtC s x 0 c w → exec (.trwCNop x) s = step 0 id) ∧
    (AtC s x 1 c w → exec (.trwMac x) s = lanes 1 fun d i l => (accAdd (accInt d) l.v.toNat (mul d i i), l.poison || (wLane d i).poison || (qLane d (uQ w) i).poison)) ∧
    (AtC s x 2 c w → exec (.trwMacs x) s = lanes 2 fun d i l =>
      if i = cLane d w then (accAdd (accInt d) l.v.toNat (FVal.sum ((List.range 64).map fun j => mul d j j)),
        l.poison || (List.range 64).any fun j => bad d j j) else ((l.v.toNat, .none), l.poison)) ∧
    (AtC s x 3 c w → exec (.trwMacb x) s = lanes 3 fun d i l =>
      (accAdd (accInt d) l.v.toNat (mul d i (cLane d w)), l.poison || (wLane d i).poison || (qLane d (uQ w) (cLane d w)).poison)) ∧
    (AtC s x 4 c w → exec (.trwShift x) s = lanes 4 fun d _ l => (shiftLane (accInt d) l.v.toNat (intDecode 6 (bitsOf w 1 6)), l.poison)) ∧
    (AtC s x 5 c w → exec (.trwCMax x) s = lanes 5 fun d i l =>
      ((if accInt d then i32Max l.v.toNat (bLane d w i).v.toNat else f32Max l.v.toNat (bLane d w i).v.toNat, .none), l.poison || (bLane d w i).poison)) ∧
    (AtC s x 6 c w → exec (.trwCAdd x) s = lanes 6 fun d i l =>
      (accAdd (accInt d) l.v.toNat (accVal (accInt d) (bLane d w i).v.toNat), l.poison || (bLane d w i).poison)) ∧
    (AtC s x 7 c w → exec (.trwZero x) s = lanes 7 fun d _ _ =>
      ((if w.testBit 0 then (if accInt d then 0x80000000 else 0xFF800000) else 0, .none), false)) ∧
    (AtC s x 8 c w → exec (.trwMova x) s = lanes 8 fun d i _ => (((bLane d w i).v.toNat, .none), (bLane d w i).poison))

/-- TRW_START (R215, R217), TRW_KILL (R245), TRW_CLR_COUNTERS (R222) and TROWEL_LAUNCH (R215, R247, R405, R406). -/
def Obligations.TrowelLaunches : Prop :=
  ∀ (x : TSite) (s : State), trowelExists s x = true →
    let fails := fun (t : State) (i : Nat) => Host.Outcome.next (setRegBit t (Reg.TRW_ERR x.stack x.trowel) i)
    (∀ v : W32, itinLoaded s = true → (v.getLsbD 0 = true → exec (.trwStart x v) s = fails s 4) ∧
      (v.getLsbD 1 = true → exec (.trwKill x v) s = fails s 4) ∧ (v.getLsbD 2 = true → exec (.trwClrCounters x v) s = fails s 4)) ∧
    (∀ v : W32, itinLoaded s = false →
      let s1 := plainWrite s (Reg.TRW_CTRL x.stack x.trowel) v.toNat
      let s2 := if v.getLsbD 2 then setField (setReg (setReg (setReg s1 (Reg.TRW_RUNS x.stack x.trowel) 0) (Reg.TRW_KILLS x.stack x.trowel) 0)
        (Reg.TRW_DEFER x.stack x.trowel) 0) (Reg.TRW_REFRESH x.stack x.trowel) 8 24 0 else s1
      let entry := v.toNat / 256 % 256
      (v.getLsbD 1 = true → exec (.trwKill x v) s = .next (match (trowelAt s2 x).state with
        | .run => endKilled s2 x .killed | .held => endKilled s2 x .killed | _ => s2)) ∧
      (v.getLsbD 0 = true → v.getLsbD 1 = false → exec (.trwStart x v) s = .next (
        if retireHolds s x && (trowelAt s2 x).state == .idle then setTrowel s2 x { trowelAt s2 x with starts := some entry } else directLaunch s2 x entry)) ∧
      (v.getLsbD 2 = true → v.getLsbD 1 = false → v.getLsbD 0 = false → exec (.trwClrCounters x v) s = .next s2)) ∧
    ((trowelAt s x).state = .idle → retireHolds s x = false →
      (∀ c, (trowelAt s x).rerun = some c → exec (.trowelLaunch x) s = .next (startCmd s x c)) ∧
      (∀ i l, (trowelAt s x).rerun = none → (itinItems s).find? (launchDue s x) = some i → i.work = .trowel l →
        exec (.trowelLaunch x) s = .next (startCmd { s with itn := { s.itn with begun := s.itn.begun ++ [i.id] } } x
          (launchCmd l.entry l.wfmt l.ofmt l.qfmt (itinSeed s) s.itn.seqWord l.tag l.span l.params (some i.id)
            (some (i.start * 25 / 2))))) ∧
      (∀ i l a, (trowelAt s x).rerun = none → (itinItems s).find? (launchDue s x) = some i → i.work = .attn l a →
        let n := planPos s i.id
        let s1 := if s.itn.begun.contains i.id then s else { s with itn := { s.itn with begun := s.itn.begun ++ [i.id] } }
        let next := (planOf s1 l.stack l.trowel)[n]?
        (next = none → exec (.trowelLaunch x) s = .next (itemDone s1 (some i.id))) ∧
        (∀ c m, next = some c → s.srv.model = some m →
          let wfmt := (if a.values then c.vfmt else c.kfmt) + 512 * b2n m.wide
          let cmd := launchCmd l.entry wfmt l.ofmt l.qfmt (itinSeed s) s.itn.seqWord l.tag l.span (planParams m a c l.params) (some i.id)
            (some (i.start * 25 / 2 + n * l.span))
          (launchOk l.span wfmt l.ofmt l.qfmt = true → exec (.trowelLaunch x) s =
            .next (startCmd { s1 with itn := { s1.itn with planAt := mset s1.itn.planAt i.id (n + 1) } } x
              { cmd with valid := if a.values then none else some (c.blocks.map (·.2)).sum })) ∧
          (launchOk l.span wfmt l.ofmt l.qfmt = false → exec (.trowelLaunch x) s = fails s 3))))

/-- SPAN_EXPIRY (R219), HELD_RESUME (R243), CHANNEL_WINDOW (R252) and TROWEL_CLUSTER_DISABLE (R221). -/
def Obligations.TrowelEvents : Prop :=
  ∀ (x : TSite) (s : State),
    (∀ c, (trowelAt s x).state = .run → (trowelAt s x).cmd = some c →
      exec (.spanExpiry x) s = .next (if c.span ≤ c.count then endKilled s x .span else s)) ∧
    (∀ c, (trowelAt s x).state = .held → (trowelAt s x).cmd = some c →
      exec (.heldResume x) s = .next (if commitHeld s x c (fetchMicro s x c) then s else doCommit s x c (fetchMicro s x c))) ∧
    (∀ b c, trowelBusy s x = true → (trowelAt s x).cmd = some c →
      let bank := tBank x (b % 2)
      (bankHead s x.stack (tDie x) bank = none → exec (.channelWindow x b) s = .next s) ∧
      (∀ r, bankHead s x.stack (tDie x) bank = some r →
        let start := max (windowStart c.now) (c.refr (b % 2))
        let fin := (start / 720 + 1) * 720
        let y := trowelOf x.stack (tDie x) bank
        let s1 := setServed (modStack s x.stack fun k => { k with bankq := k.bankq.erase r })
          (512 + bankKey x.stack (tDie x) bank) (rankOf r.issuer none)
        let s2 := match r.since with
          | some d => raiseTo s1 (Reg.TRW_DEFER y.stack y.trowel) 0 10 (start - d)
          | none => s1
        exec (.channelWindow x b) s = .next (markHead (modCmd (serveBank s2 x.stack r) x fun c =>
          if b % 2 = 0 then { c with r0 := max c.r0 fin } else { c with r1 := max c.r1 fin }) x.stack (tDie x) bank))) ∧
    (∀ stack die, stack < stackCount s → die < 20 →
      let s1 := modStack s stack fun k => { k with disabled := if k.disabled.contains die then k.disabled else k.disabled ++ [die] }
      let s2 := loopN 32 s1 fun q s => disableTrowel ⟨stack, 32 * die + q⟩ s
      exec (.trowelClusterDisable stack die) s = .next (if dieOwed s2 stack die then lostWork s2 else s2))

/-- SUM, MAX, SOFTMAX, MERGE, NORM and RMS (R260 to R264), REDUCER_JOB_START (R260) and REDUCER_JOB_DONE (R259, R262). -/
def Obligations.ReducerJobs : Prop :=
  (∀ (stack : Nat) (w : W64) (s : State), stack < stackCount s →
    ∀ row ∈ [(1, Instr.rdcSum stack w), (2, .rdcMax stack w), (3, .rdcSoftmax stack w), (4, .rdcMerge stack w), (5, .rdcNorm stack w),
      (6, .rdcRms stack w)],
    w.toNat / 2 ^ 60 = row.1 →
    exec row.2 s = .next (
      let r := reducerAt s stack
      if itinLoaded s then s
      else if jobOk w.toNat = false then setRegBit s (Reg.STK_RDC_ERR stack) 2
      else if 16 ≤ r.jobs.length then setRegBit s (Reg.STK_RDC_ERR stack) 1
      else setReducer s stack { r with jobs := r.jobs ++ [⟨w, none⟩] })) ∧
  (∀ (stack : Nat) (s : State) (j : RJob) (js : List RJob),
    let s1 := planJob s stack
    let r := reducerAt s1 stack
    r.running = none → r.jobs = j :: js →
    exec (.reducerJobStart stack) s = .next (
      if (∀ i, i < rCount j.w.toNat → (mget r.slots (rFirst j.w.toNat + i)).isSome) ∧ (∀ i ∈ rOutSlots j.w.toNat, mget r.slots i = none)
      then setReducer s1 stack { r with jobs := js, running := some (
        match j.item, (mget r.slots (rFirst j.w.toNat)).bind (·.valid) with
        | some _, some n => if rKind j.w.toNat = 3 ∧ 0 < n then { j with w := BitVec.ofNat 64 (setBits j.w.toNat 42 6 (n - 1)) } else j
        | _, _ => j) } else s1)) ∧
  (∀ (stack : Nat) (s : State) (j : RJob), (reducerAt s stack).running = some j →
    let prm := reg s (Reg.STK_RDC_PARAM stack)
    let a := applyJob (reducerAt s stack) j.w.toNat (prm % 2 ^ 32) (prm / 2 ^ 32)
    let s1 := bump (setReducer s stack a.1) (Reg.STK_RDC_STATUS stack) 16 32 1
    let s2 := if a.2.1 then setRegBit s1 (Reg.STK_RDC_ERR stack) 0 else s1
    exec (.reducerJobDone stack) s = .next (if j.item = none then s2 else runFlags (itemDone s2 j.item) a.2.2 a.2.1))

/-- BELL (R306), BELL_FRAME (R307, R363, R364), FRAME_TIMEOUT (R307) and EPOCH_START (R308, R312). -/
def Obligations.Bells : Prop :=
  ∀ (s : State),
    (let a0 := arrive (endDrains s)
     let n := a0.itn.inForce
     let g := fun b => let c := 2700 * n * b / 16; c - 16 * c / n
     let a1 := if runActive a0 then setField a0 Reg.ITN_GATE 0 64
        (min (regField a0 Reg.ITN_GATE 0 64 + (g (a0.itn.gateBells + 1) - g a0.itn.gateBells)) (2 ^ 64 - 1)) else a0
     let a := { a1 with itn := { a1.itn with gateBells := (a0.itn.gateBells + 1) % 16 } }
     let half := 125 * a.itn.inForce + b2n a.pci.halfNs
     let u := setReg a Reg.PCI_HOST_TIME ((reg a Reg.PCI_HOST_TIME + half / 2) % 2 ^ 64)
     let t := { u with bell := (u.bell + 1) % 2 ^ 48, pci := { u.pci with halfNs := half % 2 == 1 },
                       dep := { u.dep with countdown := u.dep.countdown.map fun c => (c.1, c.2 - 1) } }
     exec .bell s = .next (endIfComplete (if (u.bell + 1) % 2 ^ 48 % 16 = 0 then { t with itn := { t.itn with epochDue := true } } else startBell t))) ∧
    (∀ port caravan (bits : W64),
      let v := bits.toNat
      let go := exec (.bellFrame port caravan bits) s
      (v % 8 ≠ crc3 v → go = .next (setRegBit s Reg.FAB_ERR 2)) ∧
      (v % 8 = crc3 v → (caravan = false ∨ port ∉ memberPorts s) → go = .next s) ∧
      (v % 8 = crc3 v → caravan = true → port ∈ memberPorts s →
        (∀ c, forming s = some c → go = .next (formFrame s c port (v / 2 ^ 16))) ∧
        (forming s = none → v / 2 ^ 16 ≠ s.bell → go = .next (raiseCause (setRegBit s Reg.ITN_ERR 2) 4 s.itn.way)) ∧
        (forming s = none → v / 2 ^ 16 = s.bell → ∃ t, go = .next t ∧
          t.itn.pend = max s.itn.pend (16 + min 48 (v / 2 ^ 10 % 64)) ∧ t.itn.stopMax = max s.itn.stopMax (v / 2 ^ 8 % 4) ∧
          t.itn.alarmMax = (s.itn.alarmMax || v.testBit 3) ∧
          (let mine := v / 2 ^ 6 % 4 = waveOf s s.itn.way
           let tree := regField s (Reg.FAB_PORT_CFG port) 1 2
           t.itn.ups = (if tree = 2 ∧ mine ∧ v.testBit 5 ∧ port ∉ s.itn.ups then s.itn.ups ++ [port] else s.itn.ups) ∧
           t.itn.downAt = (if tree = 1 ∧ mine ∧ v.testBit 4 ∧ s.itn.downAt = none ∧ runActive s then some (s.bell + 1 - depth s) else s.itn.downAt)) ∧
          { t with itn := { t.itn with pend := s.itn.pend, stopMax := s.itn.stopMax, alarmMax := s.itn.alarmMax, ups := s.itn.ups,
                                       downAt := s.itn.downAt } } = s))) ∧
    (∀ port, port ∈ memberPorts s → exec (.frameTimeout port) s = .next (raiseCause (setRegBit s Reg.ITN_ERR 2) 4 s.itn.way)) ∧
    (s.itn.epochDue = true →
      let s1 := decideAlarm (decideStretch s)
      let s2 := { s1 with itn := { s1.itn with decided := s.itn.stopMax, epochDue := false } }
      let s3 := if s.itn.stopMax = 3 ∧ runActive s = true then abortRun (if releaseDue s2 then releaseWay s2 s2.itn.way else s2)
        else if s.itn.stopMax = 3 then { s2 with itn := { s2.itn with cause := 0 } } else applyStop s2 s.itn.stopMax
      exec .epochStart s = .next (startBell (sampleEpoch (requireStep s3))))

/-- WAYSTATION_RELEASE (R317), ARRIVAL_RELEASE (R318), WAYSTATION_MISS (R319), RESUME (R330) and RESUME_TIMEOUT (R331). -/
def Obligations.Waystations : Prop :=
  ∀ (s : State),
    (∀ b, s.itn.run = .waitStart → s.itn.startAt = some b → b ≤ s.bell → s.itn.stopPoint ≠ some 0 → runAdmitted s = true →
      exec .waystationRelease s = .next (releaseWay (performCopies { s with itn := { s.itn with startAt := some s.bell } }) 0)) ∧
    (∀ r, (s.itn.run = .running ∨ s.itn.run = .resuming ∨ s.itn.run = .stoppedPreempt ∨ s.itn.run = .stoppedHalt) → s.itn.downAt = some r → r + dMax s ≤ s.bell → s.itn.way < (ways s).length →
      let s1 := releaseWay s s.itn.way
      exec .waystationRelease s = .next (if runComplete s1 then endRun s1 false else s1)) ∧
    (∀ i, s.itn.run = .running → (wayAt s i).kind = 1 → (wayAt s i).owner = memberIndex s → i ∉ s.itn.arrivals → (wayAt s i).release ≤ ibell s →
      (let senders := if (wayAt s i).list = [] then (List.range (memberCount s)).filter (· ≠ memberIndex s) else (wayAt s i).list
       ∀ m ∈ senders, ∃ b, (i, m, b) ∈ s.itn.tagged ∧ b < s.bell) →
      exec (.arrivalRelease i) s = .next { s with itn := { s.itn with arrivals := s.itn.arrivals ++ [i] } }) ∧
    (∀ i, s.itn.run = .running → i < (ways s).length → (wayAt s i).release + (wayAt s i).slack < ibell s →
      (if (wayAt s i).kind = 1 then (wayAt s i).owner = memberIndex s ∧ i ∉ s.itn.arrivals
       else (wayAt s i).wide = true ∧ i = s.itn.way ∧ 1 ≤ s.itn.phase ∧ s.itn.stopPoint ≠ some i) →
      exec (.waystationMiss i) s = .next (raiseCause (setRegBit s Reg.ITN_ERR 1) 1 i)) ∧
    (s.itn.run = .aborting →
      let lost := s.mem.losses ≠ s.itn.lossMark ∨ ∃ k ∈ s.mem.stks, k.state = .off ∨ k.state = .fault
      let t := fun (phase : Nat) => loadArrays { s with
        srv := { s.srv with core := s.srv.saved.getD s.srv.core },
        itn := { s.itn with run := .resuming, phase := phase, shift := s.bell - s.itn.startAt.getD 0 - (wayAt s s.itn.ckpt).release } }
      let stops := s.itn.preemptReq = true ∧ isLead s = true ∧ (wayAt s s.itn.ckpt).canStop = true
      let held := fun (u : State) => if stops then { u with itn := { u.itn with stopPoint := some s.itn.ckpt, stopPre := true } } else u
      (lost → exec .resume s = .next (held (t 0))) ∧ (¬ lost → exec .resume s = .next (held (t 1)))) ∧
    (runActive s = true → 0 < s.itn.runAborts → s.itn.ckptBell ≤ s.itn.abortBell → s.itn.abortBell + 65536 ≤ s.bell →
      exec .resumeTimeout s = .next (endRun (setRegBit { s with itn := { s.itn with lastCause := 5 } } Reg.ITN_ERR 0) true))

/-- SCHED_SLOT (R273, R356, R357, R401), PHASE_START (R549), ITN_STRETCH (R333), ITN_CLR_COUNTERS (R334) and MANIFEST_ADMIT (R424). -/
def Obligations.PlanSlots : Prop :=
  ∀ (s : State),
    (let due := slotDue s
     (∀ i, due i = true ↔ ∃ e, (i.work = .sched e ∨ ∃ k, i.work = .osend e k) ∧ itemReady s i = true ∧ slotTurn s i e = true) ∧
     let begun := fun i : Item => { s with itn := { s.itn with begun := s.itn.begun ++ [i.id] } }
     let sent := fun (e : BitVec 384) u => loopN (ceilDiv (slotF e 34 0 32) 4096) u fun k u => schedPacket u e (4096 * k)
     (∀ i e, (itinItems s).find? due = some i → i.work = .sched e → exec .schedSlot s = .next (itemDone (sent e (begun i)) (some i.id))) ∧
     (∀ i e slot, (itinItems s).find? due = some i → i.work = .osend e slot →
       exec .schedSlot s = .next (itemDone (if holdsSlot s (memberIndex s) slot then sent e (begun i) else begun i) (some i.id))) ∧
     ((itinItems s).find? due = none → exec .schedSlot s = .next s)) ∧
    (runActive s = true → exec .phaseStart s =
      .next (parkStep { s with pwr := { s.pwr with phase := phaseIndex (phases s) (ibell s) } } (ibell s))) ∧
    (runActive s = false → exec .phaseStart s = .next { s with pwr := { s.pwr with phase := none, parked := 0 } }) ∧
    (∀ v : W64, exec (.itnStretch v) s = .next (if 16 ≤ v.toNat / 2 ^ 24 % 128 ∧ v.toNat / 2 ^ 24 % 128 ≤ 64
      then plainWrite s Reg.ITN_STRETCH v.toNat else setRegBit s Reg.ITN_ERR 3)) ∧
    (∀ v : W64, v.getLsbD 7 = true → exec (.itnClrCounters v) s =
      .next (setReg (setField (plainWrite s Reg.ITN_CTRL v.toNat) Reg.ITN_ABORT 0 32 0) Reg.ITN_GATE 0)) ∧
    (∀ sent pages r m, s.srv.core.run = some r → s.srv.model = some m → r.admitted = false → isLead s = true →
      exec (.manifestAdmit sent pages) s = .next (admitHere (passOne s) m r)) ∧
    (∀ sent pages t ts g, s.srv.core.run = none → isLead s = false → s.fab.tree = t :: ts → s.itn.image = some g →
      let img := (t :: ts).flatten
      let s0 := { s with fab := { s.fab with tree := [] } }
      (g.flags / 2 % 2 = 0 → exec (.manifestAdmit sent pages) s = .next (beginRun s0 (fieldAt img 0 4) 0 (sent + g.mbells))) ∧
      (∀ m, s.srv.model = some m → g.flags / 2 % 2 = 1 →
        let s1 := pages.foldl (memberPage m) (beginRun s0 (fieldAt img 8 4) (fieldAt img 16 1) (sent + g.mbells))
        let s2 := { s1 with srv := { s1.srv with nextStep := fieldAt img 8 8 + 1 } }
        exec (.manifestAdmit sent pages) s = .next (admitHere s2 m (receivedStep s2 img sent))))

/-- EMIT and RECODE (R426), SAMPLE_ROW (R436 to R438), STENCIL_ROW (R439 to R441) and ADAPTER_LOAD_DONE (R445). -/
def Obligations.ServingActions : Prop :=
  ∀ (s : State),
    (∀ r i a k u, s.srv.core.run = some r →
      (waitingEmit s = some (i, a, k) ∧ u = s ∨ waitingEmit s = none ∧ nextAction s 1 = some (i, a) ∧ k = 0 ∧ u = beginItem s i) →
      let t := emitRows r i.id a (nth a 3 0 - k) k u
      exec .emit s = .next (if rowsLeft t i.id then t else itemDone t (some i.id))) ∧
    (∀ r item a n k e, r.entries[nth a 2 0 + k]? = some e →
      (e.emits = false → emitRows r item a (n + 1) k s = emitRows r item a n (k + 1) s) ∧
      (e.emits = true → rowRoom s e.constrained = true → emitRows r item a (n + 1) k s =
        emitRows r item a n (k + 1) (takeRow s item (nth a 0 0) (nth a 1 0 + k * nth a 4 0) (nth a 2 0 + k) e.constrained)) ∧
      (e.emits = true → rowRoom s e.constrained = false → emitRows r item a (n + 1) k s =
        { s with itn := { s.itn with planAt := mset s.itn.planAt item k } })) ∧
    (∀ i a r m e, nextAction s 2 = some (i, a) → s.srv.core.run = some r → s.srv.model = some m → r.entries[nth a 2 0]? = some e →
      exec .recode s = .next (itemDone (loopN (nth a 3 0) (beginItem s i) fun k s =>
          match (slotAt s e.slot).table[nth a 4 0 + k]? with
          | some b =>
            if (entryAt s b).fill = 16 ∧ fitsArea m.d (headBytes m.d m.kfmt) (nth a 0 0) = true
                ∧ fitsArea m.d (headBytes m.d m.vfmt) (nth a 1 0) = true then
              modEntry s b fun x => { x with kfmt := nth a 0 0, vfmt := nth a 1 0 }
            else s
          | none => s) (some i.id))) ∧
    (∀ lane m r x e, s.srv.model = some m → s.srv.core.run = some r → (r.smpq.find? fun x => x.lane = lane) = some x → r.entries[x.entry]? = some e →
      let p := entryParams s e
      let l := rowLogits s m x 4
      let a := adjusted p l.1 (slotAt s e.slot).window
      let inv := if l.2.1 || a.2 then Flags.onlyInv else .none
      (l.2.2.1 = true → exec (.sampleRow lane) s =
        .next (stageRow l.2.2.2 x fun z => { z with poison := true, flags := z.flags.or inv })) ∧
      (l.2.2.1 = false → choose p a.1 (drawU p.seed (slotAt s e.slot).steps) = none → exec (.sampleRow lane) s =
        .next (stageRow l.2.2.2 x fun z => { z with empty := true, flags := z.flags.or inv })) ∧
      (∀ c, l.2.2.1 = false → choose p a.1 (drawU p.seed (slotAt s e.slot).steps) = some c → exec (.sampleRow lane) s =
        .next (bump (stageRow l.2.2.2 x fun z => { z with token := some c.1, logp := c.2.1, set := c.2.2, flags := z.flags.or inv })
          Reg.SMP_COUNT 32 32 1))) ∧
    (∀ lane m r x e, s.srv.model = some m → s.srv.core.run = some r → (r.stnq.find? fun x => x.lane = lane) = some x → r.entries[x.entry]? = some e →
      let p := entryParams s e
      let l := rowLogits s m x 4
      let a := adjusted p l.1 (slotAt s e.slot).window
      let inv := if l.2.1 || a.2 then Flags.onlyInv else .none
      let set := allowedSet s m e
      let v := if f32Lt 0 p.temperature then a.1.map fun y => f32Div y p.temperature else a.1
      let xs := set.map fun t => (t, nth v t f32NegInf)
      (l.2.2.1 = true → exec (.stencilRow lane) s = .next (stageRow (setRegBit l.2.2.2 Reg.STN_ERR 2) x fun z =>
        { z with poison := true, set := set.length, flags := z.flags.or inv })) ∧
      (l.2.2.1 = false → (∀ y ∈ xs, y.2 = f32NegInf) → exec (.stencilRow lane) s =
        .next (stageRow (raiseIf (bump (setRegBit l.2.2.2 Reg.STN_ERR 1) Reg.STN_COUNT 0 32 1) Reg.STN_CTRL 1 0x006B e.slot) x fun z =>
          { z with empty := true, set := set.length, flags := z.flags.or inv })) ∧
      (l.2.2.1 = false → (∃ y ∈ xs, y.2 ≠ f32NegInf) → exec (.stencilRow lane) s =
        .next (stageRow (bump l.2.2.2 Reg.STN_COUNT 32 32 1) x fun z =>
          { z with cands := topK (min (if p.topK = 0 then 64 else p.topK) 64) ((logProbs xs).filter fun y => y.2 ≠ f32NegInf),
                   set := set.length, flags := z.flags.or inv }))) ∧
    (∀ n g, (adapterAt s n).load = some g → storeHeld s g.2 = true → exec (.adapterLoadDone n) s = .next s) ∧
    (∀ n g, (adapterAt s n).load = some g → storeHeld s g.2 = false →
      let x := adapterAt s n
      let y := if x.cur.isSome ∧ x.curUse ≠ 0 then { x with cur := some g, load := none, curUse := 0, ret := x.cur, retUse := x.curUse }
        else { x with cur := some g, load := none, curUse := 0 }
      let t := setAdapter s n y
      (∀ c, (t.cmd.inProg.find? fun c => c.op = 0x0503 ∧ prm c.pkt 0 0 8 = n) = some c →
        exec (.adapterLoadDone n) s = .next (completeProg t c (done c.pkt))) ∧
      ((t.cmd.inProg.find? fun c => c.op = 0x0503 ∧ prm c.pkt 0 0 8 = n) = none → exec (.adapterLoadDone n) s = .next t))

/-- The SMP_, STN_, LDG_, PFX_ and FAB_ registers with write effects (R412, R413, R448, R449 and Table 9.14). -/
def Obligations.ServingRegisters : Prop :=
  ∀ (s : State) (v : W64),
    exec (.smpSel v) s = .next (if v.toNat / 2 ^ 44 = 0 ∧ v.toNat / 2 ^ 16 % 2 ^ 16 = 0 then setReg s Reg.SMP_SEL v.toNat else setRegBit s Reg.SMP_ERR 0) ∧
    exec (.stnSel v) s = .next (if v.toNat < 2 ^ 6 then setReg s Reg.STN_SEL v.toNat else setRegBit s Reg.STN_ERR 3) ∧
    exec (.ldgEntrySel v) s = .next (if v.toNat < 2 ^ 21 then setReg s Reg.LDG_ENTRY_SEL v.toNat else setRegBit s Reg.LDG_ERR 0) ∧
    (v.getLsbD 7 = true →
      exec (.smpClrCounters v) s = .next (setReg (plainWrite s Reg.SMP_CTRL v.toNat) Reg.SMP_COUNT 0) ∧
      exec (.stnClrCounters v) s = .next (setReg (plainWrite s Reg.STN_CTRL v.toNat) Reg.STN_COUNT 0) ∧
      exec (.ldgClrCounters v) s = .next (setReg (plainWrite s Reg.LDG_CTRL v.toNat) Reg.LDG_OPS 0) ∧
      exec (.pfxClrCounters v) s = .next (setField (setReg (plainWrite s Reg.PFX_CTRL v.toNat) Reg.PFX_HITS 0) Reg.PFX_STATUS 0 18 0) ∧
      exec (.fabClrCounters v) s = .next (clearFab (plainWrite s Reg.FAB_CTRL v.toNat)))

/-- Port training (Table 9.3, R335, R340, R341, R344). -/
def Obligations.FabricPorts : Prop :=
  ∀ (s : State) (n : Nat),
    (∀ v : W64, n < 16 →
      let s1 := plainWrite s (Reg.FAB_PORT_CFG n) v.toNat
      let z := (portAt s1 n).state
      (v.getLsbD 0 = true → z = 0 → (portAt s1 n).failed = false →
        exec (.portEnable n v) s = .next (modPort s1 n fun p => { p with state := 1 })) ∧
      (v.getLsbD 0 = true → (z ≠ 0 ∨ (portAt s1 n).failed = true) → exec (.portEnable n v) s = .next s1) ∧
      (v.getLsbD 0 = false → z = 0 → exec (.portEnable n v) s = .next s1) ∧
      (v.getLsbD 0 = false → (z = 7 ∨ z = 8) → exec (.portEnable n v) s = .next (portDown (sendLeave s1 n) n false)) ∧
      (v.getLsbD 0 = false → z ≠ 0 → z ≠ 7 → z ≠ 8 → exec (.portEnable n v) s = .next (portDown s1 n false))) ∧
    (n < 16 → (portAt s n).state = 0 → regBit s (Reg.FAB_PORT_CFG n) 0 = true →
      exec (.trainRetry n) s = .next (modPort s n fun p => { p with state := 1, failed := false })) ∧
    ((portAt s n).state = 1 → exec (.detect n) s = .next (modPort s n fun p => { p with state := 2 })) ∧
    ((portAt s n).state = 2 → exec (.bellSync n) s = .next (modPort s n fun p => { p with state := 3, bellOk := true })) ∧
    (∀ ok, (portAt s n).state = 3 → lanesInUse ok ≠ 0 →
      exec (.equalize n ok) s = .next (modPort s n fun p => { p with state := 4, lanes := lanesInUse ok })) ∧
    (∀ skew, (portAt s n).state = 4 →
      exec (.align n skew) s = .next (setField (modPort s n fun p => { p with state := 5 }) (Reg.FAB_PORT_DELAY n) 16 16 skew)) ∧
    (∀ d, (portAt s n).state = 5 →
      exec (.delay n d) s = .next (setField (modPort s n fun p => { p with state := 6, tolls := [0, 256, 64, 64, 16, 16] }) (Reg.FAB_PORT_DELAY n) 0 16 d)) ∧
    (1 ≤ (portAt s n).state → (portAt s n).state ≤ 6 → exec (.trainingTimeout n) s = .next (portDown s n true)) ∧
    (((portAt s n).state = 7 ∨ (portAt s n).state = 8) → exec (.linkLoss n) s = .next (portDown s n false)) ∧
    (n < 16 → 6 ≤ (portAt s n).state → exec (.helloTimer n) s =
      .next (sendOn s n 4 (mkHeader (portAt s n).peerId 0x10 (selfId s) 2 0xFFFF 0 n 0 0 64 ++ helloRecord s n) []))

/-- FLIT_RECEIVE and CONTROL_FLIT (R337 to R339), FORWARD (R353, R356, R368), ESCAPE_TIMEOUT (R353), ROUTE_WAIT_TIMEOUT
(R370) and BULK_RESPONSE_TIMEOUT (R360). -/
def Obligations.FabricFlits : Prop :=
  ∀ (s : State),
    (∀ n bytes symbols, n < 16 → 6 ≤ (portAt s n).state → (bytes : List Byte).length = 128 →
      let h := fieldAt bytes 0 4
      let lane := h / 2 ^ 29 % 8
      let body := (bytes.drop 4).take 120
      let good := fieldAt bytes 124 4 = crc32 (bytes.take 124)
      let s1 := bump (bump s (Reg.FAB_PORT_RX n) 0 64 1) (Reg.FAB_PORT_FEC n) 32 32 symbols
      let s2 := takeTolls s1 n h
      let seq := h / 2 ^ 14 % 2 ^ 12
      let s3 := modPort s2 n fun p => { p with rxSeq := (seq + 1) % 4096 }
      (good → lane = 0 → exec (.flitReceive n bytes true symbols) s =
        .next (joinFlit s2 n 0 (bitAt h 28) (bitAt h 27) (bitAt h 26) false body)) ∧
      (good → 1 ≤ lane → lane ≤ 5 → seq = (portAt s1 n).rxSeq → exec (.flitReceive n bytes true symbols) s =
        .next (joinFlit (sendControl s3 n seq false lane
            (if (if bitAt h 28 then 0 else match (portAt s3 n).part.find? fun t => t.lane = lane with
                 | some t => t.bytes.length / 120
                 | none => 0) < packetHold lane then 0 else 1))
          n lane (bitAt h 28) (bitAt h 27) false false body)) ∧
      (good → 1 ≤ lane → lane ≤ 5 → seq ≠ (portAt s1 n).rxSeq → exec (.flitReceive n bytes true symbols) s = .next s1) ∧
      (good → lane = 6 → exec (.flitReceive n bytes true symbols) s =
        .next (takeControl s1 n (fieldAt body 0 2 % 2 ^ 12) (bitAt (fieldAt body 2 1) 0) h)) ∧
      (let u1 := setRegBit (bump s1 (Reg.FAB_PORT_FEC n) 0 32 1) Reg.FAB_ERR 0
       let u := bump u1 (Reg.FAB_PORT_REPLAY n) 0 32 1
       (lane = 0 → exec (.flitReceive n bytes false symbols) s =
         .next (joinFlit u n 0 (bitAt h 28) (bitAt h 27) true (bitAt h 28) body)) ∧
       (lane ≠ 0 → exec (.flitReceive n bytes false symbols) s = .next (sendControl u n (portAt u n).rxSeq true 0 0)))) ∧
    (∀ n seq nak lane tolls, n < 16 → 6 ≤ (portAt s n).state → seq < 4096 → lane < 8 → tolls < 256 →
      exec (.controlFlit n seq nak lane tolls) s =
        .next (takeControl (bump s (Reg.FAB_PORT_RX n) 0 64 1) n seq nak (lane * 2 ^ 11 + tolls * 2 ^ 3))) ∧
    (∀ n, s.flt.fault = none → regField s Reg.PWR_STATE 5 3 < 3 →
      (∀ q, (s.fab.inbox.find? fun q => q.port == n && !forMe s q && !tollBound s q) = some q →
        exec (.fabForward n) s = .next (forwardPkt { s with fab := { s.fab with inbox := s.fab.inbox.erase q } } q)) ∧
      ((s.fab.inbox.find? fun q => q.port == n && !forMe s q && !tollBound s q) = none →
        exec (.fabForward n) s = .next (s.fab.waiting.foldl retryWaiting { s with fab := { s.fab with waiting := [] } }))) ∧
    (∀ w, (s.fab.waiting.find? fun w => w.lane == 1 && (pkSrc w.bytes == selfId s || classOpen s (pkClass w.bytes))) = some w →
      exec .escapeTimeout s = .next (routePkt { s with fab := { s.fab with waiting := s.fab.waiting.erase w } } { w with lane := 2 }).2) ∧
    (∀ w, s.fab.waiting = [w] → pkSrc w.bytes = selfId s →
      (let e := reg s (Reg.FAB_ROUTE (pkDest w.bytes))
       (∀ n ∈ candidates e, portUp s n = false) ∧ portUp s (e / 2 ^ 7 % 16) = false) →
      exec .routeWaitTimeout s = .next (unreachable (freeWait { s with fab := { s.fab with waiting := [] } } w) w.bytes)) ∧
    (∀ i r, (s.fab.reqs.find? fun r => r.id = i) = some r →
      ((r.kind = 0x01 ∨ r.kind = 0x03) → r.tries < 3 → exec (.bulkResponseTimeout i) s =
        .next (originate { s with fab := { s.fab with reqs := s.fab.reqs.map fun x => if x.id = i then { x with tries := x.tries + 1 } else x } } r.bytes).2) ∧
      ((r.kind = 0x01 ∨ r.kind = 0x03) → 3 ≤ r.tries → exec (.bulkResponseTimeout i) s = .next (finishReq s r 0xFF [])) ∧
      (r.kind ≠ 0x01 → r.kind ≠ 0x03 → exec (.bulkResponseTimeout i) s = .next (finishReq s r 0xFF [])))

/-- The packet kinds of Table 9.6 but MGMT (R157, R341, R348, R350, R356 to R358, R360, R367). -/
def Obligations.FabricPackets : Prop :=
  ∀ (s : State) (n : Nat) (q : RxPkt) (s1 : State),
    (myWrite s n 0x01 = some (q, s1) →
      let len := (pkPayload q.bytes).length
      let s2 := performWrite s1 q
      let denied := (pkClass q.bytes = 1 ∨ fromMember s1 (pkSrc q.bytes) = false) ∧ permitted s1 (pkSrc q.bytes) = false
      (denied → exec (.fabWrite n) s = .next (respond (setRegBit s1 Reg.FAB_ERR 7) q 3 [])) ∧
      (¬ denied → remoteRefused s1 (pkDpa q.bytes) len = true →
        exec (.fabWrite n) s = .next (respond s1 q 3 [])) ∧
      (pkClass q.bytes = 1 → permitted s1 (pkSrc q.bytes) = true → remoteRefused s1 (pkDpa q.bytes) len = false →
        exec (.fabWrite n) s = .next (respond s2 q (if rangeRetired s1 (pkDpa q.bytes) len then 2 else 0) [])) ∧
      (pkClass q.bytes = 0 → ¬ denied → remoteRefused s1 (pkDpa q.bytes) len = false →
        exec (.fabWrite n) s = .next (respond (noteTransfer s2 q len) q (if rangeRetired s1 (pkDpa q.bytes) len then 2 else 0) []))) ∧
    (myPkt s n 0x02 = some (q, s1) →
      (pkClass q.bytes = 0 → exec (.fabWack n) s = .next { s1 with itn := { s1.itn with schedOut := s1.itn.schedOut.erase (pkId q.bytes) } }) ∧
      (∀ r, pkClass q.bytes = 1 → (s1.fab.reqs.find? fun r => r.id = pkId q.bytes) = some r →
        exec (.fabWack n) s = .next (finishReq s1 r (pkOp q.bytes) (pkPayload q.bytes)))) ∧
    (myPkt s n 0x03 = some (q, s1) →
      let len := min (pkLen q.bytes) 4096
      let r := readMem s1 0 .stream (pkDpa q.bytes) len
      (permitted s1 (pkSrc q.bytes) = false → exec (.fabRead n) s = .next (refusePkt (setRegBit s1 Reg.FAB_ERR 7) q 3)) ∧
      (permitted s1 (pkSrc q.bytes) = true → remoteRefused s1 (pkDpa q.bytes) len = true → exec (.fabRead n) s = .next (refusePkt s1 q 3)) ∧
      (permitted s1 (pkSrc q.bytes) = true → remoteRefused s1 (pkDpa q.bytes) len = false → exec (.fabRead n) s =
        .next (respond r.2 q (if rangeRetired s1 (pkDpa q.bytes) len then 2 else if r.1.any (·.poison) then 1 else 0) (r.1.map (·.b))))) ∧
    (∀ r, myPkt s n 0x04 = some (q, s1) → (s1.fab.reqs.find? fun r => r.id = pkId q.bytes) = some r →
      exec (.fabReadResp n) s = .next (finishReq s1 r (pkOp q.bytes) (pkPayload q.bytes))) ∧
    (∀ r, myPkt s n 0x06 = some (q, s1) → (s1.fab.reqs.find? fun r => r.id = pkId q.bytes) = some r →
      exec (.fabAtomicResp n) s = .next (finishReq s1 r (pkOp q.bytes) (pkPayload q.bytes))) ∧
    ((s.fab.inbox.find? fun q => q.port == n && pkKind q.bytes == 0x05 && forMe s q && inTurn s q) = some q →
      let dpa := pkDpa q.bytes / 8 * 8
      let s1 := freeBuf { s with fab := { s.fab with inbox := s.fab.inbox.erase q } } q.port q.lane q.flits
      let r : AtomReq :=
        { slice := homeSlice s1 dpa, issuer := 256 + pkSrc q.bytes, slot := none, aop := pkOp q.bytes, dpa := dpa,
          x := BitVec.ofNat 64 (fieldAt q.bytes 24 8), y := BitVec.ofNat 64 (fieldAt q.bytes 32 8), keep := false, poison := payPoison q 0,
          who := .remote (pkSrc q.bytes) (pkId q.bytes) q.port }
      (permitted s1 (pkSrc q.bytes) = false → exec (.fabAtomic n) s = .next (refusePkt (setRegBit s1 Reg.FAB_ERR 7) q 3)) ∧
      (permitted s1 (pkSrc q.bytes) = true → (remoteRefused s1 dpa 8 = true ∨ aopOk (pkOp q.bytes) = false) →
        exec (.fabAtomic n) s = .next (refusePkt s1 q 3)) ∧
      (permitted s1 (pkSrc q.bytes) = true → remoteRefused s1 dpa 8 = false → aopOk (pkOp q.bytes) = true →
        (∀ s2, enqueueAtomic s1 r = some s2 → exec (.fabAtomic n) s = .next s2) ∧
        (enqueueAtomic s1 r = none → exec (.fabAtomic n) s = .next (bumpSlice s Reg.SCD_BP (homeSlice s1 dpa) 1)))) ∧
    (myWrite s n 0x08 = some (q, s1) →
      let len := (pkPayload q.bytes).length
      let s2 := (childPorts s1).foldl (fun s c =>
        if (portAt s c).schedOk then sendOn s c 0 (setHop q.bytes (min 15 (pkHop q.bytes + 1))) (badFlits q) else schedDrop s c) s1
      let denied := (pkClass q.bytes = 1 ∨ fromMember s2 (pkSrc q.bytes) = false) ∧ permitted s2 (pkSrc q.bytes) = false
      (denied → exec (.fabTree n) s = .next (setRegBit s2 Reg.FAB_ERR 7)) ∧
      (¬ denied → remoteRefused s2 (pkDpa q.bytes) len = true → exec (.fabTree n) s = .next s2) ∧
      (¬ denied → remoteRefused s2 (pkDpa q.bytes) len = false → ofManifest s2 q.bytes = false →
        exec (.fabTree n) s = .next (noteTransfer (performWrite s2 q) q len)) ∧
      (¬ denied → remoteRefused s2 (pkDpa q.bytes) len = false → ofManifest s2 q.bytes = true →
        exec (.fabTree n) s =
          .next (noteTransfer (performWrite { s2 with fab := { s2.fab with tree := s2.fab.tree ++ [pkPayload q.bytes] } } q) q len))) ∧
    (myPkt s n 0x16 = some (q, s1) → portUp s1 q.port = true → exec (.fabLeave n) s = .next (portDown s1 q.port false))

/-- The MGMT kinds (R340, R342 to R344, R347, R361, R620). -/
def Obligations.FabricManagement : Prop :=
  ∀ (s : State) (n : Nat) (q : RxPkt) (s1 : State),
    (myPkt s n 0x10 = some (q, s1) →
      let pay := pkPayload q.bytes
      let p := portAt s1 n
      let named := fun (p : FPort) => { p with peerPort := fieldAt pay 10 1 % 16, peerId := fieldAt pay 12 2 % 1024, peerValid := true }
      let u := setPort s1 n (if p.state = 6 then
        { named p with state := if p.lanes = 0xFF then 7 else 8,
                       schedOk := decide (p.lanes = 0xFF) && decide (regField s1 (Reg.FAB_PORT_DELAY n) 0 16 ≤ 600) } else named p)
      (p.state = 6 → bitAt (fieldAt pay 11 1) 1 = false → exec (.mgmtHello n) s = .next (noticeManager u 0x0050 n)) ∧
      ((p.state ≠ 6 ∨ bitAt (fieldAt pay 11 1) 1 = true) → exec (.mgmtHello n) s = .next u)) ∧
    (myPkt s n 0x11 = some (q, s1) →
      exec (.mgmtRead n) s = .next (respond s1 q 0 (mgmtBytes s1 (pkDpa q.bytes) (min (pkLen q.bytes) 4096) n))) ∧
    (myPkt s n 0x12 = some (q, s1) →
      let pay := pkPayload q.bytes
      let ws := (List.range (pay.length / 16)).map fun i => (fieldAt pay (16 * i) 8, fieldAt pay (16 * i + 8) 8)
      let ok := regBit s1 Reg.FAB_MANAGER 11 = true ∧ pkSrc q.bytes = regField s1 Reg.FAB_MANAGER 0 10 ∧ ∀ w ∈ ws, mgmtWritable w.1 = true
      (ok → exec (.mgmtWrite n) s = .next (respond (ws.foldl (fun s w => mgmtPut s w.1 w.2) s1) q 0 [])) ∧
      (¬ ok → exec (.mgmtWrite n) s = .next (refusePkt s1 q 3))) ∧
    (∀ r, myPkt s n 0x13 = some (q, s1) → (s1.fab.reqs.find? fun r => r.id = pkId q.bytes) = some r →
      exec (.mgmtResp n) s = .next (finishReq s1 r (pkOp q.bytes) (pkPayload q.bytes))) ∧
    (myPkt s n 0x14 = some (q, s1) →
      let code := fieldAt (pkPayload q.bytes) 0 8
      let inst := fieldAt (pkPayload q.bytes) 8 8
      ((s1.itn.caravan = none ∨ (code ≠ 0xE2 ∧ code ≠ 0xE3)) → exec (.mgmtNotice n) s = .next (raiseEvent s1 0x0050 inst)) ∧
      (∀ c, s1.itn.caravan = some c → c.index ≠ 0 → exec (.mgmtNotice n) s = .next (raiseEvent s1 0x0050 inst)) ∧
      (∀ c, s1.itn.caravan = some c → c.index = 0 →
        let e := (c.ids.findIdx fun x => x = pkSrc q.bytes, inst)
        let l := s1.flt.caravan
        (code = 0xE2 → exec (.mgmtNotice n) s = .next { s1 with flt := { s1.flt with caravan := if l.contains e then l else l ++ [e] } }) ∧
        (code = 0xE3 → exec (.mgmtNotice n) s = .next { s1 with flt := { s1.flt with caravan := l.erase e } }))) ∧
    (myPkt s n 0x15 = some (q, s1) →
      let epoch := fieldAt (pkPayload q.bytes) 0 4
      let serial := fieldAt (pkPayload q.bytes) 8 8
      let held := regField s1 Reg.FAB_MANAGER 32 32
      let ok := regBit s1 Reg.FAB_MANAGER 11 = false ∨ held < epoch ∨ (epoch = held ∧ serial < s1.fab.claimSerial)
      let s2 := setReg s1 Reg.FAB_MANAGER (epoch * 2 ^ 32 + 2 ^ 11 + pkSrc q.bytes)
      (ok → exec (.mgmtClaim n) s = .next (respond { s2 with fab := { s2.fab with claimSerial := serial } } q 0 [])) ∧
      (¬ ok → exec (.mgmtClaim n) s = .next (refusePkt s1 q 3)))

/-- BAR2_READ, BAR2_WRITE, ATOMICOP and REGISTER_WRITE (R252, R293, R294, R297, R509, R510, R512, R516, R520, R535). -/
def Obligations.HostAccesses : Prop :=
  ∀ (s : State) (fn off : Nat),
    (∀ n, mustWait s fn = true → exec (.bar2Read fn off n) s = .next (waitHost s fn (.bar2Read fn off n))) ∧
    (∀ bs ep, mustWait s fn = true → exec (.bar2Write fn off bs ep) s = .next (waitHost s fn (.bar2Write fn off bs ep))) ∧
    (mustWait s fn = false → bootStage s ≠ 0xE → linkDown s = false → bar2Served s fn = true →
      (∀ n, (fn ∈ s.pci.granted ∨ bar2Busy s fn off n = none) →
        let u := if fn ∈ s.pci.granted then { s with pci := { s.pci with granted := s.pci.granted.erase fn } } else s
        (∀ t, bar2Pieces u fn off n false = (none, t) → exec (.bar2Read fn off n) s = .next (answerUr t fn)) ∧
        (∀ dpa m t, bar2Pieces u fn off n false = (some [.mem dpa m], t) →
          exec (.bar2Read fn off n) s = .next (answerData (readMem t 0 .stream dpa m).2 fn off (readMem t 0 .stream dpa m).1)) ∧
        (∀ dpa m t, bar2Pieces u fn off n false = (some [.ctl dpa m], t) →
          exec (.bar2Read fn off n) s = .next (answerData t fn off (ctlRead t dpa m)))) ∧
      (∀ n x, fn ∉ s.pci.granted → bar2Busy s fn off n = some x →
        ((∀ r ∈ (stackAt s x.1).bankq, r.work ≠ .host fn) →
          exec (.bar2Read fn off n) s = .next (waitHost (joinBank s x.1 x.2) fn (.bar2Read fn off n))) ∧
        ((∃ r ∈ (stackAt s x.1).bankq, r.work = .host fn) → exec (.bar2Read fn off n) s = .next (waitHost s fn (.bar2Read fn off n)))) ∧
      (∀ bs t, bar2Pieces s fn off (bs : List Byte).length true = (none, t) → exec (.bar2Write fn off bs false) s = .next t) ∧
      (∀ bs dpa t, bar2Pieces s fn off (bs : List Byte).length true = (some [.mem dpa bs.length], t) →
        exec (.bar2Write fn off bs false) s = .next (writeMem t 0 (224 + 65536 * fn) .stream dpa (bs.map (⟨·, false⟩)))) ∧
      (∀ bs dpa t, bar2Pieces (setRegBit s Reg.PCI_ERR 3) fn off (bs : List Byte).length true = (some [.mem dpa bs.length], t) →
        bar2Served (setRegBit s Reg.PCI_ERR 3) fn = true → linkDown (setRegBit s Reg.PCI_ERR 3) = false →
        exec (.bar2Write fn off bs true) s = .next (writeMem t 0 (224 + 65536 * fn) .stream dpa (bs.map (⟨·, true⟩)))) ∧
      (∀ op a dpa m t u x y, bar2Pieces s fn off 8 true = (some [.mem dpa m], t) → (op, a) ∈ [(0, 0x01), (1, 0x0F), (2, 0x10)] →
        dpa % 8 = 0 → regionOf t dpa = .interleaved → enqueueAtomic t ⟨homeSlice t dpa, 224, none, a, dpa, x, y, false, false, .host fn⟩ = some u →
        exec (.atomicop fn off op 8 x y) s = .next u) ∧
      (∀ op a dpa m t x y, bar2Pieces s fn off 8 true = (some [.mem dpa m], t) → (op, a) ∈ [(0, 0x01), (1, 0x0F), (2, 0x10)] →
        dpa % 8 = 0 → regionOf t dpa = .interleaved → enqueueAtomic t ⟨homeSlice t dpa, 224, none, a, dpa, x, y, false, false, .host fn⟩ = none →
        exec (.atomicop fn off op 8 x y) s = .next (waitHost (bumpSlice t Reg.SCD_BP (homeSlice t dpa) 1) fn (.atomicop fn off op 8 x y))) ∧
      (∀ op size x y, (size ≠ 8 ∨ 2 < op) → exec (.atomicop fn off op size x y) s = .next (answerUr (bar2Pieces s fn off size true).2 fn))) ∧
    (∀ bs, mustWait s fn = false → memServed s fn = true → bootStage s ≠ 0xE → fn ≤ 64 → (bs : List Byte) ≠ [] →
      exec (.registerWrite fn off bs true) s = .next (setRegBit s Reg.PCI_ERR 3) ∧
      (fn = 0 → exec (.registerWrite fn off bs false) s = .next (writeBar0 s off bs.length (ofLe bs))) ∧
      (fn ≠ 0 → exec (.registerWrite fn off bs false) s = .next (writeVfBar0 s fn off bs.length (ofLe bs)))) ∧
    (∀ bs ep, mustWait s fn = true → memServed s fn = true → bootStage s ≠ 0xE → fn ≤ 64 → (bs : List Byte) ≠ [] →
      exec (.registerWrite fn off bs ep) s = .next (waitHost s fn (.registerWrite fn off bs ep)))

/-- Table 13.11, R508, R511, R512, R517, R523 and R536. -/
def Obligations.LinkEvents : Prop :=
  ∀ (s : State),
    (∀ v, 1 ≤ v → v ≤ 64 → exec (.flrVf v) s = .next ((ctxKeysOf s v).foldl doomCtx (flrCore s v))) ∧
    (let s1 := (List.range 65).foldl (fun s v => (ctxKeysOf s v).foldl doomCtx (flrCore s v)) s
     let s2 := setField { s1 with cmd := { s1.cmd with ready := false }, pci := { s1.pci with vfEnable := false, numVfs := 0 } } Reg.HUB_CMD_CTRL 0 1 0
     exec .flrPf s = .next s2 ∧ exec .hotReset s = .next (setReg s2 Reg.PCI_LINK 0)) ∧
    (s.pwr.perst = false → exec (.modPerstN true) s = .next (outerReset { s with pwr := { s.pwr with perst := true } })) ∧
    (s.pwr.perst = true → exec (.modPerstN true) s = .next s) ∧
    (exec (.modPerstN false) s = .next { s with pwr := { s.pwr with perst := false } }) ∧
    (∀ rate width flit, rate < 16 → width < 32 → exec (.hostLinkTrained rate width flit) s =
      .next (setReg s Reg.PCI_LINK (rate * 2 ^ 12 + width * 2 ^ 7 + (if flit then 2 ^ 6 else 0)))) ∧
    (∀ fn, exec (.d3hot fn true) s = .next { s with pci := { s.pci with d3hot := fn :: s.pci.d3hot.filter (· != fn) } } ∧
      exec (.d3hot fn false) s = .next { s with pci := { s.pci with d3hot := s.pci.d3hot.filter (· != fn) } }) ∧
    (∀ n, n ≤ 64 →
      (16 + n * regField s Reg.PCI_VF_CFG 0 4 ≤ 256 →
        exec (.vfEnable true n) s = .next { s with pci := { s.pci with vfEnable := true, numVfs := n } }) ∧
      (256 < 16 + n * regField s Reg.PCI_VF_CFG 0 4 →
        exec (.vfEnable true n) s = .next (setRegBit { s with pci := { s.pci with vfEnable := true, numVfs := n } } Reg.PCI_ERR 6)) ∧
      exec (.vfEnable false n) s = .next { s with pci := { s.pci with vfEnable := false, numVfs := 0 } }) ∧
    (∀ k, k ≤ 10 → exec (.bar2Resize 0 k) s = .next (if regField s Reg.PCI_BAR2_BASE 0 10 % 2 ^ k = 0
      then { s with pci := { s.pci with bar2Log := k } } else setRegBit s Reg.PCI_ERR 0)) ∧
    (∀ fn k, 1 ≤ fn → fn ≤ 64 → k ≤ 6 → exec (.bar2Resize fn k) s = .next { s with pci := { s.pci with vfBar2Log := mput 0 s.pci.vfBar2Log fn k } }) ∧
    (∀ fn vec, vec < (if fn = 0 then 256 else 16) →
      let k := fn * 256 + vec
      let s1 := { s with pci := { s.pci with msixMask := s.pci.msixMask.filter (· != k), msixPend := s.pci.msixPend.filter (· != k) } }
      (k ∈ s.pci.msixPend → exec (.vectorUnmask fn vec) s = .next (emitMsix s1 fn vec)) ∧
      (k ∉ s.pci.msixPend → exec (.vectorUnmask fn vec) s = .next s1))

/-- R512, R517, R521, R537, R539 and R530 to R534. -/
def Obligations.LinkRegisters : Prop :=
  ∀ (s : State) (v : W64),
    (mustWait s 0 = true → exec (.pciBar2Base v) s = .next (waitHost s 0 (.pciBar2Base v))) ∧
    (mustWait s 0 = false → exec (.pciBar2Base v) s = .next (if v.toNat % 2 ^ 10 % 2 ^ s.pci.bar2Log = 0 then plainWrite s Reg.PCI_BAR2_BASE v.toNat else setRegBit s Reg.PCI_ERR 0)) ∧
    (v.toNat % 16 = 0 → exec (.pciVfCfg v) s = .next (setRegBit s Reg.PCI_ERR 0)) ∧
    (v.toNat % 16 ≠ 0 → (s.pci.vfEnable = false ∨ v.toNat % 16 = regField s Reg.PCI_VF_CFG 0 4) →
      exec (.pciVfCfg v) s = .next (plainWrite s Reg.PCI_VF_CFG v.toNat)) ∧
    (v.toNat % 16 ≠ 0 → s.pci.vfEnable = true → v.toNat % 16 ≠ regField s Reg.PCI_VF_CFG 0 4 → exec (.pciVfCfg v) s =
      .next (setRegBit (plainWrite s Reg.PCI_VF_CFG (setBits v.toNat 0 4 (regField s Reg.PCI_VF_CFG 0 4))) Reg.PCI_ERR 0)) ∧
    (∀ n, 1 ≤ n → n ≤ 64 →
      let s1 := plainWrite s (Reg.PCI_VF_XLAT n) v.toNat
      exec (.pciVfXlat n v) s = .next { s1 with pci := { s1.pci with xlat := s1.pci.xlat.filter fun e => e.vf != n } }) ∧
    (let t := { setReg s Reg.PCI_HOST_TIME v.toNat with pci := { s.pci with halfNs := false } }
     exec (.pciHostTime v) s = .next t ∧ exec (.ptmUpdate v) s = .next t) ∧
    (∀ c, c < 32 →
      (chanFree s c = true → v.toNat % 4 < 2 →
        let s1 := setFeed (plainWrite s (Reg.DMA_CHAN_CFG c) v.toNat) c []
        exec (.dmaChanCfg c v) s = .next (chanSet s1 c (setInit (chanKind s1 c)))) ∧
      ((chanFree s c = false ∨ 2 ≤ v.toNat % 4) → exec (.dmaChanCfg c v) s = .next (setRegBit s Reg.DMA_ERR 5)) ∧
      (chanFree s c = true → exec (.dmaChanValue c v) s = .next (chanSet (feedAll s c) c v.toNat)) ∧
      (chanFree s c = false → exec (.dmaChanValue c v) s = .next (setRegBit s Reg.DMA_ERR 5)) ∧
      (∀ n, n = 1 ∨ n = 2 ∨ n = 4 →
        (chanAcc s c = true → (feedOf s c).length < 64 → exec (.dmaChanFeed c n v) s = .next (setFeed s c (feedOf s c ++ [leBytes n v.toNat]))) ∧
        (chanAcc s c = true → 64 ≤ (feedOf s c).length →
          let s1 := feedOne s c
          exec (.dmaChanFeed c n v) s = .next (setFeed s1 c (feedOf s1 c ++ [leBytes n v.toNat]))) ∧
        (chanAcc s c = false → exec (.dmaChanFeed c n v) s = .next (setRegBit s Reg.DMA_ERR 4))) ∧
      exec (.dmaChanFeed c 8 v) s = .next (setRegBit s Reg.DMA_ERR 4) ∧
      (∀ b q, feedOf s c = b :: q →
        let s1 := setFeed s c q
        exec (.feedProcess c) s = .next (chanSet s1 c (crcRun (chanKind s1 c) (chanValue s1 c) b))))

/-- R526 to R528, R199, R520, R531, R274 and Table 13.10, over the queues of commands (16 to 31) and of itineraries (0 to 15). -/
def Obligations.DmaDescriptors : Prop :=
  ∀ (s s0 : State) (q i fn : Nat) (hv : HostView) (d : BitVec 512), q < 32 → queueDesc s q i = some d → descReady s q i d = true →
    let fresh := ((runAt s q).waiting.find? fun w => w.1 = i) = none ∧
      fn = queueFn s0 q ∧ (16 ≤ q ∧ s0 = s ∨
       (q < 16 ∧ ∃ x, ((itinItems s).find? fun x => x.id = i) = some x ∧ s0 = beginItem s x))
    (fresh → dOp d = 6 → descHeld s q [] false d = false → exec (.chanLoad q i) s =
      .next (descDone (chanSet (feedAll s0 (dChan d)) (dChan d) (dF d 40 0 64)) q i false false .none)) ∧
    (fresh → dOp d = 8 → descHeld s q [] false d = false → exec (.dmaFence q i) s = .next (descDone s0 q i false false .none)) ∧
    (∀ x ∈ [(1, Instr.copy q i hv, hv), (2, .gather q i hv, hv), (3, .scatter q i hv, hv), (4, .convert q i hv, hv), (7, .chanStore q i, [])],
      dOp d = x.1 → (descHeld s q x.2.2 false d = true → exec x.2.1 s = .next s) ∧ (descHeld s q x.2.2 false d = false →
      let ps := sidePieces s0 fn x.2.2 false d false
      let r := readPiecesD ps.2 (if x.1 = 2 then .stream else hintOf (dF d 2 0 2)) x.2.2 false ps.1 []
      let out := requestPieces ps.2 q ps.1
      (fresh → (∀ p ∈ ps.1, p.isFab = false) → exec x.2.1 s = .next (deliverDesc r.2.2 q i x.2.2 false d r.1 r.2.1)) ∧
      (fresh → (∃ p ∈ ps.1, p.isFab = true) → exec x.2.1 s = .next (setWaiting out.2 q i out.1)) ∧
      (∀ w, ((runAt s q).waiting.find? fun w => w.1 = i) = some w → exec x.2.1 s = .next (resumeDesc s q i x.2.2 false d w.2)))) ∧
    (descHeld s q [] true d = false → (dSsp d = 1 ∧ (dOp d = 1 ∨ dOp d = 2 ∨ dOp d = 3 ∨ dOp d = 4) ∨ dLsp d = 1 ∧ dOp d ≠ 6 ∧ dOp d ≠ 8) →
      let ps := sidePieces s0 fn [] true d false
      let r := readPiecesD ps.2 (if dOp d = 2 then .stream else hintOf (dF d 2 0 2)) [] true ps.1 []
      fresh → (∀ p ∈ ps.1, p.isFab = false) → exec (.completionTimeout q i) s = .next (deliverDesc r.2.2 q i [] true d r.1 r.2.1))

/-- R547, R548, R572 to R577, R604, R648, R664 and Table 18.6. -/
def Obligations.PowerInputs : Prop :=
  ∀ (s : State),
    (∀ on, exec (.modWakeN on) s = .next (
      let s1 := { s with pwr := { s.pwr with wakePin := on } }
      if on = true ∧ s.pwr.wakePin = false ∧ ((3 ≤ powerState s1 ∧ s.pwr.commanded = true) ∨ ∃ c ∈ s.cmd.inProg, c.op = 0x0106 ∧ 3 ≤ nth c.args 0 0) then { s1 with pwr := { s1.pwr with wakeReq := true } } else s1)) ∧
    (∀ volts, volts < 65536 →
      let inRange := if s.pwr.standby then decide (1000 ≤ volts) else decide (1050 ≤ volts)
      let s1 := { setField s Reg.MOD_INPUT 0 16 volts with pwr := { s.pwr with standby := inRange } }
      exec (.standbyChange volts) s = .next (if inRange = false ∧ s.pwr.input = false ∧ s.pwr.losing = false ∧ powerState s = 4
        then setPower (alwaysOff s1) 4 0 else s1)) ∧
    (let s0 := setField s Reg.MOD_INPUT 16 16 0
     (s.pwr.losing = true → exec .inputLoss s = .next s0) ∧
     (s.pwr.losing = false → powerState s = 4 →
       let s1 := { s0 with pwr := { s0.pwr with input := false } }
       exec .inputLoss s = .next (if s.pwr.standby then s1 else setPower (alwaysOff s1) 4 0)) ∧
     (s.pwr.losing = false → powerState s ≠ 4 →
       let s1 := if powerState s = 3 then s0 else { s0 with pwr := { s0.pwr with retention := itemsNow s } }
       let s2 := coldReset (raiseAlarm (assertAlert s1) 0x06 0)
       exec .inputLoss s = .next { s2 with pwr := { s2.pwr with input := false, losing := true, commanded := false, wakeReq := false } })) ∧
    (∀ n, s.pwr.losing = true →
      let ends := fun (t : State) (err : Bool) =>
        let s2 := if err then setRegBit t Reg.HLD_ERR 1 else t
        let s3 := setField (setField s2 Reg.HLD_LAST 0 4 (s.pwr.retention.bits - t.pwr.retention.bits)) Reg.PWR_STATE 3 1 1
        let s4 := setPower { s3 with pwr := { s3.pwr with losing := false } } 4 0
        if s.pwr.standby = true ∨ s.pwr.input = true then s4 else setPower (alwaysOff s4) 4 0
      (flashOpen s = true → exec (.inputLossEnd n) s = .next (ends (commitItems s n) (decide ((commitItems s n).pwr.retention.bits ≠ 0)))) ∧
      (flashOpen s = false → exec (.inputLossEnd n) s = .next (ends s false))) ∧
    (∀ volts, volts < 65536 →
      let s1 := setField s Reg.MOD_INPUT 16 16 volts
      (volts < 4000 → exec (.inputReturn volts) s = .next s1) ∧
      (4000 ≤ volts → exec (.inputReturn volts) s = .next { s1 with pwr := { s1.pwr with input := true } })) ∧
    (∀ energy capacity, energy < 65536 → capacity < 65536 →
      let was := regBit s Reg.HLD_STATUS 2
      let ok := decide (1200 ≤ energy)
      let s2 := chargeNow (setField (setField (setField s Reg.HLD_STATUS 16 16 energy) Reg.HLD_STATUS 32 16 capacity) Reg.HLD_STATUS 2 1 (if ok then 1 else 0))
      exec (.holdupOkChange energy capacity) s = .next (
        if ok = was then s2
        else if ok then raiseIf s2 Reg.HLD_CTRL 1 0x0098 1
        else raiseIf (raiseAlarm s2 0x08 energy) Reg.HLD_CTRL 1 0x0098 0)) ∧
    (flashOpen s = true → hubRuns s = true →
      (s.pwr.retention.bits ≠ 0 → exec .deferredFlashWrite s = .next (commitItems s 4)) ∧
      (s.pwr.retention.bits = 0 → s.mem.retPending ≠ [] → exec .deferredFlashWrite s =
        .next (s.mem.retPending.foldl (fun s r => raiseEvent s 0x0033 r.stack)
          { s with mem := { s.mem with flashRet := s.mem.flashRet ++ s.mem.retPending, retPending := [] } })) ∧
      (s.pwr.retention.bits = 0 → s.mem.retPending = [] → s.sec.deferred = true → exec .deferredFlashWrite s = .next (deferredRec s)) ∧
      (s.pwr.retention.bits = 0 → s.mem.retPending = [] → s.sec.deferred = false → exec .deferredFlashWrite s =
        .next { s with dep := { s.dep with age := s.dep.age.map fun kv => (kv.1, { kv.2 with deferred := false }) } }))

/-- R32, R34, R552 to R561 and R566 to R571. -/
def Obligations.Watchman : Prop :=
  ∀ (s : State),
    (∀ m c k h,
      let o := s.pwr.overFor
      let n := fun (old draw lo : Nat) => if 102 * regField s Reg.PWR_GRANT lo 16 < 100 * draw then old + 1 else 0
      let counts := (n o.1 c 32, n o.2.1 k 16, n o.2.2 h 0)
      let s1 := { s with pwr := { s.pwr with samples := ((m, c, k, h) :: s.pwr.samples).take 100, overFor := counts } }
      let s2 := if 100 ≤ counts.1 ∨ 100 ≤ counts.2.1 ∨ 100 ≤ counts.2.2 then setRegBit s1 Reg.PWR_ERR 0 else s1
      let above := sustainedLimit s < average s2 10 (·.1)
      let on := regBit s Reg.PWR_BUDGET 0
      let age := if on then s.pwr.excur + 1 else 0
      let quiet := fun (q : Nat) => { s2 with pwr := { s2.pwr with quiet := q, excur := age } }
      (above → on = false → runActive s = true → 10000 ≤ s.pwr.quiet → exec (.powerSample m c k h) s =
        .next (bump (setRegBit (quiet 0) Reg.PWR_BUDGET 0) Reg.PWR_BUDGET 32 32 1)) ∧
      (above → on = false → (runActive s = false ∨ s.pwr.quiet < 10000) → exec (.powerSample m c k h) s = .next (quiet 0)) ∧
      (above → on = true → exec (.powerSample m c k h) s =
        .next (if runActive s = false ∨ 2000 ≤ age then setField (quiet 0) Reg.PWR_BUDGET 0 1 0 else quiet 0)) ∧
      (¬ above → exec (.powerSample m c k h) s =
        .next (let t := quiet (min (s.pwr.quiet + 1) 10000); if on then setField t Reg.PWR_BUDGET 0 1 0 else t))) ∧
    (let most := (if regBit s Reg.PWR_BUDGET 0 = true ∧ runActive s = true then shortLimit s else sustainedLimit s) - 500
     let t := targets s most
     let want := min (t.1 + t.2) most
     let need := min (stackLimit s) ((List.range (stackCount s)).map fun k => match (stackAt s k).state with
       | .off => 0 | .selfRefresh => Config.refreshWatts k true | _ => Config.refreshWatts k false).sum
     let pool := max need (if want ≤ s.pwr.pool then want else min want (s.pwr.pool + (100 - (measHub s - s.pwr.hubDraw))))
     let k := max need (min t.2 pool)
     exec .budgetInterval s = .next { setReg s Reg.PWR_GRANT (min t.1 (pool - k) * 2 ^ 32 + k * 2 ^ 16 + 500) with
       pwr := { s.pwr with pool := pool, hubDraw := measHub s } }) ∧
    (∀ u took, runActive s = false → exec (.dutyDelay u took) s =
      .next { s with pwr := { s.pwr with delays := mput 0 s.pwr.delays u ((max s.itn.reqBudget s.itn.reqThermal - 16) * took / 16) } }) ∧
    (∀ v : W64, v.getLsbD 7 = true → exec (.pwrClrCounters v) s = .next (setField (plainWrite s Reg.PWR_CTRL v.toNat) Reg.PWR_BUDGET 32 32 0)) ∧
    (∀ i t, sensorPresent s.variant i = true → -32768 ≤ t → t ≤ 32767 →
      let x := sampleSensor i (sensorAt s i) t
      let s1 := sensorEvents { s with pwr := { s.pwr with sensors := mset s.pwr.sensors i x } } i (sensorAt s i) (some x)
      let s2 := match sensorStack i with | some k => stackHold (stackHot s1 k) k | none => s1
      let s3 := if i = 280 then flashWindow s2 t else if i = 277 then chargeWindow s2 t else if i = 278 then inletRange s2 (sensorAt s i) (some x) else s2
      let s4 := { s3 with pwr := { s3.pwr with coolSince := if isCool s3 then some (s3.pwr.coolSince.getD s3.bell) else none } }
      exec (.sensorSample i t) s = .next (if atOver (limits i).trip (some x) && !s4.pwr.trips.contains (limits i).group then trip s4 i t else s4)) ∧
    (∀ f, f < 65536 →
      let flow := min (f * 60 / max 1 (regField s Reg.COL_FLOW_CFG 16 16)) 65535
      let outRate : Int := match sensorAt s 279 with | some x => x.rate | none => 0
      let calm := if outRate ≤ 4 then min (s.pwr.outCalm + 1) 100 else 0
      let integ := match sensorAt s 279 with
        | some x => max (-8000) (min 8000 (s.pwr.integ + (regField s Reg.COL_CTRL 24 8 : Int) * (x.temp - deg (regField s Reg.COL_CTRL 32 8))))
        | none => s.pwr.integ
      let low := decide (flow < regField s Reg.COL_FLOW_CFG 0 16)
      let bad := if low && decide (200 ≤ regField s Reg.COL_DEMAND 0 10) then min (s.pwr.flowBad + 1) 20 else 0
      let good := if low then 0 else min (s.pwr.flowGood + 1) 20
      let s2 := { s with pwr := { s.pwr with
        boost := decide (8 < outRate) || (s.pwr.boost && decide (calm < 100)), outCalm := calm, integ := integ, annIn := s.pwr.annIn - 100,
        flowBad := bad, flowGood := good, lowFlow := s.pwr.lowFlow && decide (good < 20) } }
      let pff := min (forecastPower s2) 65535
      exec (.coolantUpdate f) s = .next (setReg (setReg s2 Reg.COL_FLOW (f * 2 ^ 16 + flow)) Reg.COL_DEMAND
        (pff * 2 ^ 32 + intEncode 16 (integ / 16) * 2 ^ 16 + dutyOf s2 pff))) ∧
    (20 ≤ s.pwr.flowBad → s.pwr.lowFlow = false →
      let flow := regField s Reg.COL_FLOW 0 16
      let s1 := { s with pwr := { s.pwr with lowFlow := true }, itn := { s.itn with reqThermal := 64 } }
      exec .lowFlow s = .next (raiseIf (raiseAlarm (setRegBit s1 Reg.COL_ERR 2) 0x07 flow) Reg.COL_FLOW_CFG 34 0x0090 flow)) ∧
    (∀ v : W64,
      (60000 < v.toNat % 2 ^ 16 → exec (.colAnnounce v) s = .next (setRegBit s Reg.COL_ERR 3)) ∧
      (v.toNat % 2 ^ 16 ≤ 60000 →
        let s1 := plainWrite s Reg.COL_ANNOUNCE v.toNat
        exec (.colAnnounce v) s = .next { s1 with pwr := { s1.pwr with annIn := v.toNat % 2 ^ 16 } }))

/-- Table 15.1, R581, R582, R586, R589, R595 and R607. -/
def Obligations.DepotQueues : Prop :=
  ∀ (s : State),
    (∀ q w poison epoch, q < 256 →
      let d := queueAt s q
      let s1 := emit (setQueue s q (appendCells d [mkCell (w : W32).toNat poison])) (.depot 0 true false)
      (epoch ≠ d.epoch → exec (.push q w poison epoch) s = .next (emit s (.depot 1 false false))) ∧
      (epoch = d.epoch → (s.dep.fault = true ∨ d.limit ≤ d.cells.length) → exec (.push q w poison epoch) s = .next (emit s (.depot 2 false false))) ∧
      (epoch = d.epoch → s.dep.fault = false → d.cells.length < d.limit → queuePolicy q ≠ 3 → exec (.push q w poison epoch) s = .next s1) ∧
      (epoch = d.epoch → s.dep.fault = false → d.cells.length < d.limit → queuePolicy q = 3 → exec (.push q w poison epoch) s =
        .next (decimate (ringPush (setQueue s1 q (traceWord (queueAt s1 q) w.toNat)) [w.toNat]) q d.cells.length))) ∧
    (∀ q upset, q < 256 → exec (.pop q upset .uncorrectable) s = .next (faultDepot s)) ∧
    (∀ q link c cs, q < 256 → link ≠ .uncorrectable → s.dep.fault = false → (queueAt s q).cells = c :: cs → queuePolicy q ≠ 3 →
      c.parity = cellParity c.word c.valid c.poison →
      exec (.pop q false link) s = .next (emit (setQueue s q { queueAt s q with cells := cs }) (.depot c.word.toNat c.valid c.poison))) ∧
    (∀ q link c cs, q < 256 → link ≠ .uncorrectable → s.dep.fault = false → (queueAt s q).cells = c :: cs →
      c.parity ≠ cellParity c.word c.valid c.poison →
      let s1 := setRegBit (setQueue s q { queueAt s q with cells := cs, parityFails := min ((queueAt s q).parityFails + 1) 0xFFFF }) Reg.DEP_ERR 1
      let s2 := emit (raiseIf s1 Reg.DEP_CTRL 5 0x00C5 q) (.depot c.word.toNat c.valid true)
      exec (.pop q false link) s = .next (if queuePolicy q = 3 then decimate s2 q (cs.length + 1) else s2)) ∧
    (∀ q link, q < 256 → link ≠ .uncorrectable → (queueAt s q).cells = [] → queuePolicy q ≠ 3 →
      exec (.pop q false link) s = .next (emit s (.depot 0 false false))) ∧
    (∀ q, q < 256 → exec (.room q) s =
      .next (emit s (.depot ((queueAt s q).epoch * 2 ^ 16 + ((queueAt s q).limit - (queueAt s q).cells.length)) true false))) ∧
    (∀ v : W64, v.getLsbD 31 = false → exec (.depQcfgLimit v) s = .next (writeQcfg s v.toNat)) ∧
    (∀ v : W64, v.getLsbD 31 = true → exec (.flush v) s = .next (writeQcfg s v.toNat)) ∧
    (∀ v : Nat,
      let q := regField s Reg.DEP_QSEL 0 8
      let n := v % 2 ^ 16
      let clean := v / 2 ^ 32 = 0 ∧ v / 2 ^ 28 % 2 ^ 3 = 0 ∧ v / 2 ^ 16 % 2 ^ 8 = 0
      let s1 := setQueue s q { queueAt s q with limit := n }
      (¬ clean → writeQcfg s v = setRegBit s Reg.DEP_ERR 3) ∧
      (clean → (q < 0x10 ∨ 0x31 < q) → bitAt v 31 = true → writeQcfg s v = setRegBit s Reg.DEP_ERR 3) ∧
      (clean → (q < 0x10 ∨ 0x31 < q) → bitAt v 31 = false → writeQcfg s v = s) ∧
      (clean → 0x10 ≤ q → q ≤ 0x31 → limitOk s q n = false → writeQcfg s v = setRegBit s Reg.DEP_ERR 3) ∧
      (clean → 0x10 ≤ q → q ≤ 0x31 → limitOk s q n = true → bitAt v 31 = false → writeQcfg s v = s1) ∧
      (clean → 0x10 ≤ q → q ≤ 0x31 → limitOk s q n = true → bitAt v 31 = true → writeQcfg s v = flushQueue s1 q)) ∧
    (∀ v : W64, v.getLsbD 7 = true → v.toNat &&& 0xBF = v.toNat → exec (.depClrCounters v) s = .next (clearDep (plainWrite s Reg.DEP_CTRL v.toNat)))

/-- R593 to R597 and R601 to R606. -/
def Obligations.Collectors : Prop :=
  ∀ (s : State),
    (∀ a as, s.dep.latch = a :: as → s.dep.fault = false →
      let d := queueAt s 0
      let ws := [recHeader 3 0x0C a.kind 0 3, a.inst % 2 ^ 32, a.bell % 2 ^ 32, a.repeats * 2 ^ 16 + a.bell / 2 ^ 32 % 2 ^ 16]
      let s1 := setQueue s 0 (appendCells d (ws.map fun w => mkCell w false))
      let log := s1.dep.faultLog ++ [ws.map (BitVec.ofNat 32)]
      let s2 := { s1 with dep := { s1.dep with latch := as, faultLog := log.drop (log.length - 512), countdown := if s1.dep.frozen || s1.dep.countdown.isSome then s1.dep.countdown else some (4096, 65536) } }
      (d.limit < d.cells.length + 4 → exec .alarmPush s = .next (setRegBit s Reg.DEP_ERR 0)) ∧
      (d.cells.length + 4 ≤ d.limit → exec .alarmPush s = .next (raiseIf (refillLatch s2) Reg.DEP_CTRL 0 0x00C0 a.kind))) ∧
    (∀ t b, s.dep.countdown = some (t, b) → (t = 0 ∨ b = 0) →
      exec .incidentFreeze s = .next { s with dep := { s.dep with frozen := true, countdown := none } }) ∧
    (let period := regField s Reg.DEP_CNT_CFG 0 21
     period ≠ 0 → period ∣ s.bell → powerState s < 3 → booted s = true →
     let r := countersNow s
     exec .counterSample s = .next (pushRecord r.2 0x30 ([recHeader 5 0x0C 0 0 (2 + 2 * r.1.length), s.bell % 2 ^ 32, s.bell / 2 ^ 32 % 2 ^ 16]
       ++ r.1.flatMap fun v => [v % 2 ^ 32, v / 2 ^ 32 % 2 ^ 32]))) ∧
    (∀ ms : List (Nat × Int), (∀ x ∈ ms, x.1 / 256 ≠ 2 ∧ x.1 / 256 ≠ 4) →
      exec (.ageingSample ms) s = .next (addSample (ms.foldl (fun s x => addSample s x.1 x.2)
        { s with dep := { s.dep with minutes := s.dep.minutes + 1 } }) 0x400 (8192 - (s.mem.retired.length : Int)))) ∧
    (∀ ms : List (Nat × Int), exec (.eyeMarginSample ms) s = .next (ms.foldl (fun s x => addSample s (0x200 + x.1) x.2) s)) ∧
    (let s0 := flashFirst s
     let s1 := { s0 with dep := { s0.dep with day := s0.dep.day + 1 } }
     exec .dailyPoint s = .next (raiseIf ((ageKeys s.variant).foldl dailyOne s1) Reg.AGE_CTRL 1 0x00C9 s1.dep.day))

/-- Table 16.2 and R611 to R614. -/
def Obligations.FaultEntries : Prop :=
  ∀ (s : State) (x : Instr × Nat × Nat × Nat),
    ((∃ core, core < 8 ∧ x = (.qmWatchdog core, 5, core, 5)) ∨ (∃ i, i < 256 ∧ x = (.engineWatchdog i, 6, i, 5)) ∨
     (∃ n, n < 2 ∧ (x = (.dieFault false n, 1, n, 4) ∨ x = (.dieFault true n, 2, n, 4))) ∨ (∃ i, i < 256 ∧ x = (.hubSramUe i, 4, i, 5))) →
    exec x.1 s = .next (enterFault s x.2.1 x.2.2.1) ∧
    (s.flt.fault = none → (enterFault s x.2.1 x.2.2.1).flt.fault = some ⟨x.2.1, x.2.2.1, x.2.2.2⟩) ∧
    (∀ f, s.flt.fault = some f →
      let r : FaultRec := if x.2.1 < f.cause then ⟨x.2.1, x.2.2.1, max f.need x.2.2.2⟩ else ⟨f.cause, f.detail, max f.need x.2.2.2⟩
      enterFault s x.2.1 x.2.2.1 = { s with flt := { s.flt with fault := some r }, pwr := { s.pwr with alert := true, acked := false } })

/-- R630 to R633, R636, R638, R640 to R642, R646 and R652. -/
def Obligations.BootStages : Prop :=
  ∀ (s : State),
    (s.pwr.input = true → s.pwr.perst = false → s.pwr.losing = false → bootStage s = 0 → 3 ∉ s.pwr.trips →
      (powerState s < 3 → exec .bootStart s = .next (setStage s 1)) ∧
      (3 ≤ powerState s → s.pwr.commanded = true → s.pwr.wakeReq = false → exec .bootStart s = .next s) ∧
      ((s.pwr.commanded = false ∨ s.pwr.wakeReq = true) →
        (powerState s = 3 → exec .bootStart s =
          .next (setStage { s with pwr := { s.pwr with waking := true, commanded := false, wakeReq := false } } 1)) ∧
        (4 ≤ powerState s → exec .bootStart s =
          .next (setStage (setField (coldReset { s with pwr := { s.pwr with commanded := false, wakeReq := false } }) Reg.PWR_STATE 3 1 0) 1)))) ∧
    (bootStage s = 1 → exec (.hubUp true) s = .next (setStage s 2) ∧ exec (.hubUp false) s = .next (assertAlert (setStage s 0xF))) ∧
    (bootStage s = 2 →
      (flashOpen s = true → s.pwr.waking = false → exec .retained s = .next (setStage (commitItems s 4) 3)) ∧
      ((flashOpen s = false ∨ s.pwr.waking = true) → exec .retained s = .next (setStage s 3))) ∧
    (bootStage s = 3 →
      let s1 := setField s Reg.SEC_STATUS 6 1 (if s.sec.marker.isSome then 1 else 0)
      (s.sec.marker = some 2 → exec .blob s = .next (recover s1 6)) ∧
      (s.sec.marker ≠ some 2 → blobOk s.sec.flashBlob = false → exec .blob s = .next (recover s1 7)) ∧
      (s.sec.marker ≠ some 2 → blobOk s.sec.flashBlob = true → exec .blob s = .next (setStage
        (setField { s1 with sec := { s1.sec with blob := s.sec.flashBlob } } Reg.SEC_VERSION 0 32 (fieldAt s.sec.flashBlob 8 4)) 4))) ∧
    (bootStage s = 4 →
      let c := imageCause s.sec.blob s.sec.flashImage
      (s.sec.marker = some 1 → exec .image s = .next (recover s 6)) ∧
      (s.sec.marker ≠ some 1 → c = 0 → exec .image s = .next (runImage s s.sec.flashImage 0)) ∧
      (s.sec.marker ≠ some 1 → c ≠ 0 → exec .image s = .next (recover s c))) ∧
    (bootStage s = 5 →
      let s1 := setStage (loadSign s) 6
      let cause := regField s Reg.SEC_STATUS 8 4
      let s2 := if cause = 0 then s1 else raiseIf s1 Reg.SEC_CTRL 0 0x00F0 cause
      (s.pwr.waking = true → exec .signState s = .next (
        let s3 := if s2.cmd.work = .cold then s2 else wakeStacks s2
        restoreHeld (setPower { s3 with pwr := { s3.pwr with waking := false } } 0 0))) ∧
      (s.pwr.waking = false → s2.dep.lost = true → exec .signState s = .next (loadItems s2)) ∧
      (s.pwr.waking = false → s2.dep.lost = false → exec .signState s = .next s2)) ∧
    (∀ v : W64, bootStage s = 0xE → v.toNat / 2 ^ 32 ≤ 67108864 →
      let n := v.toNat / 2 ^ 32
      let s1 := plainWrite s Reg.SEC_RCV_CTRL v.toNat
      let img := placed s n
      (v.toNat % 4 = 1 → rcvKind s = 1 →
        let c := imageCause s.sec.blob img
        let s2 := runImage (rcvResult s1 stDone) img 1
        (c = 0 → exec (.boot v) s = .next { s2 with sec := { s2.sec with staged := mset s2.sec.staged 1 img } }) ∧
        (c ≠ 0 → exec (.boot v) s = .next (rcvResult s1 (causeStatus c)))) ∧
      (v.toNat % 4 = 2 → rcvKind s = 2 →
        let s2 := setField (setStage (rcvResult s1 stDone) 3) Reg.SEC_STATUS 8 4 0
        (blobForm img = false → exec (.writeBlob v) s = .next (rcvResult s1 stBadParam)) ∧
        (blobForm img = true → signedOk img 0x200 0x238 = false → exec (.writeBlob v) s = .next (rcvResult s1 stSigInvalid)) ∧
        (blobForm img = true → signedOk img 0x200 0x238 = true → flashOpen s = false → exec (.writeBlob v) s = .next (rcvResult s1 stInhibit)) ∧
        (blobForm img = true → signedOk img 0x200 0x238 = true → flashOpen s = true → exec (.writeBlob v) s =
          .next { s2 with sec := { s2.sec with flashBlob := img, marker := if s.sec.marker = some 2 then none else s.sec.marker } })) ∧
      (v.toNat % 4 = 1 → rcvKind s ≠ 1 → exec (.boot v) s = .next (rcvResult s1 stBadParam)) ∧
      (v.toNat % 4 = 2 → rcvKind s ≠ 2 → exec (.writeBlob v) s = .next (rcvResult s1 stBadParam)))

/-- R645 and R649 to R651, Table 17.9. The layout of a discovery answer is the model's (PRESUMED). -/
def Obligations.Attestation : Prop :=
  ∀ (s : State), hubRuns s = true → linkDown s = false →
    let ans := fun (code status : Nat) (b : List Byte) => emit s (.doe (leBytes 4 (status * 2 ^ 16 + 0x0100 + code) ++ b))
    (s.sec.nextTree = false → (s.sec.tree + 1) * 2 ^ 20 - s.sec.next < 262144 →
      exec .nextTreeBuild s = .next (serveReqs 64 { s with sec := { s.sec with nextTree := true } })) ∧
    (∀ w : W32, w.toNat % 256 = 1 → exec (.doeIdentity w []) s = .next (ans 0x81 stDone (identityRecord s))) ∧
    (∀ w : W32, w.toNat % 256 = 2 → exec (.doeCertificate w []) s = .next (ans 0x82 stDone (padTo 4096 s.sec.blob))) ∧
    (∀ w : W32, w.toNat % 256 = 4 → exec (.doeSignStatus w []) s = .next (ans 0x84 stDone (leBytes 8 s.sec.next ++ leBytes 8 s.sec.rend))) ∧
    (∀ (w : W32) nonce bad, w.toNat % 256 = 3 → (nonce : List Byte).length = 32 →
      let r : SignReq := { pkt := none, window := 0, body := measurement s 0 nonce }
      (∀ sig t, s.sec.reqs = [] → sign r.body bad s = (.signed sig, t) → exec (.doeMeasurement w nonce bad) s = .next (doeAnswer t 0x83 stDone (r.body ++ sig))) ∧
      (∀ st t, s.sec.reqs = [] → sign r.body bad s = (.refused st, t) → exec (.doeMeasurement w nonce bad) s = .next (doeAnswer t 0x83 st [])) ∧
      (∀ t, s.sec.reqs = [] → sign r.body bad s = (.waits, t) → exec (.doeMeasurement w nonce bad) s =
        .next { t with sec := { t.sec with reqs := t.sec.reqs ++ [r] } }) ∧
      (s.sec.reqs ≠ [] → exec (.doeMeasurement w nonce bad) s = .next { s with sec := { s.sec with reqs := s.sec.reqs ++ [r] } })) ∧
    (∀ (w : W32) b bad, w.toNat % 256 = 3 → (b : List Byte).length ≠ 32 → exec (.doeMeasurement w b bad) s = .next (ans 0x83 stBadParam [])) ∧
    (∀ (w : W32) (b : List Byte), b ≠ [] →
      (w.toNat % 256 = 1 → exec (.doeIdentity w b) s = .next (ans 0x81 stBadParam [])) ∧
      (w.toNat % 256 = 2 → exec (.doeCertificate w b) s = .next (ans 0x82 stBadParam [])) ∧
      (w.toNat % 256 = 4 → exec (.doeSignStatus w b) s = .next (ans 0x84 stBadParam []))) ∧
    (∀ (w : W32) b, (w.toNat % 256 = 0 ∨ 4 < w.toNat % 256) → exec (.doeIdentity w b) s = .next (ans 0xFF stBadOpcode [])) ∧
    (exec (.doeDiscovery 0) s = .next (emit s (.doe (leBytes 4 (0x0001 + 2 ^ 24)))) ∧
     exec (.doeDiscovery 1) s = .next (emit s (.doe (leBytes 4 (Config.vendorId.toNat + 2 ^ 16)))) ∧
     ∀ i, 2 ≤ i → exec (.doeDiscovery i) s = .next (emit s (.doe (leBytes 4 0xFFFF))))

/-- Table 18.8, R547, R660, R668 and R672. -/
def Obligations.ManagementBus : Prop :=
  ∀ (s : State) (x : SmbTxn), smbAnswers s = true →
    let s1 := setField s Reg.MOD_SMB 1 2 x.speed
    let pecOk := regBit s1 Reg.MOD_SMB 0 = false ∨ x.pec = some true
    (x.data = [] →
      exec (.smbIdentity x) s = .next (emit s1 (.smbus (smbIdentity s1))) ∧
      exec (.smbStatus x) s = .next (emit s1 (.smbus (smbStatus s1))) ∧
      exec (.smbSensor x) s = .next (emit s1 (.smbus (leBytes 8 (sensorWord s1 s1.pwr.smbSel)))) ∧
      exec (.smbPower x) s = .next (emit s1 (.smbus (leBytes 8 ((powerView s1 Reg.PWR_MEAS).getD 0)))) ∧
      exec (.smbCoolant x) s = .next (emit s1 (.smbus (smbCoolant s1))) ∧
      exec (.smbLastAlarm x) s = .next (emit s1 (.smbus (smbAlarm s1)))) ∧
    (x.data.length = 2 → pecOk →
      (ofLe x.data ≤ 280 → exec (.smbSensorSel x) s = .next { s1 with pwr := { s1.pwr with smbSel := ofLe x.data } }) ∧
      (280 < ofLe x.data → exec (.smbSensorSel x) s = .next s1) ∧
      (ofLe x.data = 0xA55A → s1.pwr.perst = false → exec (.smbReset x) s = .next (outerReset s1)) ∧
      ((ofLe x.data ≠ 0xA55A ∨ s1.pwr.perst = true) → exec (.smbReset x) s = .next s1)) ∧
    (x.data.length = 1 → pecOk →
      (let may := (3 ≤ powerState s1 ∧ s1.pwr.commanded = true) ∨ ∃ c ∈ s1.cmd.inProg, c.op = 0x0106 ∧ 3 ≤ nth c.args 0 0
       (ofLe x.data = 1 → may → exec (.wake x) s = .next { s1 with pwr := { s1.pwr with wakeReq := true } }) ∧
       ((ofLe x.data ≠ 1 ∨ ¬ may) → exec (.wake x) s = .next s1)) ∧
      (ofLe x.data = 1 → exec (.alertAck x) s = .next { s1 with pwr := { s1.pwr with acked := true } }) ∧
      (ofLe x.data ≠ 1 → exec (.alertAck x) s = .next s1)) ∧
    (∀ c ∈ [(Instr.smbIdentity x, 0), (.smbStatus x, 0), (.smbSensor x, 0), (.smbPower x, 0), (.smbCoolant x, 0), (.smbLastAlarm x, 0),
            (.smbSensorSel x, 2), (.smbReset x, 2), (.wake x, 1), (.alertAck x, 1)],
      (x.data.length ≠ c.2 → exec c.1 s = .next (setRegBit s1 Reg.MOD_ERR 0)) ∧
      (x.data.length = c.2 → c.2 ≠ 0 → ¬ pecOk → exec c.1 s = .next (setRegBit s1 Reg.MOD_ERR 1)))

/-- R28, R294, R295, R451 to R456, R477, R490 to R492, R507 and R516. -/
def Obligations.CommandQueues : Prop :=
  ∀ (s : State),
    (∀ fn n (v : W64), memServed s fn = true → mustWait s fn = true →
      exec (.hubSqTail fn n v) s = .next (waitHost s fn (.hubSqTail fn n v)) ∧ exec (.hubCqHead fn n v) s = .next (waitHost s fn (.hubCqHead fn n v)) ∧
      exec (.hubSqHalt fn n v) s = .next (waitHost s fn (.hubSqHalt fn n v)) ∧
      (fn = 0 → v.getLsbD 0 = true → exec (.hubCmdCtrlEnable v) s = .next (waitHost s 0 (.hubCmdCtrlEnable v)))) ∧
    (∀ fn n (v : W64), memServed s fn = true → mustWait s fn = false →
      (∀ q, sqAt s n = some q → q.fn = fn → v.toNat % 2 ^ 12 < q.size →
        exec (.hubSqTail fn n v) s = .next (setSq s n { q with tail := v.toNat % 2 ^ 12 })) ∧
      (sqAt s n = none → exec (.hubSqTail fn n v) s = .next (cmdErr s fn 2)) ∧
      (∀ q, sqAt s n = some q → (q.fn ≠ fn ∨ q.size ≤ v.toNat % 2 ^ 12) → exec (.hubSqTail fn n v) s = .next (cmdErr s fn 2))) ∧
    (∀ fn n (v : W64), memServed s fn = true → mustWait s fn = false →
      (∀ q, cqAt s n = some q → q.fn = fn → v.toNat % 2 ^ 12 < q.size →
        exec (.hubCqHead fn n v) s = .next (drainReplies (q.waiting.length + 1) (setCq s n { q with head := v.toNat % 2 ^ 12 }) n)) ∧
      (cqAt s n = none → exec (.hubCqHead fn n v) s = .next (cmdErr s fn 2)) ∧
      (∀ q, cqAt s n = some q → (q.fn ≠ fn ∨ q.size ≤ v.toNat % 2 ^ 12) → exec (.hubCqHead fn n v) s = .next (cmdErr s fn 2))) ∧
    (∀ fn k (v : W64), memServed s fn = true → mustWait s fn = false →
      let mine := (List.range 64).filter fun b => v.getLsbD b && (sqAt s (64 * k + b)).any fun q => q.halted && (fn == 0 || q.fn == fn)
      exec (.hubSqHalt fn k v) s = .next (mine.foldl (fun s b => ackHalt s (64 * k + b)) s)) ∧
    (∀ v : W64, memServed s 0 = true → mustWait s 0 = false → v.getLsbD 0 = true →
      let z := reg s Reg.HUB_AQ_SIZE
      let s1 := setRegBit { s with cmd := { s.cmd with ready := true } } Reg.HUB_CMD_CTRL 0
      let s2 := setCq s1 0 (.fresh 0 (reg s Reg.HUB_AQ_CQ_BASE) (z / 2 ^ 16 % 2 ^ 12 + 1) 0)
      ((z % 2 ^ 12 = 0 ∨ z / 2 ^ 16 % 2 ^ 12 = 0) → exec (.hubCmdCtrlEnable v) s = .next (setRegBit s Reg.HUB_CMD_ERR 3)) ∧
      (z % 2 ^ 12 ≠ 0 → z / 2 ^ 16 % 2 ^ 12 ≠ 0 → s.cmd.ready = true → exec (.hubCmdCtrlEnable v) s = .next s) ∧
      (z % 2 ^ 12 ≠ 0 → z / 2 ^ 16 % 2 ^ 12 ≠ 0 → s.cmd.ready = false →
        exec (.hubCmdCtrlEnable v) s = .next (setSq s2 0 (.fresh 0 (reg s Reg.HUB_AQ_SQ_BASE) (z % 2 ^ 12 + 1) 0)))) ∧
    (∀ hv lost, hubRuns s = true →
      let s2 := ((lost.foldl replyLost s).cmd.sqs.map (·.1)).foldl (fun s n => fetchSq hv n 8 s) (lost.foldl replyLost s)
      (badHead s2 = none → exec (.packetFetch hv lost) s = .next (noteBlocked s2)) ∧
      (∀ n f, badHead s2 = some (n, f) → exec (.packetFetch hv lost) s = .next (noteBlocked (answerBad s2 n f)))) ∧
    (let s0 := noteBlocked s
     (stalledOn s0 = none → exec .autoEvict s = .next { s0 with cmd := { s0.cmd with stalled := false } }) ∧
     (∀ c x, stalledOn s0 = some (c, x) →
       let s1 := if s0.cmd.stalled then s0 else raiseEventOwned { s0 with cmd := { s0.cmd with stalled := true } } x.fn 0x0001 c
       let out := longest (s1.cmd.ctxs.filter fun kv => kv.2.resident && s1.cmd.auto.getLsbD kv.2.group && movable s1 kv.1)
       (∀ o y, out = some (o, y) → s1.cmd.auto.getLsbD x.group = true → exec .autoEvict s = .next (noteBlocked (swapIn (swapOut s1 o) c))) ∧
       (∀ o y, out = some (o, y) → s1.cmd.auto.getLsbD x.group = false → exec .autoEvict s = .next s1) ∧
       (out = none → exec .autoEvict s = .next s1))) ∧
    (∀ c v, forming s = some c → s.itn.caravan = some v →
      exec .caravanFormTimeout s = .next (completeProg (leaveCaravan s) c (rejectAt c.pkt stBadParam (formMissing v c.args) 0xFFFFFFFF)))

/-- Table 12.4 rows 0x0101 to 0x0108 (R4, R210, R468, R480, R482, R543, R545, R625, R652). -/
def Obligations.DeviceCommands : Prop :=
  ∀ (s t : State) (p : Packet) (hv : HostView) (q : SQueue),
    let gives := fun (op : Nat) (c : Instr) (u : State) (r : Reply) => Begins s t op p c q → exec c s = .next (answer t u op p q.fn r)
    let starts := fun (op : Nat) (c : Instr) (u : State) (args : List Nat) (w : Option Nat) =>
      Begins s t op p c q → exec c s = .next (begun u { op := op, pkt := p, fn := q.fn, window := w, args := args, reply := none })
    (∀ off u, allocWindow t q.fn 256 = some (off, u) →
      gives 0x0101 (.deviceIdentify p hv) (fillWindow u off (clean (identityRecord u))) ((done p).withWindow off)) ∧
    (allocWindow t q.fn 256 = none → gives 0x0101 (.deviceIdentify p hv) t (reject p stBusy)) ∧
    (let u := wakeStacks t
     gives 0x0102 (.deviceInit p hv) (setWork u .configured)
       (doneC0 p (u.mem.stks.filter fun k => k.state = .active ∨ k.state = .writeHold).length)) ∧
    (t.cmd.inProg = [] → gives 0x0103 (.deviceQuiesce p hv) (setWork t .quiesced) (done p)) ∧
    (t.cmd.inProg ≠ [] → starts 0x0103 (.deviceQuiesce p hv) t [] none) ∧
    gives 0x0104 (.deviceResume p hv) (setWork t (homeState t)) (done p) ∧
    gives 0x0107 (.maintEnter p hv) (setWork (dropModel (unloadAll t)) .maintenance) (done p) ∧
    gives 0x0108 (.maintExit p hv) (setWork { t with sec := { t.sec with staged := [] } } .configured) (done p) ∧
    (let level := prm p 0 0 4
     let need := match t.flt.fault with | some f => f.need | none => 0
     ((level < 2 ∨ 6 < level) → gives 0x0105 (.deviceReset p hv) t (reject p stBadParam)) ∧
     (2 ≤ level → level ≤ 6 → level < need → gives 0x0105 (.deviceReset p hv) t (rejectAt p stBadParam need 0xFFFFFFFF)) ∧
     (2 ≤ level → level ≤ 4 → need ≤ level → anyRun t = true → gives 0x0105 (.deviceReset p hv) t (reject p stBusy)) ∧
     (∀ i, 2 ≤ level → level ≤ 6 → need ≤ level → (anyRun t = false ∨ 4 < level) → 4 ≤ level → uncooled t = some i →
       gives 0x0105 (.deviceReset p hv) t (rejectAt p stBusy i 0xFFFFFFFF)) ∧
     (2 ≤ level → level ≤ 6 → need ≤ level → (anyRun t = false ∨ 4 < level) → (uncooled t = none ∨ level < 4) →
       gives 0x0105 (.deviceReset p hv) (resetTo (complete t p (done p)) level) (done p))) ∧
    (let st := prm p 0 0 4
     let w := prm p 4 0 32
     (st ≠ 0 → st ≤ 4 → t.cmd.role ≠ .none → gives 0x0106 (.powerSet p hv) t (reject p stWrongState)) ∧
     ((st = 0 ∨ 4 < st ∨ t.cmd.role = .none) → depthOf st w = none → gives 0x0106 (.powerSet p hv) t (reject p stBadParam)) ∧
     (∀ d, depthOf st w = some d →
       ((st = 0 ∨ t.cmd.role = .none) → (t.cmd.inProg ≠ [] ∨ powerReady t st d = false) →
         starts 0x0106 (.powerSet p hv) (setField t Reg.PWR_STATE 0 1 1) [st, d] none) ∧
       ((st = 0 ∨ t.cmd.role = .none) → t.cmd.inProg = [] → powerReady t st d = true →
         (st < 3 → gives 0x0106 (.powerSet p hv) (setPower (setField (powerDown t st d) Reg.PWR_STATE 8 32 w) st d) (done p)) ∧
         (3 ≤ st → gives 0x0106 (.powerSet p hv) (finishPower t p (done p) st d none) (done p)))))

/-- Table 12.4 rows 0x0109, 0x010A and 0x0208 (R450, R483, R497, R500 to R503). -/
def Obligations.QueueCommands : Prop :=
  ∀ (s t : State) (p : Packet) (hv : HostView) (q : SQueue),
    let gives := fun (op : Nat) (c : Instr) (u : State) (r : Reply) => Begins s t op p c q → exec c s = .next (answer t u op p q.fn r)
    let target := if q.fn = 0 then prm p 16 0 7 else q.fn
    let i := prm p 0 8 8
    (queueCreateOk t p q.fn = false → gives 0x0109 (.queueCreate p hv) t (reject p stBadParam)) ∧
    (queueCreateOk t p q.fn = true → prm p 0 0 1 = 0 →
      gives 0x0109 (.queueCreate p hv) (setSq t i (.fresh target (prm p 8 0 64) (prm p 0 16 12 + 1) (prm p 4 0 8))) (done p)) ∧
    (queueCreateOk t p q.fn = true → prm p 0 0 1 ≠ 0 →
      gives 0x0109 (.queueCreate p hv) (setCq t i (.fresh target (prm p 8 0 64) (prm p 0 16 12 + 1) (prm p 4 0 11))) (done p)) ∧
    (let kind := prm p 0 0 1
     let owner := if kind = 0 then (sqAt t i).map (·.fn) else (cqAt t i).map (·.fn)
     let ends := fun (u : State) (r : Reply) => Begins s t 0x010A p (.queueDelete p hv) q →
       exec (.queueDelete p hv) s = .next (finishDelete p (answer t u 0x010A p q.fn r))
     (owner = none → ends t (reject p stBadParam)) ∧
     (∀ f, owner = some f → i = 0 → ends t (reject p stBadParam)) ∧
     (∀ f, owner = some f → i ≠ 0 → q.fn ≠ 0 → f ≠ q.fn → ends t (reject p stNotPermitted)) ∧
     (∀ f, owner = some f → i ≠ 0 → (q.fn = 0 ∨ f = q.fn) →
       (kind = 1 → (∃ x ∈ t.cmd.sqs, x.2.cq = i) → ends t (reject p stBusy)) ∧
       (kind = 1 → (∀ x ∈ t.cmd.sqs, x.2.cq ≠ i) → ends (removeQueue t 1 i) (done p)) ∧
       (∀ x, kind ≠ 1 → sqAt t i = some x →
         let u := setSq (abortFetched t i fun _ => true) i { x with head := x.tail, fetched := [] }
         Begins s t 0x010A p (.queueDelete p hv) q →
           exec (.queueDelete p hv) s = .next (finishDelete p (begun { u with cmd := { u.cmd with deferred := u.cmd.deferred.filter fun d => d.pkt.sq ≠ i } }
             { op := 0x010A, pkt := p, fn := q.fn, window := none, args := [0, i, unfetched t i x], reply := none }))))) ∧
    (let found := t.cmd.windows.find? fun w => w.start * 8192 = prm p 0 0 64
     (found = none → gives 0x0208 (.release p hv) t (reject p stBadParam)) ∧
     (∀ w, found = some w →
       (w.fn ≠ q.fn → gives 0x0208 (.release p hv) t (reject p stNotPermitted)) ∧
       (w.fn = q.fn → w.done = false → gives 0x0208 (.release p hv) t (reject p stBusy)) ∧
       (w.fn = q.fn → w.done = true →
         gives 0x0208 (.release p hv) { t with cmd := { t.cmd with windows := t.cmd.windows.erase w } } (done p)))) ∧
    (∀ fn off, (∀ w ∈ t.cmd.windows, w.fn = fn → w.start ≤ off / 8192 → w.start + w.count ≤ off / 8192) → bar4Word t fn off = 0) ∧
    (∀ w fn off, t.cmd.windows.find? (·.shows fn off) = some w →
      let i := (off - w.start * 8192) / 8
      w.fn = fn ∧ (w.done = false → bar4Word t fn off = 0) ∧ (w.words.length ≤ i → bar4Word t fn off = 0) ∧
      (∀ x, w.done = true → w.words[i]? = some x → bar4Word t fn off = x.1.toNat + 2 ^ 32 + if x.2 then 2 ^ 33 else 0))

/-- Table 12.4 rows 0x010B to 0x0110 (R486, R489, R493 to R496, R519). -/
def Obligations.ContextCommands : Prop :=
  ∀ (s t : State) (p : Packet) (hv : HostView) (q : SQueue),
    let gives := fun (op : Nat) (c : Instr) (u : State) (r : Reply) => Begins s t op p c q → exec c s = .next (answer t u op p q.fn r)
    let starts := fun (op : Nat) (c : Instr) (u : State) (args : List Nat) =>
      Begins s t op p c q → exec c s = .next (begun u { op := op, pkt := p, fn := q.fn, window := none, args := args, reply := none })
    let c := prm p 0 0 8
    let names := fun (zero : Bool) (k : Nat) =>
      (c = 0 ∧ zero = true ∧ k = 256 + q.fn) ∨ (c ≠ 0 ∧ k = c ∧ ∃ x, mget t.cmd.ctxs c = some x ∧ (q.fn = 0 ∨ x.fn = q.fn))
    let stop := fun (v : Bool) (u : State) (k : Nat) => { u with cmd := { u.cmd with ctxs := mmod u.cmd.ctxs k fun x => { x with stopped := v } } }
    (let free := ((List.range 256).drop 1).find? fun c => (mget t.cmd.ctxs c).isNone
     let past := q.fn ≠ 0 ∧ reg t Reg.PCI_VF_CFG / 2 ^ 8 % 16 ≤ (t.cmd.ctxs.filter fun kv => kv.2.fn = q.fn).length
     (free = none → gives 0x010B (.contextCreate p hv) t (reject p stBusy)) ∧
     (∀ n, free = some n →
       (past → gives 0x010B (.contextCreate p hv) t (reject p stBusy)) ∧
       (¬past → reserve t (1024 + n) 4672 = none → gives 0x010B (.contextCreate p hv) t (reject p stBusy)) ∧
       (∀ u, ¬past → reserve t (1024 + n) 4672 = some u →
         gives 0x010B (.contextCreate p hv)
           (noteBlocked { u with cmd := { u.cmd with ctxs := mset u.cmd.ctxs n ⟨q.fn, prm p 0 0 4, decide (residents t < 16), false, t.cmd.clock, false⟩ } }) (doneC0 p n)))) ∧
    (∀ op i, (op, i) ∈ [(0x010C, Instr.contextDestroy p hv), (0x010E, .contextPreempt p hv), (0x010F, .contextResume p hv)] → c ≠ 0 →
      (mget t.cmd.ctxs c = none → gives op i t (reject p stBadParam)) ∧
      (∀ x, mget t.cmd.ctxs c = some x → q.fn ≠ 0 → x.fn ≠ q.fn → gives op i t (reject p stNotPermitted))) ∧
    (c = 0 → gives 0x010C (.contextDestroy p hv) t (reject p stBadParam)) ∧
    (∀ x, c ≠ 0 → mget t.cmd.ctxs c = some x → (q.fn = 0 ∨ x.fn = q.fn) →
      let busy := (imageOf t c).isSome || t.cmd.inProg.any fun i => i.fn == x.fn && pktCtx i.pkt == c
      (busy = true → gives 0x010C (.contextDestroy p hv) t (reject p stBusy)) ∧
      (busy = false → gives 0x010C (.contextDestroy p hv) (destroyCtx t c) (done p))) ∧
    gives 0x010D (.contextPolicy p hv)
      { t with cmd := { t.cmd with auto := BitVec.ofNat 16 (setBits t.cmd.auto.toNat (prm p 0 0 4) 1 (prm p 0 8 1)) } } (done p) ∧
    (∀ k, names true k → prm p 4 0 1 = 1 →
      let old := t.cmd.inProg.filter fun i => i.op = 0x010E ∧ i.args = [k]
      (decidedOf t k = 1 → gives 0x010E (.contextPreempt p hv) t (reject p stBusy)) ∧
      (decidedOf t k ≠ 1 → old = [] → gives 0x010E (.contextPreempt p hv) t (done p)) ∧
      (decidedOf t k ≠ 1 → old ≠ [] → gives 0x010E (.contextPreempt p hv)
        (old.foldl (fun s i => completeProg s i (plainReply i.pkt stHost 0 0 0 0)) { t with itn := { t.itn with preemptReq := false } }) (done p))) ∧
    (∀ k, names true k → prm p 4 0 1 = 0 →
      let owner := if k < 256 then ((mget t.cmd.ctxs k).map (·.fn)).getD q.fn else q.fn
      let others := t.cmd.inProg.filter fun i => i.fn = owner ∧ ctxKey owner (pktCtx i.pkt) = k ∧ !(i.op == 0x0303 || i.op == 0x0401)
      let u : State := others.foldl (fun s i => abortProg s i stPreempt) t
      ((runOf u k).active = true → runOf u k ≠ .stoppedPreempt →
        starts 0x010E (.contextPreempt p hv) { u with itn := { u.itn with preemptReq := true } } [k]) ∧
      (((runOf u k).active = false ∨ runOf u k = .stoppedPreempt) → gives 0x010E (.contextPreempt p hv) (stop true u k) (done p))) ∧
    (∀ k, names true k →
      let out := match mget t.cmd.ctxs k with | some x => !x.resident | none => false
      let u := stop false (if out = true then swapIn t k else t) k
      (out = true → 16 ≤ residents t → gives 0x010F (.contextResume p hv) t (reject p stBusy)) ∧
      ((out = false ∨ residents t < 16) →
        (runOf u k = .stoppedPreempt → gives 0x010F (.contextResume p hv) (noteBlocked (releaseStop (takeEngine u k))) (done p)) ∧
        (runOf u k ≠ .stoppedPreempt → gives 0x010F (.contextResume p hv) (noteBlocked u) (done p)))) ∧
    (let b := prm p 4 0 8
     ((mget t.cmd.ctxs c = none ∨ mget t.cmd.ctxs b = none) → gives 0x0110 (.contextSwap p hv) t (reject p stBadParam)) ∧
     (∀ x y, mget t.cmd.ctxs c = some x → mget t.cmd.ctxs b = some y →
       ((x.resident = false ∨ y.resident = true ∨ movable t c = false) → gives 0x0110 (.contextSwap p hv) t (reject p stWrongState)) ∧
       (x.resident = true → y.resident = false → movable t c = true →
         gives 0x0110 (.contextSwap p hv) (noteBlocked (swapIn (swapOut t c) b)) (done p))))

/-- Table 12.4 rows 0x0201, 0x0202, 0x0203 and 0x0207 (R166, R456, R465, R524, R621). -/
def Obligations.MoveCommands : Prop :=
  ∀ (s t : State) (p : Packet) (hv : HostView) (q : SQueue),
    let gives := fun (op : Nat) (c : Instr) (u : State) (r : Reply) => Begins s t op p c q → exec c s = .next (answer t u op p q.fn r)
    let starts := fun (op : Nat) (c : Instr) (u : State) (args : List Nat) =>
      Begins s t op p c q → exec c s = .next (begun u { op := op, pkt := p, fn := q.fn, window := none, args := args, reply := none })
    (let a := prm p 0 0 64
     let n := prm p 8 0 16
     let ds := fun (bs : List Byte) => (List.range n).map fun i => BitVec.ofNat 512 (fieldAt bs (64 * i) 64)
     (hostImage hv a (64 * n) 64 = none → gives 0x0201 (.dmaSubmit p hv) t (reject p (hostError hv [(a, 64 * n, 64)]))) ∧
     (∀ bs, hostImage hv a (64 * n) 64 = some bs →
       (idleQueue t = none → gives 0x0201 (.dmaSubmit p hv) t (reject p stBusy)) ∧
       (∀ k, idleQueue t = some k →
         ((listOk t q.fn false (ds bs)).1 = false → gives 0x0201 (.dmaSubmit p hv) (listOk t q.fn false (ds bs)).2 (reject p stBadParam)) ∧
         ((listOk t q.fn false (ds bs)).1 = true → n = 0 →
           gives 0x0201 (.dmaSubmit p hv) (listOk t q.fn false (ds bs)).2 (plainReply p stDone 0 0 0xFFFFFFFF 0)) ∧
         ((listOk t q.fn false (ds bs)).1 = true → n ≠ 0 →
           starts 0x0201 (.dmaSubmit p hv) (setRun (listOk t q.fn false (ds bs)).2 k
             { fn := q.fn, descs := ds bs, done := [], waiting := [], retired := false, poison := false, flags := .none, failed := none }) [k])))) ∧
    (let a := prm p 0 0 64
     let n := prm p 8 0 64
     let r := fnRange t q.fn a n true
     (r.1 = none → gives 0x0202 (.memFill p hv) r.2 (reject p stBadParam)) ∧
     (∀ ps, r.1 = some ps →
       (n % 64 ≠ 0 → gives 0x0202 (.memFill p hv) r.2 (reject p stBadParam)) ∧
       ((∃ x ∈ ps, memRange t x.1 x.2 = false) → gives 0x0202 (.memFill p hv) r.2 (reject p stBadParam)) ∧
       (n % 64 = 0 → (∀ x ∈ ps, memRange t x.1 x.2 = true) →
         gives 0x0202 (.memFill p hv) (writePieces r.2 4 225 .stream ps (patternBytes (prm p 16 0 64) n))
           (plainReply p (if ps.any (fun x => rangeRetired t x.1 x.2) then stRetired else stDone) n 0 0 0)))) ∧
    (let op := prm p 0 0 4
     let r := maintRanges t q.fn (prm p 8 0 64)
     (r.1 = none → gives 0x0203 (.screedMaint p hv) r.2 (reject p stBadParam)) ∧
     (∀ rs, r.1 = some rs →
       ((op < 1 ∨ 3 < op ∨ prm p 8 0 16 ≠ 0 ∨ ∃ x ∈ rs, maintMapped t x = false) → gives 0x0203 (.screedMaint p hv) t (reject p stBadParam)) ∧
       (1 ≤ op → op ≤ 3 → prm p 8 0 16 = 0 → (∀ x ∈ rs, maintMapped t x = true) →
         ((∀ x ∈ rs, maintFree r.2 op x = true) → gives 0x0203 (.screedMaint p hv) (maintAll r.2 op rs).2 (doneC0 p (maintAll r.2 op rs).1)) ∧
         ((∃ x ∈ rs, maintFree r.2 op x = false) → starts 0x0203 (.screedMaint p hv) r.2 (op :: rs))))) ∧
    (let dpa := prm p 0 0 64
     let n := prm p 8 0 64
     let g := n / 65536
     let bad := dpa % 65536 ≠ 0 ∨ n % 65536 ≠ 0 ∨ g < 1 ∨ 16384 < g ∨ interTop (stackCount t) t.mem.p < dpa + n
     (bad → gives 0x0207 (.reloadRange p hv) t (reject p stBadParam)) ∧
     (¬bad →
       let gs := (List.range g).map (dpa / 65536 + ·)
       let h := hostData t hv (prm p 16 0 64) n
       let r := reloadAll h.2 ((idleQueue t).getD 16) gs h.1
       let s1 := (maintPass (maintPass r.2 0 2 (g * 2 ^ 40 + dpa)).2 1 2 (g * 2 ^ 40 + dpa)).2
       let good := gs.filter fun x => !r.1.retired.contains x && !r.1.bad.contains x && !(r.2.flt.quarantine.contains x && !t.flt.quarantine.contains x)
       let status := if !r.1.retired.isEmpty then stRetired else if !r.1.bad.isEmpty then stPoisoned else stDone
       let poison := h.1.any (·.poison)
       Begins s t 0x0207 p (.reloadRange p hv) q → exec (.reloadRange p hv) s = .next (if heldWrites t < heldWrites s1 then
         begun s1 { op := 0x0207, pkt := p, fn := q.fn, window := none, args := [n, status, b2n poison] ++ good, reply := none }
         else answer t (good.foldl unquarantine s1) 0x0207 p q.fn { doneC0 p n with status := status, poison := poison })))

/-- Table 12.4 rows 0x0204 to 0x0206 and 0x0701 to 0x0703 (R207 to R209, R504, R588, R602). -/
def Obligations.RecordCommands : Prop :=
  ∀ (s t : State) (p : Packet) (hv : HostView) (q : SQueue),
    let gives := fun (op : Nat) (c : Instr) (u : State) (r : Reply) => Begins s t op p c q → exec c s = .next (answer t u op p q.fn r)
    let starts := fun (op : Nat) (c : Instr) (u : State) (args : List Nat) (w : Option Nat) =>
      Begins s t op p c q → exec c s = .next (begun u { op := op, pkt := p, fn := q.fn, window := w, args := args, reply := none })
    (retireTarget t p = none → gives 0x0204 (.retire p hv) t (reject p stBadParam)) ∧
    (∀ r, retireTarget t p = some r →
      let full := coveredBy t r = false ∧ 8192 ≤ t.mem.retired.length
      (full → gives 0x0204 (.retire p hv) t (reject p stBusy)) ∧
      (¬full → allocWindow t q.fn 256 = none → gives 0x0204 (.retire p hv) t (reject p stBusy)) ∧
      (∀ off u, ¬full → allocWindow t q.fn 256 = some (off, u) →
        (retireReady u r = true →
          let v := applyRetire u r
          let vs := retireValues v r
          gives 0x0204 (.retire p hv) (fillWindow v off (valueBytes vs))
            ((plainReply p (if coveredBy u r = false ∧ flashOpen u = false then stInhibit else stDone) vs.length 0 0 0).withWindow off)) ∧
        (retireReady u r = false → starts 0x0204 (.retire p hv) u [r.stack, (retireTrowel r).trowel, r.word] (some off)))) ∧
    (let n := t.mem.retired.length
     (allocWindow t q.fn (8 * n) = none → gives 0x0205 (.retireList p hv) t (reject p stBusy)) ∧
     (∀ off u, allocWindow t q.fn (8 * n) = some (off, u) →
       gives 0x0205 (.retireList p hv) (fillWindow u off (valueBytes (u.mem.retired.map Retire.word))) ((doneC0 p n).withWindow off))) ∧
    (flashOpen t = false → gives 0x0206 (.retireClear p hv) t (reject p stInhibit)) ∧
    (let u := flashFirst t
     flashOpen t = true → gives 0x0206 (.retireClear p hv) { u with mem := { u.mem with retired := [], flashRet := [], retPending := [] } } (done p)) ∧
    (let waiting := (t.cmd.inProg.filter fun c => c.op = 0x0701 ∧ c.fn = q.fn).length
     Begins s t 0x0701 p (.eventWait p hv) q →
       (16 ≤ waiting → exec (.eventWait p hv) s = .next (deliverOwn p (answer t t 0x0701 p q.fn (reject p stBusy)))) ∧
       (waiting < 16 → exec (.eventWait p hv) s =
         .next (deliverOwn p (begun t { op := 0x0701, pkt := p, fn := q.fn, window := none, args := [], reply := none })))) ∧
    (let k := prm p 0 0 8
     let most := prm p 4 0 32
     let bad := 0x31 < k ∨ (8 ≤ k ∧ k ≤ 0x0F) ∨ most < 1 ∨ 65536 < most
     let cs := (queueAt t k).cells
     let n := if t.dep.fault = true then 0 else wholeWords cs.length most cs
     (bad → gives 0x0702 (.logDrain p hv) t (reject p stBadParam)) ∧
     (¬bad → allocWindow t q.fn (4 * n) = none → gives 0x0702 (.logDrain p hv) t (reject p stBusy)) ∧
     (∀ off u, ¬bad → allocWindow t q.fn (4 * n) = some (off, u) →
       let r := popWords k n u
       gives 0x0702 (.logDrain p hv) (fillWindow (if queuePolicy k = 3 then decimate r.2 k cs.length else r.2) off r.1) ((doneC0 p n).withWindow off))) ∧
    (let sel := prm p 0 0 16
     (telemetry t sel = none → gives 0x0703 (.telemetryRead p hv) t (reject p stBadParam)) ∧
     (∀ bs bad u, telemetry t sel = some (bs, bad, u) →
       (bad = true → gives 0x0703 (.telemetryRead p hv) t (reject p stMemUe)) ∧
       (bad = false → allocWindow t q.fn bs.length = none → gives 0x0703 (.telemetryRead p hv) t (reject p stBusy)) ∧
       (bad = false → (allocWindow t q.fn bs.length).isSome = true →
         let v := if sel = 3 ∧ prm p 0 16 1 = 1 then releaseRing u else u
         ∀ off w, allocWindow v q.fn bs.length = some (off, w) →
           gives 0x0703 (.telemetryRead p hv) (fillWindow w off (clean bs)) ((doneC0 p bs.length).withWindow off))))

/-- Table 12.4 rows 0x0301 to 0x0303 (R302, R303, R310, R472, R619). Table 12.4 rows 0x0304 and 0x0305 (R7, R305, R468, R477). -/
def Obligations.ItineraryCommands : Prop :=
  (∀ (s t : State) (p : Packet) (hv : HostView) (img : ItinImage) (q : SQueue),
    let gives := fun (op : Nat) (c : Instr) (u : State) (r : Reply) => Begins s t op p c q → exec c s = .next (answer t u op p q.fn r)
    let key := ctxKey q.fn (pktCtx p)
    let load := Instr.itinLoad p hv img
    (∀ e, prm p 8 0 1 = 0 → hostItin hv (prm p 0 0 64) = .inr e → gives 0x0301 load t (reject p e)) ∧
    (∀ e, prm p 8 0 1 = 1 → (dpaItin t q.fn (prm p 0 0 64)).1 = .inr e → gives 0x0301 load (dpaItin t q.fn (prm p 0 0 64)).2 (reject p e)) ∧
    (∀ b u, ((prm p 8 0 1 = 0 ∧ hostItin hv (prm p 0 0 64) = .inl b ∧ u = t) ∨
             (prm p 8 0 1 = 1 ∧ (dpaItin t q.fn (prm p 0 0 64)).1 = .inl b ∧ u = (dpaItin t q.fn (prm p 0 0 64)).2)) →
      let g := withBytes img b
      (bitAt g.flags 1 = true → servingRefused u = true → gives 0x0301 load u (reject p stWrongState)) ∧
      ((bitAt g.flags 1 = false ∨ servingRefused u = false) →
        ((imageOf u key).isSome = true → gives 0x0301 load u (reject p stBusy)) ∧
        (imageOf u key = none → imageOk u g = false → gives 0x0301 load u (reject p stBadParam)) ∧
        (imageOf u key = none → imageOk u g = true → (listOk u q.fn true (imageDescs g)).1 = false →
          gives 0x0301 load (listOk u q.fn true (imageDescs g)).2 (reject p stBadParam)) ∧
        (imageOf u key = none → imageOk u g = true → (listOk u q.fn true (imageDescs g)).1 = true →
          reserve (listOk u q.fn true (imageDescs g)).2 (256 + key) (ceilDiv g.length 65536) = none →
          gives 0x0301 load (listOk u q.fn true (imageDescs g)).2 (reject p stBusy)) ∧
        (∀ v r, imageOf u key = none → imageOk u g = true → (listOk u q.fn true (imageDescs g)).1 = true →
          reserve (listOk u q.fn true (imageDescs g)).2 (256 + key) (ceilDiv g.length 65536) = some v →
          areaOf v (256 + key) = some r →
          let w := placeItin v key g b r
          gives 0x0301 load (if bitAt g.flags 1 = true ∧ w.cmd.work = .loaded then setWork w .serving else w) (doneC0 p g.variants)))) ∧
    (imageOf t key = none → gives 0x0302 (.itinUnload p hv) t (reject p stWrongState)) ∧
    ((imageOf t key).isSome = true → (runOf t key).active = true → gives 0x0302 (.itinUnload p hv) t (reject p stBusy)) ∧
    ((imageOf t key).isSome = true → (runOf t key).active = false → gives 0x0302 (.itinUnload p hv) (unloadHome t key) (done p)) ∧
    (imageOf t key = none → gives 0x0303 (.itinRun p hv) t (reject p stWrongState)) ∧
    (∀ g, imageOf t key = some g →
      let starts := fun (u : State) => Begins s t 0x0303 p (.itinRun p hv) q →
        exec (.itinRun p hv) s = .next (begun u { op := 0x0303, pkt := p, fn := q.fn, window := none, args := [], reply := none })
      (bitAt g.flags 1 = true → gives 0x0303 (.itinRun p hv) t (reject p stBadParam)) ∧
      (bitAt g.flags 1 = false → (runOf t key).active = true → gives 0x0303 (.itinRun p hv) t (reject p stBusy)) ∧
      (∀ x, bitAt g.flags 1 = false → (runOf t key).active = false → quarantined t = some x →
        gives 0x0303 (.itinRun p hv) t (rejectAt p stBusy x 0xFFFFFFFF)) ∧
      (bitAt g.flags 1 = false → (runOf t key).active = false → quarantined t = none →
        (g.members ≤ 1 → starts (beginRun (takeEngine t key) (prm p 0 0 32) 0 (t.bell + 1))) ∧
        (1 < g.members → let u := beginRun (takeEngine t key) (prm p 0 0 32) 0 (t.bell + g.mbells)
          starts (broadcast u (startRecord (prm p 0 0 32) u.itn.runs)))))) ∧
  (∀ (s t : State) (p : Packet) (hv : HostView) (ans : List (Nat × List Byte)) (q : SQueue),
    let gives := fun (op : Nat) (c : Instr) (u : State) (r : Reply) => Begins s t op p c q → exec c s = .next (answer t u op p q.fn r)
    let i := prm p 0 0 10
    let n := prm p 4 0 32
    let image := hostImage hv (prm p 8 0 64) n 4
    let form := Instr.caravanForm p hv ans
    let names := fun (j : Nat) => gives 0x0304 form t (rejectAt p stBadParam j 0xFFFFFFFF)
    (t.cmd.role ≠ .none → gives 0x0304 form t (reject p stWrongState)) ∧
    (t.cmd.role = .none → image = none → gives 0x0304 form t (reject p (hostError hv [(prm p 8 0 64, n, 4)]))) ∧
    (∀ b, t.cmd.role = .none → image = some b → readMap b = none → names i) ∧
    (∀ b m, t.cmd.role = .none → image = some b → readMap b = some m →
      (m.members.length ≤ i → names i) ∧
      (∀ j, i < m.members.length → formFails t m i = some j → names j) ∧
      (∀ j, i < m.members.length → formFails t m i = none → i = 0 → differs t m ans = some j → names j) ∧
      (i < m.members.length → formFails t m i = none → (i ≠ 0 ∨ differs t m ans = none) →
        let c := m.caravan i (sha256 b)
        (m.members.length = 1 → gives 0x0304 form (joinCaravan (enterCaravan t c) c) (done p)) ∧
        (m.members.length ≠ 1 → Begins s t 0x0304 p form q →
          exec form s = .next (begun (enterCaravan t c) { op := 0x0304, pkt := p, fn := q.fn, window := none, args := [], reply := none })))) ∧
    (t.cmd.role = .none → gives 0x0305 (.caravanDisband p hv) t (reject p stWrongState)) ∧
    (t.cmd.role ≠ .none → anyRun t = true → gives 0x0305 (.caravanDisband p hv) t (reject p stBusy)) ∧
    (t.cmd.role ≠ .none → anyRun t = false →
      gives 0x0305 (.caravanDisband p hv)
        (if t.cmd.work = .caravanLocked then setWork (leaveCaravan t) (homeState (leaveCaravan t)) else leaveCaravan t) (done p)))

/-- Table 12.4 rows 0x0601 to 0x0604 (R342 to R345). -/
def Obligations.FabricCommands : Prop :=
  ∀ (s t : State) (p : Packet) (hv : HostView) (own : List (Nat × Nat)) (sent : List (Nat × Nat × List Byte × Nat)) (q : SQueue),
    let gives := fun (op : Nat) (c : Instr) (u : State) (r : Reply) => Begins s t op p c q → exec c s = .next (answer t u op p q.fn r)
    (let epoch := prm p 0 0 32
     let man := reg t Reg.FAB_MANAGER
     let wins := man / 2 ^ 11 % 2 = 0 ∨ man / 2 ^ 32 % 2 ^ 32 < epoch ∨ (epoch = man / 2 ^ 32 % 2 ^ 32 ∧ serialNumber t < t.fab.claimSerial)
     (¬wins → gives 0x0601 (.fabricManage p hv own sent) t (reject p stWrongState)) ∧
     (wins →
       let s1 := setReg t Reg.FAB_MANAGER (epoch * 2 ^ 32 + 2 ^ 11 + selfId t)
       let s2 := { s1 with fab := { s1.fab with claimSerial := serialNumber t } }
       let s4 := own.foldl (fun s x => if mgmtWritable x.1 = true then mgmtPut s x.1 x.2 else s) (sent.foldl sendCensus s2)
       gives 0x0601 (.fabricManage p hv own sent) (setField s4 Reg.FAB_MANAGER 0 10 (selfId s4))
         (doneC0 p (1 + (sent.filter fun x => x.2.1 = 0x15 ∧ x.2.2.2 = 0).length)))) ∧
    (ownsClaim t = false → gives 0x0602 (.fabricRelease p hv) t (reject p stWrongState)) ∧
    (ownsClaim t = true → gives 0x0602 (.fabricRelease p hv) (setField t Reg.FAB_MANAGER 11 1 0) (done p)) ∧
    (mgmtWritable (prm p 0 0 32) = true → gives 0x0603 (.fabricWrite p hv) (mgmtPut t (prm p 0 0 32) (prm p 8 0 64)) (done p)) ∧
    (mgmtWritable (prm p 0 0 32) = false → gives 0x0603 (.fabricWrite p hv) t (reject p stBadParam)) ∧
    (let kind := prm p 0 0 6
     let a := prm p 16 0 64
     let n := prm p 24 0 13
     let bad := kind < 0x10 ∨ 0x16 < kind ∨ 4096 < n ∨ (kind = 0x11 ∧ n = 0)
     let answered := kind = 0x11 ∨ kind = 0x12 ∨ kind = 0x15
     let pay := if kind = 0x11 then some [] else hostImage hv a n 1
     (bad → gives 0x0604 (.fabricMgmt p hv) t (reject p stBadParam)) ∧
     (¬bad → pay = none → gives 0x0604 (.fabricMgmt p hv) t (reject p (hostError hv [(a, n, 1)]))) ∧
     (∀ b, ¬bad → pay = some b →
       (answered → allocWindow t q.fn 4096 = none → gives 0x0604 (.fabricMgmt p hv) t (reject p stBusy)) ∧
       (∀ off u, answered → allocWindow t q.fn 4096 = some (off, u) →
         let r := sendReq u (prm p 2 0 10) kind 2 (prm p 8 0 64) (if kind = 0x11 then a else 0) 0 n b 0
         Begins s t 0x0604 p (.fabricMgmt p hv) q →
           exec (.fabricMgmt p hv) s = .next (begun r.2 { op := 0x0604, pkt := p, fn := q.fn, window := some off, args := [r.1], reply := none })) ∧
       (¬answered →
         let o := originate t (mkHeader (prm p 2 0 10) kind (selfId t) 2 0xFFFF 0 (prm p 8 0 64) 0 0 n ++ b)
         gives 0x0604 (.fabricMgmt p hv) o.2 (doneC0 p (if o.1 = true then 0 else 4)))))

/-- Table 12.4 rows 0x0402 to 0x0406 (R394, R397, R466, R484). Table 12.4 rows 0x0407 to 0x0409 (R377, R381, R467). -/
def Obligations.PrefixCommands : Prop :=
  (∀ (s t : State) (p : Packet) (hv : HostView) (q : SQueue),
    let gives := fun (op : Nat) (c : Instr) (u : State) (r : Reply) => Begins s t op p c q → exec c s = .next (answer t u op p q.fn r)
    let starts := fun (op : Nat) (c : Instr) (u : State) (args : List Nat) (w : Option Nat) =>
      Begins s t op p c q → exec c s = .next (begun u { op := op, pkt := p, fn := q.fn, window := w, args := args, reply := none })
    (t.srv.model = none →
      gives 0x0402 (.prefixHash p hv) t (reject p stWrongState) ∧ gives 0x0403 (.prefixLookup p hv) t (reject p stWrongState) ∧
      gives 0x0404 (.pageAlloc p hv) t (reject p stWrongState)) ∧
    (∀ m, t.srv.model = some m →
      let n := prm p 0 0 17
      let a := prm p 8 0 64
      (let j := prm p 4 0 32
       let par := prm p 16 0 64
       let parent := if j = 0 then some (List.replicate 32 0) else hostImage hv par 32 4
       ((j = 0 ∧ par ≠ 0 ∨ 65536 < n) → gives 0x0402 (.prefixHash p hv) t (reject p stBadParam)) ∧
       (¬(j = 0 ∧ par ≠ 0 ∨ 65536 < n) → (hostTokens hv a n = none ∨ parent = none) →
         gives 0x0402 (.prefixHash p hv) t (reject p (hostError hv ((a, 64 * n, 4) :: if j = 0 then [] else [(par, 32, 4)])))) ∧
       (∀ ts d, hostTokens hv a n = some ts → parent = some d →
         (¬(j = 0 ∧ par ≠ 0 ∨ 65536 < n) → tokensOk m ts = false →
           gives 0x0402 (.prefixHash p hv) (setRegBit t Reg.PFX_ERR 0) (reject p stBadParam)) ∧
         (¬(j = 0 ∧ par ≠ 0 ∨ 65536 < n) → tokensOk m ts = true →
           (allocWindow t q.fn (32 * n) = none → gives 0x0402 (.prefixHash p hv) t (reject p stBusy)) ∧
           (∀ off u, allocWindow t q.fn (32 * n) = some (off, u) →
             gives 0x0402 (.prefixHash p hv) (fillWindow u off (clean (digests m d ts).flatten)) ((doneC0 p n).withWindow off))))) ∧
      (let take := prm p 4 0 1 = 1
       (take → t.cmd.work = .caravanLocked → gives 0x0403 (.prefixLookup p hv) t (reject p stWrongState)) ∧
       (¬(take ∧ t.cmd.work = .caravanLocked) → 65536 < n → gives 0x0403 (.prefixLookup p hv) t (reject p stBadParam)) ∧
       (¬(take ∧ t.cmd.work = .caravanLocked) → n ≤ 65536 → hostTokens hv a n = none → gives 0x0403 (.prefixLookup p hv) t (reject p (hostError hv [(a, 64 * n, 4)]))) ∧
       (∀ ts, hostTokens hv a n = some ts →
         (¬(take ∧ t.cmd.work = .caravanLocked) → n ≤ 65536 → tokensOk m ts = false →
           gives 0x0403 (.prefixLookup p hv) (setRegBit t Reg.PFX_ERR 0) (reject p stBadParam)) ∧
         (¬(take ∧ t.cmd.work = .caravanLocked) → n ≤ 65536 → tokensOk m ts = true →
           (allocWindow t q.fn (4 * n) = none → gives 0x0403 (.prefixLookup p hv) t (reject p stBusy)) ∧
           (∀ off u, allocWindow t q.fn (4 * n) = some (off, u) →
             let r := applyLookup u p m (decide take) ts
             (take → u.cmd.role = .lead → starts 0x0403 (.prefixLookup p hv) u ts.flatten (some off)) ∧
             ((¬take ∨ u.cmd.role ≠ .lead) → r.2.1.status < 0x0100 →
               gives 0x0403 (.prefixLookup p hv) (fillWindow r.1 off (idxBytes r.2.2)) (r.2.1.withWindow off)) ∧
             ((¬take ∨ u.cmd.role ≠ .lead) → 0x0100 ≤ r.2.1.status → gives 0x0403 (.prefixLookup p hv) (closeWindow r.1 off) r.2.1))))) ∧
      (let k := prm p 0 0 13
       let ok := 1 ≤ k ∧ k ≤ 4096 ∧ a + k ≤ 65536
       (¬ok → gives 0x0404 (.pageAlloc p hv) t (reject p stBadParam)) ∧
       (ok → allocWindow t q.fn (4 * k) = none → gives 0x0404 (.pageAlloc p hv) t (reject p stBusy)) ∧
       (∀ off u, ok → allocWindow t q.fn (4 * k) = some (off, u) →
         let r := pageAlloc u p m k (prm p 4 0 12) a
         (u.cmd.role = .lead → starts 0x0404 (.pageAlloc p hv) u [] (some off)) ∧
         (u.cmd.role ≠ .lead → r.2.1.status < 0x0100 →
           gives 0x0404 (.pageAlloc p hv) (fillWindow r.1 off (idxBytes r.2.2)) (r.2.1.withWindow off)) ∧
         (u.cmd.role ≠ .lead → 0x0100 ≤ r.2.1.status → gives 0x0404 (.pageAlloc p hv) (closeWindow r.1 off) r.2.1)))) ∧
    (∀ op c take, (op, c, take) ∈ [(0x0405, Instr.pageRef p hv, true), (0x0406, .pageFree p hv, false)] →
      (blockList p hv = none → gives op c t (reject p (hostError hv [(prm p 8 0 64, 4 * prm p 0 0 13, 4)]))) ∧
      (∀ bs, blockList p hv = some bs →
        (4096 < bs.length → gives op c t (reject p stBadParam)) ∧
        (bs.length ≤ 4096 → t.cmd.role = .lead → starts op c t bs none) ∧
        (bs.length ≤ 4096 → t.cmd.role ≠ .lead → gives op c (pageRefs t p take bs).1 (pageRefs t p take bs).2)))) ∧
  (∀ (s t : State) (p : Packet) (hv : HostView) (q : SQueue),
    let gives := fun (op : Nat) (c : Instr) (u : State) (r : Reply) => Begins s t op p c q → exec c s = .next (answer t u op p q.fn r)
    let b := prm p 0 0 21
    let e := entryAt t b
    let n := prm p 4 8 8 + 1
    (t.srv.model = none → gives 0x0407 (.pageRead p hv) t (reject p stWrongState) ∧ gives 0x0408 (.pageWrite p hv) t (reject p stWrongState)) ∧
    (∀ m, t.srv.model = some m →
      let gone := e.inUse = false ∨ e.state = .retired ∨ e.placed = false
      let past := m.lkv < prm p 4 0 8 + n
      ((gone ∨ past) → gives 0x0407 (.pageRead p hv) t (reject p stBadParam)) ∧ (gone → gives 0x0408 (.pageWrite p hv) t (reject p stBadParam)) ∧
      (¬gone → ¬past →
        (takePin t b = none → gives 0x0407 (.pageRead p hv) (ldgError t 2 b) (reject p stBusy)) ∧
        (∀ u, takePin t b = some u →
          let r := (pageRanges t m e p).foldl (fun (a : List PByte × State) g =>
            ((a.1 ++ (readMem a.2 4 .stream g.1 g.2).1), (readMem a.2 4 .stream g.1 g.2).2)) ([], u)
          gives 0x0407 (.pageRead p hv) (dropPin (hostWrite r.2 (prm p 8 0 64) r.1) b)
            { doneC0 p r.1.length with status := if r.1.any (·.poison) then stPoisoned else stDone })) ∧
      (¬gone →
        (let kf := prm p 16 0 6
         let vf := prm p 16 8 6
         let same := kf = e.kfmt ∧ vf = e.vfmt
         let fits := prm p 4 0 8 = 0 ∧ n = m.lkv ∧ 16 ≤ e.fill ∧ fitsArea m.d (headBytes m.d m.kfmt) kf = true ∧ fitsArea m.d (headBytes m.d m.vfmt) vf = true
         let mine := e.state = .owned ∧ e.refcount = 1
         (¬mine → gives 0x0408 (.pageWrite p hv) t (reject p stWrongState)) ∧
         (mine → past → gives 0x0408 (.pageWrite p hv) t (reject p stBadParam)) ∧
         (mine → ¬past → ¬same → ¬fits → gives 0x0408 (.pageWrite p hv) t (reject p stBadParam)) ∧
         (mine → ¬past → (same ∨ fits) → takePin t b = none → gives 0x0408 (.pageWrite p hv) (ldgError t 2 b) (reject p stBusy)) ∧
         (∀ u, mine → ¬past → (same ∨ fits) → takePin t b = some u →
           let d := hostData u hv (prm p 8 0 64) (n * m.rows * 2048)
           let r := (pageRanges t m e p).foldl (fun (a : List PByte × State) g => (a.1.drop g.2, writeMem a.2 4 225 .stream g.1 (a.1.take g.2))) d
           gives 0x0408 (.pageWrite p hv) (dropPin (modEntry r.2 b fun e => { e with kfmt := kf, vfmt := vf }) b)
             { doneC0 p d.1.length with status := if d.1.any (·.poison) then stPoisoned else stDone })))) ∧
    (let k := prm p 8 0 17
     let es := ((slotAt t (prm p 0 0 12)).table.drop (prm p 4 0 32)).take k
     ((k = 0 ∨ 65536 < k) → gives 0x0409 (.blockTableRead p hv) t (reject p stBadParam)) ∧
     (1 ≤ k → k ≤ 65536 → allocWindow t q.fn (4 * k) = none → gives 0x0409 (.blockTableRead p hv) t (reject p stBusy)) ∧
     (∀ off u, 1 ≤ k → k ≤ 65536 → allocWindow t q.fn (4 * k) = some (off, u) →
       gives 0x0409 (.blockTableRead p hv) (fillWindow u off (idxBytes es)) ((doneC0 p es.length).withWindow off))))

/-- Table 12.4 rows 0x040A and 0x0501 to 0x0506 (R415, R417, R440, R443 to R445, R622). -/
def Obligations.ServingCommands : Prop :=
  ∀ (s t : State) (p : Packet) (hv : HostView) (q : SQueue),
    let gives := fun (op : Nat) (c : Instr) (u : State) (r : Reply) => Begins s t op p c q → exec c s = .next (answer t u op p q.fn r)
    (let a := prm p 0 0 64
     let read := (hostImage hv a 64 64).bind readModel
     (read = none → gives 0x0501 (.modelLoad p hv) t (reject p (hostError hv [(a, 64, 64)]))) ∧
     (∀ m, read = some m →
       (reserveModel (setGroups t m.p) m = none → gives 0x0501 (.modelLoad p hv) t (reject p stBusy)) ∧
       (∀ u, reserveModel (setGroups t m.p) m = some u → gives 0x0501 (.modelLoad p hv) (setWork (freshModel u m) .loaded) (done p)))) ∧
    (let u := dropModel t
     gives 0x0502 (.modelUnload p hv) (setWork { u with flt := { u.flt with quarantine := [], overflow := false } } .configured) (done p)) ∧
    (let x := prm p 0 0 8
     let cls := decide (prm p 0 8 1 = 1)
     let en := decide (prm p 0 9 1 = 1)
     let held := ∃ y ∈ t.srv.core.slots, y.2.state ≠ 0 ∧ y.2.tenant = x
     (held → ((tenantAt t x).1 ≠ cls ∨ en = false) → gives 0x040A (.tenantSet p hv) t (reject p stBusy)) ∧
     (¬(held ∧ ((tenantAt t x).1 ≠ cls ∨ en = false)) →
       gives 0x040A (.tenantSet p hv) { t with srv := { t.srv with tenants := mput (false, false) t.srv.tenants x (cls, en) } } (done p))) ∧
    (t.srv.model = none →
      gives 0x0503 (.adapterLoad p hv) t (reject p stWrongState) ∧ gives 0x0505 (.grammarLoad p hv) t (reject p stWrongState)) ∧
    (∀ m, t.srv.model = some m →
      let a := prm p 0 0 8
      let g := prm p 0 16 16
      let len := prm p 16 0 64
      let x := adapterAt t a
      let load := Instr.adapterLoad p hv
      let bad := g = 0 ∨ x.cur.map (·.1) = some g ∨ x.ret.map (·.1) = some g ∨ m.maxRank < prm p 4 0 9 ∨ len = 0 ∨ m.store < len
      let image := hostImage hv (prm p 8 0 64) len 64
      let puts := fun (img : List Byte) (i : Nat) (y : AdSlot) => Begins s t 0x0503 p load q → exec load s = .next (begun
        (setAdapter (writeMem t 4 225 .stream (storeDpa t m i) (clean img)) a { y with load := some (g, i) })
        { op := 0x0503, pkt := p, fn := q.fn, window := none, args := [], reply := none })
      (bad → gives 0x0503 load t (reject p stBadParam)) ∧
      (¬bad → image = none → gives 0x0503 load t (reject p (hostError hv [(prm p 8 0 64, len, 64)]))) ∧
      (∀ img, ¬bad → image = some img →
        (x.load.isSome = true → gives 0x0503 load t (reject p stBusy)) ∧
        (x.load = none →
          let free := firstBelow 256 fun i => !(usedStores t).contains i
          (∀ i, free = some i → puts img i x) ∧
          (∀ c, free = none → x.cur = some c → x.curUse = 0 → puts img c.2 { x with cur := none }) ∧
          (free = none → (x.cur = none ∨ x.curUse ≠ 0) → gives 0x0503 load t (reject p stBusy))))) ∧
    (let a := prm p 0 0 8
     let x := adapterAt t a
     (x.cur = none → gives 0x0504 (.adapterFree p hv) t (done p)) ∧
     (∀ c, x.cur = some c →
       (x.curUse = 0 → gives 0x0504 (.adapterFree p hv) (setAdapter t a { x with cur := none }) (done p)) ∧
       (x.curUse ≠ 0 → gives 0x0504 (.adapterFree p hv)
         (setAdapter t a { x with cur := none, curUse := 0, ret := some c, retUse := x.curUse }) (done p)))) ∧
    (∀ m, t.srv.model = some m →
      let i := prm p 0 0 6
      let image := hostImage hv (prm p 8 0 64) (prm p 16 0 64) 64
      let load := Instr.grammarLoad p hv
      let fails := raiseIf (setRegBit t Reg.STN_ERR 0) Reg.STN_CTRL 0 0x006C i
      (image = none → gives 0x0505 load t (reject p (hostError hv [(prm p 8 0 64, prm p 16 0 64, 64)]))) ∧
      (∀ b, image = some b → readGrammar m b = none → gives 0x0505 load fails (reject p stBadParam)) ∧
      (∀ b g, image = some b → readGrammar m b = some g →
        let others := t.srv.grammars.filter fun kv => kv.1 ≠ i
        let full := grammarNamed t i = true ∨ 1048576 < others.foldl (fun n kv => n + kv.2.maskOf.length) g.maskOf.length ∨
          65536 < others.foldl (fun n kv => n + kv.2.masks.length) g.masks.length
        (full → gives 0x0505 load fails (reject p stBusy)) ∧
        (¬full → gives 0x0505 load
          (raiseIf { t with srv := { t.srv with grammars := mset t.srv.grammars i g } } Reg.STN_CTRL 0 0x006C i) (done p)))) ∧
    (let i := prm p 0 0 6
     (grammarNamed t i = true → gives 0x0506 (.grammarFree p hv) t (reject p stBusy)) ∧
     (grammarNamed t i = false → gives 0x0506 (.grammarFree p hv) { t with srv := { t.srv with grammars := mdel t.srv.grammars i } } (done p)))

/-- Table 12.4 row 0x0401 (R403, R411, R420 to R423, R430). -/
def Obligations.StepCommand : Prop :=
  ∀ (s t : State) (p : Packet) (hv : HostView) (q : SQueue),
    let gives := fun (u : State) (r : Reply) => Begins s t 0x0401 p (.step p hv) q → exec (.step p hv) s = .next (answer t u 0x0401 p q.fn r)
    let key := ctxKey q.fn (pktCtx p)
    let held := takeEngine t key
    ((held.srv.model = none ∨ held.itn.image = none) → gives t (reject p stWrongState)) ∧
    (∀ m g, held.srv.model = some m → held.itn.image = some g →
      let a := prm p 0 0 64
      let slot := slotF g.slot 34 0 32
      (p.deadline ≠ 0 → gives t (reject p stBadParam)) ∧
      (p.deadline = 0 → g.flags / 2 % 2 = 0 → gives t (reject p stWrongState)) ∧
      (∀ x, p.deadline = 0 → g.flags / 2 % 2 = 1 → quarantined t = some x → gives t (rejectAt p stBusy x 0xFFFFFFFF)) ∧
      (p.deadline = 0 → g.flags / 2 % 2 = 1 → quarantined t = none →
        (fetchManifest hv a slot = none → gives t (reject p (manifestError hv a slot))) ∧
        (∀ img n es0, fetchManifest hv a slot = some (img, n, es0) →
          let es := (vfParams q.fn t es0).1
          let t1 := (vfParams q.fn t es0).2
          let u := takeEngine t1 key
          let fails := fun i => entryFails u m g.seed (nth es i ⟨[], [], [], []⟩)
          let poisoned := fun i => paramPoison u (nth es i ⟨[], [], [], []⟩)
          (∀ i, i < es.length → (∀ j < i, fails j = none ∧ poisoned j = false) →
            (poisoned i = true → gives t1 (reject p stMemUe)) ∧
            (poisoned i = false → fails i = some true → gives (setRegBit t1 Reg.SMP_ERR 4) (rejectAt p stBadParam i 0xFFFFFFFF)) ∧
            (poisoned i = false → fails i = some false → gives t1 (rejectAt p stBadParam i 0xFFFFFFFF))) ∧
          ((∀ i < es.length, fails i = none ∧ poisoned i = false) →
            (es.length < n → gives t1 (rejectAt p stBadParam es.length 0xFFFFFFFF)) ∧
            (∀ x, n ≤ es.length → unreadable u m es = some x → gives t1 (rejectAt p stBadParam x.1 x.2)) ∧
            (n ≤ es.length → unreadable u m es = none →
              let tri := es.map (triage u u.bell)
              let kept := tri.map (·.1)
              (allocWindow u q.fn (resultBytes kept) = none → gives t1 (reject p stBusy)) ∧
              (∀ off w, allocWindow u q.fn (resultBytes kept) = some (off, w) →
                (∀ b, pickVariant g (shapeOf u kept) = .inr b → gives t1 (rejectAt p stBadParam b 0xFFFFFFFF)) ∧
                (∀ v, pickVariant g (shapeOf u kept) = .inl v →
                  let trial := StepRun.fresh 0 kept (kept.map fun e => SRes.fresh 0 e.runs)
                  let run := StepRun.fresh w.srv.nextStep kept (tri.map fun t => SRes.fresh t.2.1 t.1.runs)
                  let w1 := { w with srv := { w.srv with nextStep := w.srv.nextStep + 1, core := { w.srv.core with run := some run } } }
                  let w2 := beginRun w1 w.srv.nextStep v (w.bell + g.mbells)
                  (admitStep (passOne u) m trial = none → gives (ldgError t1 2 0) (reject p stBusy)) ∧
                  ((admitStep (passOne u) m trial).isSome = true → Begins s t 0x0401 p (.step p hv) q →
                    exec (.step p hv) s = .next (begun (broadcast w2 (stageImage w img kept w.srv.nextStep v))
                      { op := 0x0401, pkt := p, fn := q.fn, window := some off, args := [], reply := none })))))))))

/-- Table 12.4 rows 0x0801 to 0x0804 (R646, R649 to R653). -/
def Obligations.SecurityCommands : Prop :=
  ∀ (s t : State) (p : Packet) (hv : HostView) (bad : Nat) (q : SQueue),
    let gives := fun (op : Nat) (c : Instr) (u : State) (r : Reply) => Begins s t op p c q → exec c s = .next (answer t u op p q.fn r)
    let starts := fun (op : Nat) (c : Instr) (u : State) (args : List Nat) (w : Option Nat) =>
      Begins s t op p c q → exec c s = .next (begun u { op := op, pkt := p, fn := q.fn, window := w, args := args, reply := none })
    (let a := prm p 0 0 64
     let attest := Instr.attest p hv bad
     (hostImage hv a 32 4 = none → gives 0x0801 attest t (reject p (hostError hv [(a, 32, 4)]))) ∧
     (∀ nonce, hostImage hv a 32 4 = some nonce →
       let body := measurement t q.fn nonce
       let o := sign body bad t
       let bytes := body.length + 5716
       (allocWindow t q.fn bytes = none → gives 0x0801 attest t (reject p stBusy)) ∧
       (∀ off u, allocWindow t q.fn bytes = some (off, u) →
         let kept := fun (v : State) => { v with cmd := u.cmd, sec := { v.sec with reqs := v.sec.reqs ++ [{ pkt := some p, window := off, body := body }] } }
         (t.sec.reqs ≠ [] → starts 0x0801 attest (kept t) [] (some off)) ∧
         (t.sec.reqs = [] → o.1 = .waits → starts 0x0801 attest (kept o.2) [] (some off)) ∧
         (∀ st, t.sec.reqs = [] → o.1 = .refused st → gives 0x0801 attest o.2 (reject p st)) ∧
         (∀ sig w v, t.sec.reqs = [] → o.1 = .signed sig → allocWindow o.2 q.fn (signedBytes body sig).length = some (w, v) →
           gives 0x0801 attest (fillWindow v w (signedBytes body sig)) ((doneC0 p (signedBytes body sig).length).withWindow w))))) ∧
    (let a := prm p 0 0 64
     let n := prm p 8 0 27
     let kind := prm p 16 0 2
     let stage := Instr.fwStage p hv
     ((kind ≠ 1 ∧ kind ≠ 2) → gives 0x0802 stage t (reject p stBadParam)) ∧
     ((kind = 1 ∨ kind = 2) → hostImage hv a n 64 = none → gives 0x0802 stage t (reject p (hostError hv [(a, n, 64)]))) ∧
     (∀ b, (kind = 1 ∨ kind = 2) → hostImage hv a n 64 = some b →
       let cause := if kind = 1 then causeStatus (imageCause t.sec.blob b)
         else if blobForm b = false then stBadParam
         else if signedOk b 0x200 0x238 = false then stSigInvalid
         else if fieldAt b 8 4 ≤ fieldAt t.sec.blob 8 4 ∨ (b.drop 0x20).take 60 ≠ (t.sec.blob.drop 0x20).take 60 then stBadParam
         else stDone
       (cause = stDone →
         gives 0x0802 stage (raiseIf { t with sec := { t.sec with staged := mset t.sec.staged kind b } } Reg.SEC_CTRL 1 0x00F1 kind) (done p)) ∧
       (cause ≠ stDone → gives 0x0802 stage t (reject p cause)))) ∧
    (let kind := prm p 0 0 2
     let activate := Instr.fwActivate p hv bad
     (mget t.sec.staged kind = none → gives 0x0803 activate t (reject p stBadParam)) ∧
     ((mget t.sec.staged kind).isSome = true → flashOpen t = false → gives 0x0803 activate t (reject p stInhibit)) ∧
     ((mget t.sec.staged kind).isSome = true → flashOpen t = true →
       let u := setFlash (flashFirst t) kind []
       starts 0x0803 activate { u with sec := { u.sec with marker := some kind } } [kind, bad] none)) ∧
    gives 0x0804 (.signStatus p hv) t (plainReply p stDone (t.sec.rend - t.sec.next) (t.sec.rend / 4096) 0 0)

/-- A step of the block; on an empty queue what it does is the model's choice (log entry 2, DESIGN CHOICE). -/
def Obligations.QueueFront : Prop :=
  (∀ (s : State) (c : Instr) (rest : List Instr), s.pending = c :: rest → step s = exec c { s with pending := rest }) ∧
  (∀ (s : State) (c : Instr), step (s.withCommand c) = exec c s) ∧
  (∀ (s : State), s.pending = [] → step s = .next (settle s))

/-- The block has no stop: a command that cannot act is answered or ignored, as its chapter says. -/
def Obligations.NeverStops : Prop :=
  (∀ (c : Instr) (s : State), ∃ t, exec c s = .next t) ∧ (∀ s : State, ∃ t, steps s t)

/-- R470 with Table 12.6 written out in `legalTable`, under the order of checks of R459; the role and power-state clauses are
those of R471 and R474. -/
def Obligations.PacketChecks : Prop :=
  ∀ (s t : State) (op : Nat) (p : Packet) (c : Instr) (q : SQueue), Starts s t op p c q →
    let gives := fun st => exec c s = .next (afterPacket c (complete t p (reject p st)))
    let leadBarred := [0x0103, 0x0501, 0x0502, 0x0601, 0x0602, 0x0603]
    let asleep := [0x0101, 0x0105, 0x0106, 0x0109, 0x010A, 0x0208, 0x0701, 0x0702, 0x0703, 0x0804]
    (∃ row ∈ legalTable, op ∈ row.1) ∧
    (reservedSet op p = true → gives stBadParam) ∧
    (reservedSet op p = false → (ctxOwned t q.fn (pktCtx p) = false ∨ (pfOnly op = true ∧ q.fn ≠ 0)) → gives stNotPermitted) ∧
    (reservedSet op p = false → ctxOwned t q.fn (pktCtx p) = true → (pfOnly op = true → q.fn = 0) →
      (∀ row ∈ legalTable, op ∈ row.1 → t.cmd.work ∉ row.2 → gives stWrongState) ∧
      (t.cmd.role = .lead → op ∈ leadBarred → gives stWrongState) ∧
      (powerState t ≠ 0 → op ∉ asleep → gives stWrongState) ∧
      (∀ row ∈ legalTable, op ∈ row.1 → t.cmd.work ∈ row.2 → (t.cmd.role ≠ .lead ∨ op ∉ leadBarred) →
        (powerState t = 0 ∨ op ∈ asleep) → Begins s t op p c q))

/-- R460: Table 12.2 field by field. -/
def Obligations.ReplyLayout : Prop :=
  ∀ (s : State) (n : Nat) (q : CQueue) (r : Reply), cqAt s n = some q → q.failed = false → q.waiting = [] → cqFull q = false →
    ∃ b : List Byte, b.length = 32 ∧
      (let wraps := q.widx + 1 = q.size
       let u := emit (setCq s n { q with widx := if wraps then 0 else q.widx + 1, phase := if wraps then !q.phase else q.phase, last := some r })
         (.reply n q.widx (q.base + 32 * q.widx) b)
       postReply s n r = if r.quiet then u else sendMsix u q.fn q.vector) ∧
      (∃ w, fieldAt b 6 2 = w ∧ w.testBit 15 = q.phase ∧ w.testBit 14 = r.poison ∧ w.testBit 13 = r.flags.nrw ∧ w.testBit 12 = r.flags.rsv ∧
        w.testBit 11 = r.flags.inv ∧ w.testBit 10 = r.flags.unf ∧ w.testBit 9 = r.flags.ovf ∧ w.testBit 8 = r.flags.sat ∧
        w % 2 ^ 8 = r.sq % 2 ^ 8) ∧
      fieldAt b 0 4 = r.tag.toNat ∧ fieldAt b 4 2 = r.status % 2 ^ 16 ∧ fieldAt b 8 8 = r.result % 2 ^ 64 ∧
      fieldAt b 16 2 = ((sqAt s r.sq).map (·.head)).getD 0 % 2 ^ 12 ∧ fieldAt b 18 2 = r.c3 % 2 ^ 16 ∧
      fieldAt b 20 4 = r.c0 % 2 ^ 32 ∧ fieldAt b 24 4 = r.c1 % 2 ^ 32 ∧ fieldAt b 28 4 = r.c2 % 2 ^ 32

/-- R457 and Table 12.1: no bit of a packet is dropped, and each is where the table puts it. -/
def Obligations.PacketRoundTrip : Prop :=
  (∀ (op : Nat) (p : Packet), op < 2 ^ 16 → (packetBytes op p).length = 64 ∧ packetOf p.sq (packetBytes op p) = ⟨op, p⟩) ∧
  (∀ (n : Nat) (bs : List Byte), bs.length = 64 →
    let f := packetOf n bs
    packetBytes f.op f.pkt = bs ∧ f.pkt.sq = n ∧ f.op = fieldAt bs 0 2 ∧
    hasBarrier f.pkt = (nth bs 3 0).getLsbD 7 ∧ bitAt f.pkt.flags.toNat 14 = (nth bs 3 0).getLsbD 6 ∧
    (plainReply f.pkt 0 0 0 0 0).quiet = (nth bs 3 0).getLsbD 5 ∧
    f.pkt.tag.toNat = fieldAt bs 4 4 ∧ pktCtx f.pkt = (nth bs 8 0).toNat ∧ f.pkt.deadline.toNat = fieldAt bs 12 8 ∧
    (∀ o w, o + w ≤ 44 → prm f.pkt o 0 (8 * w) = fieldAt bs (20 + o) w)) ∧
  (∀ (op : Nat) (p : Packet), reservedSet op p = false ↔
    (p.flags.toNat % 2 ^ 13 = 0 ∧ p.ctxWord.toNat < 2 ^ 8 ∧ (bitAt p.flags.toNat 14 = false → p.deadline.toNat < 2 ^ 48) ∧
      ∀ i, p.params.getLsbD i = true → (usedParams op p).testBit i = true)) ∧
  (∀ (s t : State) (op : Nat) (p : Packet) (c : Instr) (q : SQueue), Starts s t op p c q → bitAt p.flags.toNat 14 = false →
    2 ^ 48 ≤ p.deadline.toNat → exec c s = .next (afterPacket c (complete t p (reject p stBadParam)))) ∧
  (∀ (s : State) (p : Packet), p.deadline ≠ 0 →
    pastDeadline s p = if bitAt p.flags.toNat 14 then decide (p.deadline.toNat < reg s Reg.PCI_HOST_TIME) else decide (p.deadline.toNat < s.bell)) ∧
  (∀ (s : State) (hv : HostView) (n op : Nat) (p : Packet) (q : SQueue), op < 2 ^ 16 → p.sq = n → sqAt s n = some q → q.halted = false →
    q.head ≠ q.tail → cqStuck s q.cq = false → hostOk hv (q.base + 64 * q.head) 64 = true →
    hostBytes hv (q.base + 64 * q.head) 64 = packetBytes op p →
    fetchSq hv n 1 s = setSq s n { q with head := (q.head + 1) % q.size, fetched := q.fetched ++ [⟨op, p⟩] })

/-- The frame of the recipe steps of Table 3.5 that act within an array (R95 to R103, R108, R112). -/
def Obligations.StepFrame : Prop :=
  ∀ (s t : State) (st : Site), st.wf = true →
    (∀ c ∈ [Instr.nop st, .dot st, .add st, .mul st, .fma st, .max st, .min st, .exp2 st, .rsqrt st, .recip st, .mov st, .cvt st, .benc st, .ld st],
      exec c s = .next t → StepKeeps s t st fun _ => False) ∧
    (exec (.st st) s = .next t →
      StepKeeps s t st fun w => ∃ a tl x step, nextStep s st = some (a, tl, x, step) ∧ w = storeOff st tl x step / 8)

/-- BANK_ACCESS at an idle bank (R186 to R191, R197, R251): where a store goes and what it leaves. The address of a stored byte
is that of its location in the stacks' physical memory. -/
def Obligations.BankStoreFrame : Prop :=
  ∀ (source issuer dpa len : Nat) (data : List Byte) (poison : Bool) (s : State) (l : Loc),
    locateS s dpa = some l → trowelBusy s (trowelOf l.stack l.die l.bank) = false → stackHolds s l.stack = false →
    stackServes s l.stack = true → isRetired s l = false →
    let d := data.take (256 - dpa % 256)
    let a := physOf l
    let n := min len (256 - dpa % 256)
    (s.variant = .pm960 → ∃ t, exec (.bankAccess source issuer true dpa len data poison []) s = .next t ∧
      { t with mem := { t.mem with dram := s.mem.dram, chk := s.mem.chk } } = s ∧
      (∀ i, i < d.length → rawByte t (a + i) = d.getD i 0 ∧ chkDiff t (a + i) = if poison then 0x1F else 0) ∧
      (∀ x, x < a ∨ a + d.length ≤ x → rawByte t x = rawByte s x ∧ chkDiff t x = chkDiff s x)) ∧
    (s.variant = .pm480 → a % 32 = 0 → d.length = 32 → ∃ t, exec (.bankAccess source issuer true dpa len data poison []) s = .next t ∧
      { t with mem := { t.mem with dram := s.mem.dram, chk := s.mem.chk, stks := s.mem.stks } } = s ∧
      (∀ i, i < 32 → rawByte t (a + i) = d.getD i 0) ∧ chkDiff t (a / 32) = (if poison then 0x1FF else 0) ∧
      (∀ x, x < a ∨ a + 32 ≤ x → rawByte t x = rawByte s x) ∧ (∀ g, g ≠ a / 32 → chkDiff t g = chkDiff s g)) ∧
    (s.variant = .pm960 → (∀ x, a / 8 * 8 ≤ x → x < (a + n + 7) / 8 * 8 → chkDiff s x = 0) →
      exec (.bankAccess source issuer false dpa len data poison []) s =
        .next (emit s (.readData issuer (dpaOf (stackCount s) s.mem.p l) ((List.range n).map fun i => ⟨rawByte s (a + i), false⟩))))

/-- The invariant of the stacks' memory; its form is the model's (log entry 8, DESIGN CHOICE): what an unlisted byte reads as. -/
def Obligations.MemoryCanonical : Prop :=
  ∀ (s t : State) (c : Instr) (rest : List Instr), s.pending = c :: rest → c.wf = true → nearMemory c = true → s.mem.wf = true → steps s t → t.mem.wf = true

/-- The access codes of Table 0.2 (R11) and reserved fields and offsets (R13). -/
def Obligations.AccessCodes : Prop :=
  ∀ (s : State) (v : Nat),
    (∀ (a : Nat) (d : RegDef), regAt a = some d →
      (∀ f ∈ d.fields, ∀ i, f.lo ≤ i → i ≤ f.hi →
        bitAt (reg (plainWrite s a v) a) i =
          (match f.acc with
           | .ro | .wo => bitAt (reg s a) i
           | .rw => bitAt v i
           | .w1c => bitAt (reg s a) i && !bitAt v i
           | .w1s => bitAt (reg s a) i || bitAt v i)) ∧
      (∀ i, (∀ f ∈ d.fields, i < f.lo ∨ f.hi < i) → bitAt (reg (plainWrite s a v) a) i = bitAt (reg s a) i) ∧
      (∀ b, b ≠ a → reg (plainWrite s a v) b = reg s b) ∧ { plainWrite s a v with regs := s.regs } = s) ∧
    (∀ a, regAt a = none → readReg s a = 0 ∧ writeReg s a v = s) ∧
    (∀ (off : Nat) (bytes : List Byte), bytes.length = 8 → off % 8 = 0 → 0x10000 ≤ off → off < 0x20000 →
      off ∉ [Reg.PCI_BAR2_BASE, Reg.PCI_VF_CFG, Reg.PCI_HOST_TIME] → (off < Reg.PCI_VF_XLAT 1 ∨ Reg.PCI_VF_XLAT 64 < off) →
      linkDown s = false → bootStage s ≠ 0xE → memServed s 0 = true → mustWait s 0 = false →
      exec (.registerWrite 0 off bytes false) s = .next (plainWrite s off (ofLe bytes)))

/-- The state after reset (R14, Table 12.5); which variant the module is, and what a byte of memory reads as, are the
model's choice (log entries 1 and 8, DESIGN CHOICE). -/
def Obligations.ResetState : Prop :=
  (State.reset.pending = [] ∧ State.reset.cmd.work = .cold ∧ State.reset.mem.wf = true ∧
    (∀ n, sqAt .reset n = none ∧ cqAt .reset n = none) ∧ State.reset.cmd.ctxs = []) ∧
  (∀ k, (arrAt .reset k).state = .idle ∧ (arrAt .reset k).active = none) ∧
  (∀ x, (trowelAt .reset x).state = .idle ∧ (trowelAt .reset x).cmd = none) ∧
  (∀ (a : Nat) (d : RegDef), regAt a = some d → a < 0xF000000000 →
    a ∉ [Reg.ARY_ID 1, Reg.SCD_ID 1, Reg.SKM_ID 1, Reg.PWR_PRESENT] → ¬(0x21000 ≤ a ∧ a < 0x21400 ∧ (a - 0x21000) % 0x20 = 8) →
    reg .reset a = d.resetVal ∧ ∀ f ∈ d.fields, bitsOf (reg .reset a) f.lo (f.hi + 1 - f.lo) = f.reset)
end

