-- ==== Sys2Proof/Laws/Bytes.lean ====
section
/-!
SUPPORT. Byte strings: a number and its little-endian bytes, and the fields of a string built from parts.
-/
namespace Sys2Proof.Machine

@[simp] theorem length_leBytes (n v : Nat) : (leBytes n v).length = n := by simp [leBytes]

theorem leBytes_succ (n v : Nat) : leBytes (n + 1) v = BitVec.ofNat 8 v :: leBytes n (v / 256) := by
  simp only [leBytes, List.range_succ_eq_map, List.map_cons, List.map_map, Nat.mul_zero, Nat.shiftRight_zero, List.cons.injEq, true_and]
  refine List.map_congr_left fun i _ => ?_
  simp only [Function.comp_apply, Nat.shiftRight_eq_div_pow, Nat.div_div_eq_div_mul]
  rw [show (256 : Nat) = 2 ^ 8 by rfl, ← Nat.pow_add, show 8 * i.succ = 8 + 8 * i by omega]

/-- The number that its own bytes spell. -/
@[simp] theorem ofLe_leBytes (n v : Nat) : ofLe (leBytes n v) = v % 256 ^ n := by
  induction n generalizing v with
  | zero => simp [leBytes, ofLe, Nat.mod_one]
  | succ n ih =>
    rw [leBytes_succ, ofLe, ih, BitVec.toNat_ofNat, show 256 ^ (n + 1) = 256 * 256 ^ n by ring, Nat.mod_mul]

theorem ofLe_lt (bs : List Byte) : ofLe bs < 256 ^ bs.length := by
  induction bs with
  | nil => simp [ofLe]
  | cons b bs ih =>
    have := b.isLt
    simp only [ofLe, List.length_cons, Nat.pow_succ]
    omega

/-- The bytes of the number that a string spells. -/
theorem leBytes_ofLe (bs : List Byte) : leBytes bs.length (ofLe bs) = bs := by
  induction bs with
  | nil => rfl
  | cons b bs ih =>
    have hb : b.toNat < 256 := b.isLt
    rw [List.length_cons, leBytes_succ, ofLe, show (b.toNat + 256 * ofLe bs) / 256 = ofLe bs by omega, ih]
    congr 1
    apply BitVec.eq_of_toNat_eq
    rw [BitVec.toNat_ofNat]
    omega

/-- A field that lies in the second part of a string. -/
theorem fieldAt_append_right (a b : List Byte) {o : Nat} (n : Nat) (h : a.length ≤ o) : fieldAt (a ++ b) o n = fieldAt b (o - a.length) n := by
  simp only [fieldAt, List.drop_append, List.drop_eq_nil_of_le h, List.nil_append]

/-- A field that lies in the first part of a string. -/
theorem fieldAt_append_left (a b : List Byte) {o n : Nat} (h : o + n ≤ a.length) : fieldAt (a ++ b) o n = fieldAt a o n := by
  have h1 : o - a.length = 0 := by omega
  have h2 : n - (a.length - o) = 0 := by omega
  simp [fieldAt, List.drop_append, List.take_append, h1, h2]

/-- A field of one number is all of it. -/
theorem fieldAt_leBytes (n v : Nat) : fieldAt (leBytes n v) 0 n = v % 256 ^ n := by
  rw [fieldAt, List.drop_zero, List.take_of_length_le (by simp), ofLe_leBytes]

theorem fieldAt_lt (bs : List Byte) (o n : Nat) : fieldAt bs o n < 256 ^ n :=
  lt_of_lt_of_le (ofLe_lt _) (Nat.pow_le_pow_right (by norm_num) (by simp))

end Sys2Proof.Machine
end

