-- ==== Sys2Proof/Laws/Commands.lean ====
section
/-!
SUPPORT. Command packets: what a packet that begins does, check by check, and that every packet row goes that way.
-/
namespace Sys2Proof.Machine

/-- The outcomes of a packet: its SQ is gone, it begins, it already waits, or it joins those that wait. -/
theorem command_cases (op : Nat) (p : Packet) (me : Instr) (body : State → Nat → Verdict) (s : State) :
    (sqAt s p.sq = none ∧ command op p me body s = .next (dropDeferred s ⟨op, p, me⟩)) ∨
    (∃ q, sqAt s p.sq = some q ∧ canStart s ⟨op, p, me⟩ q = true ∧
      command op p me body s = .next (judge (setSq (dropDeferred s ⟨op, p, me⟩) p.sq (q.taking ⟨op, p⟩)) op p q.fn body)) ∨
    (∃ q, sqAt s p.sq = some q ∧ canStart s ⟨op, p, me⟩ q = false ∧ s.cmd.deferred.contains ⟨op, p, me⟩ = true ∧
      command op p me body s = .next s) ∨
    (∃ q, sqAt s p.sq = some q ∧ canStart s ⟨op, p, me⟩ q = false ∧ s.cmd.deferred.contains ⟨op, p, me⟩ = false ∧
      command op p me body s = .next { s with cmd := { s.cmd with deferred := s.cmd.deferred ++ [⟨op, p, me⟩] } }) := by
  unfold command
  dsimp only
  cases h : sqAt s p.sq with
  | none => exact .inl ⟨rfl, rfl⟩
  | some q =>
    cases hc : canStart s ⟨op, p, me⟩ q with
    | true => exact .inr (.inl ⟨q, rfl, hc, by simp [hc]⟩)
    | false =>
      cases hd : s.cmd.deferred.contains ⟨op, p, me⟩ with
      | true => exact .inr (.inr (.inl ⟨q, rfl, hc, rfl, by simp only [hc, Bool.false_eq_true, if_false, if_true]⟩))
      | false => exact .inr (.inr (.inr ⟨q, rfl, hc, rfl, by simp only [hc, Bool.false_eq_true, if_false]⟩))

/-- A packet never stops the block. -/
theorem command_next (op : Nat) (p : Packet) (me : Instr) (body : State → Nat → Verdict) (s : State) :
    ∃ t, command op p me body s = .next t := by
  rcases command_cases op p me body s with ⟨_, h⟩ | ⟨_, _, _, h⟩ | ⟨_, _, _, _, h⟩ | ⟨_, _, _, _, h⟩ <;> exact ⟨_, h⟩

theorem judge_reserved {s : State} {op : Nat} {p : Packet} {fn : Nat} {body : State → Nat → Verdict} (h : reservedSet op p = true) :
    judge s op p fn body = complete s p (reject p stBadParam) := if_pos h

theorem judge_owner {s : State} {op : Nat} {p : Packet} {fn : Nat} {body : State → Nat → Verdict} (h : reservedSet op p = false)
    (h2 : ctxOwned s fn (pktCtx p) = false ∨ (pfOnly op = true ∧ fn ≠ 0)) :
    judge s op p fn body = complete s p (reject p stNotPermitted) := by
  unfold judge
  rw [if_neg (by simp [h]), if_pos]
  rcases h2 with h2 | ⟨h2, h3⟩ <;> simp [h2]
  right; simpa using h3

theorem judge_state {s : State} {op : Nat} {p : Packet} {fn : Nat} {body : State → Nat → Verdict} (h : reservedSet op p = false)
    (h2 : ctxOwned s fn (pktCtx p) = true) (h3 : pfOnly op = true → fn = 0) (h4 : stateAllows s op = false) :
    judge s op p fn body = complete s p (reject p stWrongState) := by
  have : ¬((!ctxOwned s fn (pktCtx p) || (pfOnly op && fn != 0)) = true) := by
    rw [h2]
    cases hp : pfOnly op
    · simp
    · simp [h3 hp]
  unfold judge
  rw [if_neg (by simp [h]), if_neg this, if_pos (by simp [h4])]

/-- Every packet row goes through the checks, its own rules last. -/
theorem exec_starts {s t : State} {op : Nat} {p : Packet} {c : Instr} {q : SQueue} (h : Starts s t op p c q) :
    ∃ body, exec c s = .next (afterPacket c (judge t op p q.fn body)) := by
  have key : ∀ body, command op p c body s = .next (judge t op p q.fn body) := by
    intro body
    rw [h.taken]
    unfold command
    simp only [h.queue, h.ready, if_true]
  have hr := h.row
  clear h
  cases c
  all_goals simp only [packetOp, Option.some.injEq, Prod.mk.injEq, reduceCtorEq] at hr
  all_goals obtain ⟨rfl, rfl⟩ := hr
  all_goals dsimp only [exec, afterPacket]
  case queueDelete => exact ⟨_, congrArg (andThen · (finishDelete _)) (key _)⟩
  case eventWait => exact ⟨_, congrArg (andThen · (deliverOwn _)) (key _)⟩
  all_goals exact ⟨_, key _⟩

end Sys2Proof.Machine
end

