-- ==== Sys2Proof/Laws/Maps.lean ====
section
/-!
SUPPORT. Sparse maps: what a read after a write gives, and that writes keep the canonical form.
-/
namespace Sys2Proof.Machine

variable {α : Type}

@[simp] theorem mget_nil (i : Nat) : mget ([] : List (Nat × α)) i = none := rfl

@[simp] theorem mget_mset_self (m : List (Nat × α)) (i : Nat) (x : α) : mget (mset m i x) i = some x := by
  induction m with
  | nil => simp [mset, mget]
  | cons kv m ih =>
    simp only [mset]
    split_ifs with h1 h2
    · simp [mget]
    · simp [mget]
    · simp [mget, h2, ih]

theorem mget_mset_other (m : List (Nat × α)) {i j : Nat} (x : α) (h : j ≠ i) : mget (mset m i x) j = mget m j := by
  induction m with
  | nil => simp [mset, mget, h.symm]
  | cons kv m ih =>
    simp only [mset]
    split_ifs with h1 h2
    · simp [mget, h.symm]
    · subst h2; simp [mget, h.symm]
    · simp [mget, ih]

@[simp] theorem mget_mdel_self (m : List (Nat × α)) (i : Nat) : mget (mdel m i) i = none := by
  induction m with
  | nil => rfl
  | cons kv m ih =>
    simp only [mdel]
    split_ifs with h
    · exact ih
    · simp [mget, h, ih]

theorem mget_mdel_other (m : List (Nat × α)) {i j : Nat} (hj : j ≠ i) : mget (mdel m i) j = mget m j := by
  induction m with
  | nil => rfl
  | cons kv m ih =>
    simp only [mdel]
    split_ifs with h
    · subst h; simp [mget, hj.symm, ih]
    · simp [mget, ih]

/-- Reading a map after a write of the same key gives the value written. -/
@[simp] theorem mgetD_mput_self [DecidableEq α] (m : List (Nat × α)) (d : α) (i : Nat) (x : α) : mgetD d (mput d m i x) i = x := by
  simp only [mput]
  split_ifs with hx <;> simp [mgetD, hx]

/-- Reading another key gives what it gave before. -/
theorem mgetD_mput_other [DecidableEq α] (m : List (Nat × α)) (d d2 : α) {i j : Nat} (x : α) (hj : j ≠ i) :
    mgetD d2 (mput d m i x) j = mgetD d2 m j := by
  simp only [mput]
  split_ifs
  · simp [mgetD, mget_mdel_other m hj]
  · simp [mgetD, mget_mset_other m x hj]

/-- Reading any key after a write of one. -/
theorem mgetD_mput [DecidableEq α] (m : List (Nat × α)) (d : α) (i j : Nat) (x : α) :
    mgetD d (mput d m i x) j = if j = i then x else mgetD d m j := by
  split_ifs with h
  · subst h; simp
  · exact mgetD_mput_other m d d x h

/-- Keys strictly rise, as a proposition over the tail. -/
theorem msorted_cons {k : Nat} {v : α} {m : List (Nat × α)} (h : msorted ((k, v) :: m) = true) :
    msorted m = true ∧ ∀ kv ∈ m, k < kv.1 := by
  induction m generalizing k v with
  | nil => simp [msorted]
  | cons kw m ih =>
    obtain ⟨k2, w⟩ := kw
    simp only [msorted, Bool.and_eq_true, decide_eq_true_eq] at h
    refine ⟨h.2, ?_⟩
    intro kv hkv
    rcases List.mem_cons.mp hkv with rfl | hm
    · exact h.1
    · exact lt_trans h.1 ((ih h.2).2 kv hm)

theorem msorted_cons_of {k : Nat} {v : α} {m : List (Nat × α)} (hm : msorted m = true) (h : ∀ kv ∈ m, k < kv.1) :
    msorted ((k, v) :: m) = true := by
  cases m with
  | nil => rfl
  | cons kw m => simp [msorted, hm, h kw (by simp)]

theorem mem_mset {m : List (Nat × α)} {i : Nat} {x : α} {kv : Nat × α} (h : kv ∈ mset m i x) : kv = (i, x) ∨ kv ∈ m := by
  induction m with
  | nil => simpa [mset] using h
  | cons kw m ih =>
    simp only [mset] at h
    split_ifs at h
    · simpa using h
    · rcases List.mem_cons.mp h with h | h
      · exact .inl h
      · exact .inr (List.mem_cons_of_mem _ h)
    · rcases List.mem_cons.mp h with h | h
      · exact .inr (by simp [h])
      · rcases ih h with h | h
        · exact .inl h
        · exact .inr (List.mem_cons_of_mem _ h)

theorem mem_mdel {m : List (Nat × α)} {i : Nat} {kv : Nat × α} (h : kv ∈ mdel m i) : kv ∈ m := by
  induction m with
  | nil => simp [mdel] at h
  | cons kw m ih =>
    simp only [mdel] at h
    split_ifs at h
    · exact List.mem_cons_of_mem _ (ih h)
    · rcases List.mem_cons.mp h with h | h
      · simp [h]
      · exact List.mem_cons_of_mem _ (ih h)

/-- A write keeps the keys strictly rising. -/
theorem msorted_mset {m : List (Nat × α)} (h : msorted m = true) (i : Nat) (x : α) : msorted (mset m i x) = true := by
  induction m with
  | nil => rfl
  | cons kv m ih =>
    obtain ⟨k, v⟩ := kv
    obtain ⟨hs, hb⟩ := msorted_cons h
    simp only [mset]
    split_ifs with h1 h2
    · simp [msorted, h1, h]
    · subst h2; exact msorted_cons_of hs hb
    · refine msorted_cons_of (ih hs) ?_
      intro kv hkv
      rcases mem_mset hkv with rfl | hm
      · simp only; omega
      · exact hb kv hm

theorem msorted_mdel {m : List (Nat × α)} (h : msorted m = true) (i : Nat) : msorted (mdel m i) = true := by
  induction m with
  | nil => rfl
  | cons kv m ih =>
    obtain ⟨k, v⟩ := kv
    obtain ⟨hs, hb⟩ := msorted_cons h
    simp only [mdel]
    split_ifs
    · exact ih hs
    · exact msorted_cons_of (ih hs) fun kv hkv => hb kv (mem_mdel hkv)

theorem msorted_filter {m : List (Nat × α)} (h : msorted m = true) (p : Nat × α → Bool) : msorted (m.filter p) = true := by
  induction m with
  | nil => rfl
  | cons kv m ih =>
    obtain ⟨k, v⟩ := kv
    obtain ⟨hs, hb⟩ := msorted_cons h
    simp only [List.filter_cons]
    split_ifs
    · exact msorted_cons_of (ih hs) fun kv hkv => hb kv (List.mem_filter.mp hkv).1
    · exact ih hs

/-- Taking entries out keeps the canonical form. -/
theorem mcanon_filter [DecidableEq α] {d : α} {m : List (Nat × α)} (h : mcanon d m = true) (p : Nat × α → Bool) :
    mcanon d (m.filter p) = true := by
  simp only [mcanon, Bool.and_eq_true, List.all_eq_true] at h ⊢
  exact ⟨msorted_filter h.1 p, fun kv hkv => h.2 kv (List.mem_filter.mp hkv).1⟩

/-- A write keeps the canonical form of a map. -/
theorem mcanon_mput [DecidableEq α] {d : α} {m : List (Nat × α)} (h : mcanon d m = true) (i : Nat) (x : α) :
    mcanon d (mput d m i x) = true := by
  simp only [mcanon, Bool.and_eq_true, List.all_eq_true, decide_eq_true_eq] at h ⊢
  simp only [mput]
  split_ifs with hx
  · exact ⟨msorted_mdel h.1 i, fun kv hkv => h.2 kv (mem_mdel hkv)⟩
  · refine ⟨msorted_mset h.1 i x, fun kv hkv => ?_⟩
    rcases mem_mset hkv with rfl | hm
    · exact hx
    · exact h.2 kv hm

end Sys2Proof.Machine
end

