-- ==== Sys2Proof/Laws/State.lean ====
section
/-!
SUPPORT. The fields of State that each named update leaves alone: one lemma per field and update, each true by rfl, so
that no later proof unfolds a record update.
-/
namespace Sys2Proof.Machine

@[simp] theorem setReg_pending (s : State) (a v : Nat) : (setReg s a v).pending = s.pending := rfl
@[simp] theorem setReg_variant (s : State) (a v : Nat) : (setReg s a v).variant = s.variant := rfl
@[simp] theorem setReg_bell (s : State) (a v : Nat) : (setReg s a v).bell = s.bell := rfl
@[simp] theorem setReg_outbox (s : State) (a v : Nat) : (setReg s a v).outbox = s.outbox := rfl
@[simp] theorem setReg_freeCtr (s : State) (a v : Nat) : (setReg s a v).freeCtr = s.freeCtr := rfl
@[simp] theorem setReg_dep (s : State) (a v : Nat) : (setReg s a v).dep = s.dep := rfl
@[simp] theorem setReg_mem (s : State) (a v : Nat) : (setReg s a v).mem = s.mem := rfl
@[simp] theorem setReg_scr (s : State) (a v : Nat) : (setReg s a v).scr = s.scr := rfl
@[simp] theorem setReg_arrays (s : State) (a v : Nat) : (setReg s a v).arrays = s.arrays := rfl
@[simp] theorem setReg_trowels (s : State) (a v : Nat) : (setReg s a v).trowels = s.trowels := rfl
@[simp] theorem setReg_ustore (s : State) (a v : Nat) : (setReg s a v).ustore = s.ustore := rfl
@[simp] theorem setReg_reducers (s : State) (a v : Nat) : (setReg s a v).reducers = s.reducers := rfl
@[simp] theorem setReg_cmd (s : State) (a v : Nat) : (setReg s a v).cmd = s.cmd := rfl
@[simp] theorem setReg_pci (s : State) (a v : Nat) : (setReg s a v).pci = s.pci := rfl
@[simp] theorem setReg_dma (s : State) (a v : Nat) : (setReg s a v).dma = s.dma := rfl
@[simp] theorem setReg_flt (s : State) (a v : Nat) : (setReg s a v).flt = s.flt := rfl
@[simp] theorem setReg_itn (s : State) (a v : Nat) : (setReg s a v).itn = s.itn := rfl
@[simp] theorem setReg_fab (s : State) (a v : Nat) : (setReg s a v).fab = s.fab := rfl
@[simp] theorem setReg_sec (s : State) (a v : Nat) : (setReg s a v).sec = s.sec := rfl
@[simp] theorem setReg_pwr (s : State) (a v : Nat) : (setReg s a v).pwr = s.pwr := rfl
@[simp] theorem setReg_srv (s : State) (a v : Nat) : (setReg s a v).srv = s.srv := rfl
@[simp] theorem setReg_engines (s : State) (a v : Nat) : (setReg s a v).engines = s.engines := rfl

@[simp] theorem setField_pending (s : State) (a lo w v : Nat) : (setField s a lo w v).pending = s.pending := rfl
@[simp] theorem setField_variant (s : State) (a lo w v : Nat) : (setField s a lo w v).variant = s.variant := rfl
@[simp] theorem setField_bell (s : State) (a lo w v : Nat) : (setField s a lo w v).bell = s.bell := rfl
@[simp] theorem setField_outbox (s : State) (a lo w v : Nat) : (setField s a lo w v).outbox = s.outbox := rfl
@[simp] theorem setField_freeCtr (s : State) (a lo w v : Nat) : (setField s a lo w v).freeCtr = s.freeCtr := rfl
@[simp] theorem setField_dep (s : State) (a lo w v : Nat) : (setField s a lo w v).dep = s.dep := rfl
@[simp] theorem setField_mem (s : State) (a lo w v : Nat) : (setField s a lo w v).mem = s.mem := rfl
@[simp] theorem setField_scr (s : State) (a lo w v : Nat) : (setField s a lo w v).scr = s.scr := rfl
@[simp] theorem setField_arrays (s : State) (a lo w v : Nat) : (setField s a lo w v).arrays = s.arrays := rfl
@[simp] theorem setField_trowels (s : State) (a lo w v : Nat) : (setField s a lo w v).trowels = s.trowels := rfl
@[simp] theorem setField_ustore (s : State) (a lo w v : Nat) : (setField s a lo w v).ustore = s.ustore := rfl
@[simp] theorem setField_reducers (s : State) (a lo w v : Nat) : (setField s a lo w v).reducers = s.reducers := rfl
@[simp] theorem setField_cmd (s : State) (a lo w v : Nat) : (setField s a lo w v).cmd = s.cmd := rfl
@[simp] theorem setField_pci (s : State) (a lo w v : Nat) : (setField s a lo w v).pci = s.pci := rfl
@[simp] theorem setField_dma (s : State) (a lo w v : Nat) : (setField s a lo w v).dma = s.dma := rfl
@[simp] theorem setField_flt (s : State) (a lo w v : Nat) : (setField s a lo w v).flt = s.flt := rfl
@[simp] theorem setField_itn (s : State) (a lo w v : Nat) : (setField s a lo w v).itn = s.itn := rfl
@[simp] theorem setField_fab (s : State) (a lo w v : Nat) : (setField s a lo w v).fab = s.fab := rfl
@[simp] theorem setField_sec (s : State) (a lo w v : Nat) : (setField s a lo w v).sec = s.sec := rfl
@[simp] theorem setField_pwr (s : State) (a lo w v : Nat) : (setField s a lo w v).pwr = s.pwr := rfl
@[simp] theorem setField_srv (s : State) (a lo w v : Nat) : (setField s a lo w v).srv = s.srv := rfl
@[simp] theorem setField_engines (s : State) (a lo w v : Nat) : (setField s a lo w v).engines = s.engines := rfl

@[simp] theorem setRegBit_pending (s : State) (a i : Nat) : (setRegBit s a i).pending = s.pending := rfl
@[simp] theorem setRegBit_variant (s : State) (a i : Nat) : (setRegBit s a i).variant = s.variant := rfl
@[simp] theorem setRegBit_bell (s : State) (a i : Nat) : (setRegBit s a i).bell = s.bell := rfl
@[simp] theorem setRegBit_outbox (s : State) (a i : Nat) : (setRegBit s a i).outbox = s.outbox := rfl
@[simp] theorem setRegBit_freeCtr (s : State) (a i : Nat) : (setRegBit s a i).freeCtr = s.freeCtr := rfl
@[simp] theorem setRegBit_dep (s : State) (a i : Nat) : (setRegBit s a i).dep = s.dep := rfl
@[simp] theorem setRegBit_mem (s : State) (a i : Nat) : (setRegBit s a i).mem = s.mem := rfl
@[simp] theorem setRegBit_scr (s : State) (a i : Nat) : (setRegBit s a i).scr = s.scr := rfl
@[simp] theorem setRegBit_arrays (s : State) (a i : Nat) : (setRegBit s a i).arrays = s.arrays := rfl
@[simp] theorem setRegBit_trowels (s : State) (a i : Nat) : (setRegBit s a i).trowels = s.trowels := rfl
@[simp] theorem setRegBit_ustore (s : State) (a i : Nat) : (setRegBit s a i).ustore = s.ustore := rfl
@[simp] theorem setRegBit_reducers (s : State) (a i : Nat) : (setRegBit s a i).reducers = s.reducers := rfl
@[simp] theorem setRegBit_cmd (s : State) (a i : Nat) : (setRegBit s a i).cmd = s.cmd := rfl
@[simp] theorem setRegBit_pci (s : State) (a i : Nat) : (setRegBit s a i).pci = s.pci := rfl
@[simp] theorem setRegBit_dma (s : State) (a i : Nat) : (setRegBit s a i).dma = s.dma := rfl
@[simp] theorem setRegBit_flt (s : State) (a i : Nat) : (setRegBit s a i).flt = s.flt := rfl
@[simp] theorem setRegBit_itn (s : State) (a i : Nat) : (setRegBit s a i).itn = s.itn := rfl
@[simp] theorem setRegBit_fab (s : State) (a i : Nat) : (setRegBit s a i).fab = s.fab := rfl
@[simp] theorem setRegBit_sec (s : State) (a i : Nat) : (setRegBit s a i).sec = s.sec := rfl
@[simp] theorem setRegBit_pwr (s : State) (a i : Nat) : (setRegBit s a i).pwr = s.pwr := rfl
@[simp] theorem setRegBit_srv (s : State) (a i : Nat) : (setRegBit s a i).srv = s.srv := rfl
@[simp] theorem setRegBit_engines (s : State) (a i : Nat) : (setRegBit s a i).engines = s.engines := rfl

@[simp] theorem bump_pending (s : State) (a lo w n : Nat) : (bump s a lo w n).pending = s.pending := rfl
@[simp] theorem bump_variant (s : State) (a lo w n : Nat) : (bump s a lo w n).variant = s.variant := rfl
@[simp] theorem bump_bell (s : State) (a lo w n : Nat) : (bump s a lo w n).bell = s.bell := rfl
@[simp] theorem bump_outbox (s : State) (a lo w n : Nat) : (bump s a lo w n).outbox = s.outbox := rfl
@[simp] theorem bump_freeCtr (s : State) (a lo w n : Nat) : (bump s a lo w n).freeCtr = s.freeCtr := rfl
@[simp] theorem bump_dep (s : State) (a lo w n : Nat) : (bump s a lo w n).dep = s.dep := rfl
@[simp] theorem bump_mem (s : State) (a lo w n : Nat) : (bump s a lo w n).mem = s.mem := rfl
@[simp] theorem bump_scr (s : State) (a lo w n : Nat) : (bump s a lo w n).scr = s.scr := rfl
@[simp] theorem bump_arrays (s : State) (a lo w n : Nat) : (bump s a lo w n).arrays = s.arrays := rfl
@[simp] theorem bump_trowels (s : State) (a lo w n : Nat) : (bump s a lo w n).trowels = s.trowels := rfl
@[simp] theorem bump_ustore (s : State) (a lo w n : Nat) : (bump s a lo w n).ustore = s.ustore := rfl
@[simp] theorem bump_reducers (s : State) (a lo w n : Nat) : (bump s a lo w n).reducers = s.reducers := rfl
@[simp] theorem bump_cmd (s : State) (a lo w n : Nat) : (bump s a lo w n).cmd = s.cmd := rfl
@[simp] theorem bump_pci (s : State) (a lo w n : Nat) : (bump s a lo w n).pci = s.pci := rfl
@[simp] theorem bump_dma (s : State) (a lo w n : Nat) : (bump s a lo w n).dma = s.dma := rfl
@[simp] theorem bump_flt (s : State) (a lo w n : Nat) : (bump s a lo w n).flt = s.flt := rfl
@[simp] theorem bump_itn (s : State) (a lo w n : Nat) : (bump s a lo w n).itn = s.itn := rfl
@[simp] theorem bump_fab (s : State) (a lo w n : Nat) : (bump s a lo w n).fab = s.fab := rfl
@[simp] theorem bump_sec (s : State) (a lo w n : Nat) : (bump s a lo w n).sec = s.sec := rfl
@[simp] theorem bump_pwr (s : State) (a lo w n : Nat) : (bump s a lo w n).pwr = s.pwr := rfl
@[simp] theorem bump_srv (s : State) (a lo w n : Nat) : (bump s a lo w n).srv = s.srv := rfl
@[simp] theorem bump_engines (s : State) (a lo w n : Nat) : (bump s a lo w n).engines = s.engines := rfl

@[simp] theorem raiseTo_pending (s : State) (a lo w n : Nat) : (raiseTo s a lo w n).pending = s.pending := rfl
@[simp] theorem raiseTo_variant (s : State) (a lo w n : Nat) : (raiseTo s a lo w n).variant = s.variant := rfl
@[simp] theorem raiseTo_bell (s : State) (a lo w n : Nat) : (raiseTo s a lo w n).bell = s.bell := rfl
@[simp] theorem raiseTo_outbox (s : State) (a lo w n : Nat) : (raiseTo s a lo w n).outbox = s.outbox := rfl
@[simp] theorem raiseTo_freeCtr (s : State) (a lo w n : Nat) : (raiseTo s a lo w n).freeCtr = s.freeCtr := rfl
@[simp] theorem raiseTo_dep (s : State) (a lo w n : Nat) : (raiseTo s a lo w n).dep = s.dep := rfl
@[simp] theorem raiseTo_mem (s : State) (a lo w n : Nat) : (raiseTo s a lo w n).mem = s.mem := rfl
@[simp] theorem raiseTo_scr (s : State) (a lo w n : Nat) : (raiseTo s a lo w n).scr = s.scr := rfl
@[simp] theorem raiseTo_arrays (s : State) (a lo w n : Nat) : (raiseTo s a lo w n).arrays = s.arrays := rfl
@[simp] theorem raiseTo_trowels (s : State) (a lo w n : Nat) : (raiseTo s a lo w n).trowels = s.trowels := rfl
@[simp] theorem raiseTo_ustore (s : State) (a lo w n : Nat) : (raiseTo s a lo w n).ustore = s.ustore := rfl
@[simp] theorem raiseTo_reducers (s : State) (a lo w n : Nat) : (raiseTo s a lo w n).reducers = s.reducers := rfl
@[simp] theorem raiseTo_cmd (s : State) (a lo w n : Nat) : (raiseTo s a lo w n).cmd = s.cmd := rfl
@[simp] theorem raiseTo_pci (s : State) (a lo w n : Nat) : (raiseTo s a lo w n).pci = s.pci := rfl
@[simp] theorem raiseTo_dma (s : State) (a lo w n : Nat) : (raiseTo s a lo w n).dma = s.dma := rfl
@[simp] theorem raiseTo_flt (s : State) (a lo w n : Nat) : (raiseTo s a lo w n).flt = s.flt := rfl
@[simp] theorem raiseTo_itn (s : State) (a lo w n : Nat) : (raiseTo s a lo w n).itn = s.itn := rfl
@[simp] theorem raiseTo_fab (s : State) (a lo w n : Nat) : (raiseTo s a lo w n).fab = s.fab := rfl
@[simp] theorem raiseTo_sec (s : State) (a lo w n : Nat) : (raiseTo s a lo w n).sec = s.sec := rfl
@[simp] theorem raiseTo_pwr (s : State) (a lo w n : Nat) : (raiseTo s a lo w n).pwr = s.pwr := rfl
@[simp] theorem raiseTo_srv (s : State) (a lo w n : Nat) : (raiseTo s a lo w n).srv = s.srv := rfl
@[simp] theorem raiseTo_engines (s : State) (a lo w n : Nat) : (raiseTo s a lo w n).engines = s.engines := rfl

@[simp] theorem emit_pending (s : State) (o : Out) : (emit s o).pending = s.pending := rfl
@[simp] theorem emit_variant (s : State) (o : Out) : (emit s o).variant = s.variant := rfl
@[simp] theorem emit_regs (s : State) (o : Out) : (emit s o).regs = s.regs := rfl
@[simp] theorem emit_bell (s : State) (o : Out) : (emit s o).bell = s.bell := rfl
@[simp] theorem emit_freeCtr (s : State) (o : Out) : (emit s o).freeCtr = s.freeCtr := rfl
@[simp] theorem emit_dep (s : State) (o : Out) : (emit s o).dep = s.dep := rfl
@[simp] theorem emit_mem (s : State) (o : Out) : (emit s o).mem = s.mem := rfl
@[simp] theorem emit_scr (s : State) (o : Out) : (emit s o).scr = s.scr := rfl
@[simp] theorem emit_arrays (s : State) (o : Out) : (emit s o).arrays = s.arrays := rfl
@[simp] theorem emit_trowels (s : State) (o : Out) : (emit s o).trowels = s.trowels := rfl
@[simp] theorem emit_ustore (s : State) (o : Out) : (emit s o).ustore = s.ustore := rfl
@[simp] theorem emit_reducers (s : State) (o : Out) : (emit s o).reducers = s.reducers := rfl
@[simp] theorem emit_cmd (s : State) (o : Out) : (emit s o).cmd = s.cmd := rfl
@[simp] theorem emit_pci (s : State) (o : Out) : (emit s o).pci = s.pci := rfl
@[simp] theorem emit_dma (s : State) (o : Out) : (emit s o).dma = s.dma := rfl
@[simp] theorem emit_flt (s : State) (o : Out) : (emit s o).flt = s.flt := rfl
@[simp] theorem emit_itn (s : State) (o : Out) : (emit s o).itn = s.itn := rfl
@[simp] theorem emit_fab (s : State) (o : Out) : (emit s o).fab = s.fab := rfl
@[simp] theorem emit_sec (s : State) (o : Out) : (emit s o).sec = s.sec := rfl
@[simp] theorem emit_pwr (s : State) (o : Out) : (emit s o).pwr = s.pwr := rfl
@[simp] theorem emit_srv (s : State) (o : Out) : (emit s o).srv = s.srv := rfl
@[simp] theorem emit_engines (s : State) (o : Out) : (emit s o).engines = s.engines := rfl

@[simp] theorem modStack_pending (s : State) (k : Nat) (f : Stack → Stack) : (modStack s k f).pending = s.pending := rfl
@[simp] theorem modStack_variant (s : State) (k : Nat) (f : Stack → Stack) : (modStack s k f).variant = s.variant := rfl
@[simp] theorem modStack_regs (s : State) (k : Nat) (f : Stack → Stack) : (modStack s k f).regs = s.regs := rfl
@[simp] theorem modStack_bell (s : State) (k : Nat) (f : Stack → Stack) : (modStack s k f).bell = s.bell := rfl
@[simp] theorem modStack_outbox (s : State) (k : Nat) (f : Stack → Stack) : (modStack s k f).outbox = s.outbox := rfl
@[simp] theorem modStack_freeCtr (s : State) (k : Nat) (f : Stack → Stack) : (modStack s k f).freeCtr = s.freeCtr := rfl
@[simp] theorem modStack_dep (s : State) (k : Nat) (f : Stack → Stack) : (modStack s k f).dep = s.dep := rfl
@[simp] theorem modStack_scr (s : State) (k : Nat) (f : Stack → Stack) : (modStack s k f).scr = s.scr := rfl
@[simp] theorem modStack_arrays (s : State) (k : Nat) (f : Stack → Stack) : (modStack s k f).arrays = s.arrays := rfl
@[simp] theorem modStack_trowels (s : State) (k : Nat) (f : Stack → Stack) : (modStack s k f).trowels = s.trowels := rfl
@[simp] theorem modStack_ustore (s : State) (k : Nat) (f : Stack → Stack) : (modStack s k f).ustore = s.ustore := rfl
@[simp] theorem modStack_reducers (s : State) (k : Nat) (f : Stack → Stack) : (modStack s k f).reducers = s.reducers := rfl
@[simp] theorem modStack_cmd (s : State) (k : Nat) (f : Stack → Stack) : (modStack s k f).cmd = s.cmd := rfl
@[simp] theorem modStack_pci (s : State) (k : Nat) (f : Stack → Stack) : (modStack s k f).pci = s.pci := rfl
@[simp] theorem modStack_dma (s : State) (k : Nat) (f : Stack → Stack) : (modStack s k f).dma = s.dma := rfl
@[simp] theorem modStack_flt (s : State) (k : Nat) (f : Stack → Stack) : (modStack s k f).flt = s.flt := rfl
@[simp] theorem modStack_itn (s : State) (k : Nat) (f : Stack → Stack) : (modStack s k f).itn = s.itn := rfl
@[simp] theorem modStack_fab (s : State) (k : Nat) (f : Stack → Stack) : (modStack s k f).fab = s.fab := rfl
@[simp] theorem modStack_sec (s : State) (k : Nat) (f : Stack → Stack) : (modStack s k f).sec = s.sec := rfl
@[simp] theorem modStack_pwr (s : State) (k : Nat) (f : Stack → Stack) : (modStack s k f).pwr = s.pwr := rfl
@[simp] theorem modStack_srv (s : State) (k : Nat) (f : Stack → Stack) : (modStack s k f).srv = s.srv := rfl
@[simp] theorem modStack_engines (s : State) (k : Nat) (f : Stack → Stack) : (modStack s k f).engines = s.engines := rfl

@[simp] theorem setQueue_pending (s : State) (q : Nat) (d : DQueue) : (setQueue s q d).pending = s.pending := rfl
@[simp] theorem setQueue_variant (s : State) (q : Nat) (d : DQueue) : (setQueue s q d).variant = s.variant := rfl
@[simp] theorem setQueue_regs (s : State) (q : Nat) (d : DQueue) : (setQueue s q d).regs = s.regs := rfl
@[simp] theorem setQueue_bell (s : State) (q : Nat) (d : DQueue) : (setQueue s q d).bell = s.bell := rfl
@[simp] theorem setQueue_outbox (s : State) (q : Nat) (d : DQueue) : (setQueue s q d).outbox = s.outbox := rfl
@[simp] theorem setQueue_freeCtr (s : State) (q : Nat) (d : DQueue) : (setQueue s q d).freeCtr = s.freeCtr := rfl
@[simp] theorem setQueue_mem (s : State) (q : Nat) (d : DQueue) : (setQueue s q d).mem = s.mem := rfl
@[simp] theorem setQueue_scr (s : State) (q : Nat) (d : DQueue) : (setQueue s q d).scr = s.scr := rfl
@[simp] theorem setQueue_arrays (s : State) (q : Nat) (d : DQueue) : (setQueue s q d).arrays = s.arrays := rfl
@[simp] theorem setQueue_trowels (s : State) (q : Nat) (d : DQueue) : (setQueue s q d).trowels = s.trowels := rfl
@[simp] theorem setQueue_ustore (s : State) (q : Nat) (d : DQueue) : (setQueue s q d).ustore = s.ustore := rfl
@[simp] theorem setQueue_reducers (s : State) (q : Nat) (d : DQueue) : (setQueue s q d).reducers = s.reducers := rfl
@[simp] theorem setQueue_cmd (s : State) (q : Nat) (d : DQueue) : (setQueue s q d).cmd = s.cmd := rfl
@[simp] theorem setQueue_pci (s : State) (q : Nat) (d : DQueue) : (setQueue s q d).pci = s.pci := rfl
@[simp] theorem setQueue_dma (s : State) (q : Nat) (d : DQueue) : (setQueue s q d).dma = s.dma := rfl
@[simp] theorem setQueue_flt (s : State) (q : Nat) (d : DQueue) : (setQueue s q d).flt = s.flt := rfl
@[simp] theorem setQueue_itn (s : State) (q : Nat) (d : DQueue) : (setQueue s q d).itn = s.itn := rfl
@[simp] theorem setQueue_fab (s : State) (q : Nat) (d : DQueue) : (setQueue s q d).fab = s.fab := rfl
@[simp] theorem setQueue_sec (s : State) (q : Nat) (d : DQueue) : (setQueue s q d).sec = s.sec := rfl
@[simp] theorem setQueue_pwr (s : State) (q : Nat) (d : DQueue) : (setQueue s q d).pwr = s.pwr := rfl
@[simp] theorem setQueue_srv (s : State) (q : Nat) (d : DQueue) : (setQueue s q d).srv = s.srv := rfl
@[simp] theorem setQueue_engines (s : State) (q : Nat) (d : DQueue) : (setQueue s q d).engines = s.engines := rfl

@[simp] theorem setSq_pending (s : State) (n : Nat) (q : SQueue) : (setSq s n q).pending = s.pending := rfl
@[simp] theorem setSq_variant (s : State) (n : Nat) (q : SQueue) : (setSq s n q).variant = s.variant := rfl
@[simp] theorem setSq_regs (s : State) (n : Nat) (q : SQueue) : (setSq s n q).regs = s.regs := rfl
@[simp] theorem setSq_bell (s : State) (n : Nat) (q : SQueue) : (setSq s n q).bell = s.bell := rfl
@[simp] theorem setSq_outbox (s : State) (n : Nat) (q : SQueue) : (setSq s n q).outbox = s.outbox := rfl
@[simp] theorem setSq_freeCtr (s : State) (n : Nat) (q : SQueue) : (setSq s n q).freeCtr = s.freeCtr := rfl
@[simp] theorem setSq_dep (s : State) (n : Nat) (q : SQueue) : (setSq s n q).dep = s.dep := rfl
@[simp] theorem setSq_mem (s : State) (n : Nat) (q : SQueue) : (setSq s n q).mem = s.mem := rfl
@[simp] theorem setSq_scr (s : State) (n : Nat) (q : SQueue) : (setSq s n q).scr = s.scr := rfl
@[simp] theorem setSq_arrays (s : State) (n : Nat) (q : SQueue) : (setSq s n q).arrays = s.arrays := rfl
@[simp] theorem setSq_trowels (s : State) (n : Nat) (q : SQueue) : (setSq s n q).trowels = s.trowels := rfl
@[simp] theorem setSq_ustore (s : State) (n : Nat) (q : SQueue) : (setSq s n q).ustore = s.ustore := rfl
@[simp] theorem setSq_reducers (s : State) (n : Nat) (q : SQueue) : (setSq s n q).reducers = s.reducers := rfl
@[simp] theorem setSq_pci (s : State) (n : Nat) (q : SQueue) : (setSq s n q).pci = s.pci := rfl
@[simp] theorem setSq_dma (s : State) (n : Nat) (q : SQueue) : (setSq s n q).dma = s.dma := rfl
@[simp] theorem setSq_flt (s : State) (n : Nat) (q : SQueue) : (setSq s n q).flt = s.flt := rfl
@[simp] theorem setSq_itn (s : State) (n : Nat) (q : SQueue) : (setSq s n q).itn = s.itn := rfl
@[simp] theorem setSq_fab (s : State) (n : Nat) (q : SQueue) : (setSq s n q).fab = s.fab := rfl
@[simp] theorem setSq_sec (s : State) (n : Nat) (q : SQueue) : (setSq s n q).sec = s.sec := rfl
@[simp] theorem setSq_pwr (s : State) (n : Nat) (q : SQueue) : (setSq s n q).pwr = s.pwr := rfl
@[simp] theorem setSq_srv (s : State) (n : Nat) (q : SQueue) : (setSq s n q).srv = s.srv := rfl
@[simp] theorem setSq_engines (s : State) (n : Nat) (q : SQueue) : (setSq s n q).engines = s.engines := rfl

@[simp] theorem setCq_pending (s : State) (n : Nat) (q : CQueue) : (setCq s n q).pending = s.pending := rfl
@[simp] theorem setCq_variant (s : State) (n : Nat) (q : CQueue) : (setCq s n q).variant = s.variant := rfl
@[simp] theorem setCq_regs (s : State) (n : Nat) (q : CQueue) : (setCq s n q).regs = s.regs := rfl
@[simp] theorem setCq_bell (s : State) (n : Nat) (q : CQueue) : (setCq s n q).bell = s.bell := rfl
@[simp] theorem setCq_outbox (s : State) (n : Nat) (q : CQueue) : (setCq s n q).outbox = s.outbox := rfl
@[simp] theorem setCq_freeCtr (s : State) (n : Nat) (q : CQueue) : (setCq s n q).freeCtr = s.freeCtr := rfl
@[simp] theorem setCq_dep (s : State) (n : Nat) (q : CQueue) : (setCq s n q).dep = s.dep := rfl
@[simp] theorem setCq_mem (s : State) (n : Nat) (q : CQueue) : (setCq s n q).mem = s.mem := rfl
@[simp] theorem setCq_scr (s : State) (n : Nat) (q : CQueue) : (setCq s n q).scr = s.scr := rfl
@[simp] theorem setCq_arrays (s : State) (n : Nat) (q : CQueue) : (setCq s n q).arrays = s.arrays := rfl
@[simp] theorem setCq_trowels (s : State) (n : Nat) (q : CQueue) : (setCq s n q).trowels = s.trowels := rfl
@[simp] theorem setCq_ustore (s : State) (n : Nat) (q : CQueue) : (setCq s n q).ustore = s.ustore := rfl
@[simp] theorem setCq_reducers (s : State) (n : Nat) (q : CQueue) : (setCq s n q).reducers = s.reducers := rfl
@[simp] theorem setCq_pci (s : State) (n : Nat) (q : CQueue) : (setCq s n q).pci = s.pci := rfl
@[simp] theorem setCq_dma (s : State) (n : Nat) (q : CQueue) : (setCq s n q).dma = s.dma := rfl
@[simp] theorem setCq_flt (s : State) (n : Nat) (q : CQueue) : (setCq s n q).flt = s.flt := rfl
@[simp] theorem setCq_itn (s : State) (n : Nat) (q : CQueue) : (setCq s n q).itn = s.itn := rfl
@[simp] theorem setCq_fab (s : State) (n : Nat) (q : CQueue) : (setCq s n q).fab = s.fab := rfl
@[simp] theorem setCq_sec (s : State) (n : Nat) (q : CQueue) : (setCq s n q).sec = s.sec := rfl
@[simp] theorem setCq_pwr (s : State) (n : Nat) (q : CQueue) : (setCq s n q).pwr = s.pwr := rfl
@[simp] theorem setCq_srv (s : State) (n : Nat) (q : CQueue) : (setCq s n q).srv = s.srv := rfl
@[simp] theorem setCq_engines (s : State) (n : Nat) (q : CQueue) : (setCq s n q).engines = s.engines := rfl

@[simp] theorem begun_pending (s : State) (c : InProg) : (begun s c).pending = s.pending := rfl
@[simp] theorem begun_variant (s : State) (c : InProg) : (begun s c).variant = s.variant := rfl
@[simp] theorem begun_regs (s : State) (c : InProg) : (begun s c).regs = s.regs := rfl
@[simp] theorem begun_bell (s : State) (c : InProg) : (begun s c).bell = s.bell := rfl
@[simp] theorem begun_outbox (s : State) (c : InProg) : (begun s c).outbox = s.outbox := rfl
@[simp] theorem begun_freeCtr (s : State) (c : InProg) : (begun s c).freeCtr = s.freeCtr := rfl
@[simp] theorem begun_dep (s : State) (c : InProg) : (begun s c).dep = s.dep := rfl
@[simp] theorem begun_mem (s : State) (c : InProg) : (begun s c).mem = s.mem := rfl
@[simp] theorem begun_scr (s : State) (c : InProg) : (begun s c).scr = s.scr := rfl
@[simp] theorem begun_arrays (s : State) (c : InProg) : (begun s c).arrays = s.arrays := rfl
@[simp] theorem begun_trowels (s : State) (c : InProg) : (begun s c).trowels = s.trowels := rfl
@[simp] theorem begun_ustore (s : State) (c : InProg) : (begun s c).ustore = s.ustore := rfl
@[simp] theorem begun_reducers (s : State) (c : InProg) : (begun s c).reducers = s.reducers := rfl
@[simp] theorem begun_pci (s : State) (c : InProg) : (begun s c).pci = s.pci := rfl
@[simp] theorem begun_dma (s : State) (c : InProg) : (begun s c).dma = s.dma := rfl
@[simp] theorem begun_flt (s : State) (c : InProg) : (begun s c).flt = s.flt := rfl
@[simp] theorem begun_itn (s : State) (c : InProg) : (begun s c).itn = s.itn := rfl
@[simp] theorem begun_fab (s : State) (c : InProg) : (begun s c).fab = s.fab := rfl
@[simp] theorem begun_sec (s : State) (c : InProg) : (begun s c).sec = s.sec := rfl
@[simp] theorem begun_pwr (s : State) (c : InProg) : (begun s c).pwr = s.pwr := rfl
@[simp] theorem begun_srv (s : State) (c : InProg) : (begun s c).srv = s.srv := rfl
@[simp] theorem begun_engines (s : State) (c : InProg) : (begun s c).engines = s.engines := rfl

@[simp] theorem dropDeferred_pending (s : State) (d : Deferred) : (dropDeferred s d).pending = s.pending := rfl
@[simp] theorem dropDeferred_variant (s : State) (d : Deferred) : (dropDeferred s d).variant = s.variant := rfl
@[simp] theorem dropDeferred_regs (s : State) (d : Deferred) : (dropDeferred s d).regs = s.regs := rfl
@[simp] theorem dropDeferred_bell (s : State) (d : Deferred) : (dropDeferred s d).bell = s.bell := rfl
@[simp] theorem dropDeferred_outbox (s : State) (d : Deferred) : (dropDeferred s d).outbox = s.outbox := rfl
@[simp] theorem dropDeferred_freeCtr (s : State) (d : Deferred) : (dropDeferred s d).freeCtr = s.freeCtr := rfl
@[simp] theorem dropDeferred_dep (s : State) (d : Deferred) : (dropDeferred s d).dep = s.dep := rfl
@[simp] theorem dropDeferred_mem (s : State) (d : Deferred) : (dropDeferred s d).mem = s.mem := rfl
@[simp] theorem dropDeferred_scr (s : State) (d : Deferred) : (dropDeferred s d).scr = s.scr := rfl
@[simp] theorem dropDeferred_arrays (s : State) (d : Deferred) : (dropDeferred s d).arrays = s.arrays := rfl
@[simp] theorem dropDeferred_trowels (s : State) (d : Deferred) : (dropDeferred s d).trowels = s.trowels := rfl
@[simp] theorem dropDeferred_ustore (s : State) (d : Deferred) : (dropDeferred s d).ustore = s.ustore := rfl
@[simp] theorem dropDeferred_reducers (s : State) (d : Deferred) : (dropDeferred s d).reducers = s.reducers := rfl
@[simp] theorem dropDeferred_pci (s : State) (d : Deferred) : (dropDeferred s d).pci = s.pci := rfl
@[simp] theorem dropDeferred_dma (s : State) (d : Deferred) : (dropDeferred s d).dma = s.dma := rfl
@[simp] theorem dropDeferred_flt (s : State) (d : Deferred) : (dropDeferred s d).flt = s.flt := rfl
@[simp] theorem dropDeferred_itn (s : State) (d : Deferred) : (dropDeferred s d).itn = s.itn := rfl
@[simp] theorem dropDeferred_fab (s : State) (d : Deferred) : (dropDeferred s d).fab = s.fab := rfl
@[simp] theorem dropDeferred_sec (s : State) (d : Deferred) : (dropDeferred s d).sec = s.sec := rfl
@[simp] theorem dropDeferred_pwr (s : State) (d : Deferred) : (dropDeferred s d).pwr = s.pwr := rfl
@[simp] theorem dropDeferred_srv (s : State) (d : Deferred) : (dropDeferred s d).srv = s.srv := rfl
@[simp] theorem dropDeferred_engines (s : State) (d : Deferred) : (dropDeferred s d).engines = s.engines := rfl

@[simp] theorem waitHost_pending (s : State) (fn : Nat) (i : Instr) : (waitHost s fn i).pending = s.pending := rfl
@[simp] theorem waitHost_variant (s : State) (fn : Nat) (i : Instr) : (waitHost s fn i).variant = s.variant := rfl
@[simp] theorem waitHost_regs (s : State) (fn : Nat) (i : Instr) : (waitHost s fn i).regs = s.regs := rfl
@[simp] theorem waitHost_bell (s : State) (fn : Nat) (i : Instr) : (waitHost s fn i).bell = s.bell := rfl
@[simp] theorem waitHost_outbox (s : State) (fn : Nat) (i : Instr) : (waitHost s fn i).outbox = s.outbox := rfl
@[simp] theorem waitHost_freeCtr (s : State) (fn : Nat) (i : Instr) : (waitHost s fn i).freeCtr = s.freeCtr := rfl
@[simp] theorem waitHost_dep (s : State) (fn : Nat) (i : Instr) : (waitHost s fn i).dep = s.dep := rfl
@[simp] theorem waitHost_mem (s : State) (fn : Nat) (i : Instr) : (waitHost s fn i).mem = s.mem := rfl
@[simp] theorem waitHost_scr (s : State) (fn : Nat) (i : Instr) : (waitHost s fn i).scr = s.scr := rfl
@[simp] theorem waitHost_arrays (s : State) (fn : Nat) (i : Instr) : (waitHost s fn i).arrays = s.arrays := rfl
@[simp] theorem waitHost_trowels (s : State) (fn : Nat) (i : Instr) : (waitHost s fn i).trowels = s.trowels := rfl
@[simp] theorem waitHost_ustore (s : State) (fn : Nat) (i : Instr) : (waitHost s fn i).ustore = s.ustore := rfl
@[simp] theorem waitHost_reducers (s : State) (fn : Nat) (i : Instr) : (waitHost s fn i).reducers = s.reducers := rfl
@[simp] theorem waitHost_cmd (s : State) (fn : Nat) (i : Instr) : (waitHost s fn i).cmd = s.cmd := rfl
@[simp] theorem waitHost_dma (s : State) (fn : Nat) (i : Instr) : (waitHost s fn i).dma = s.dma := rfl
@[simp] theorem waitHost_flt (s : State) (fn : Nat) (i : Instr) : (waitHost s fn i).flt = s.flt := rfl
@[simp] theorem waitHost_itn (s : State) (fn : Nat) (i : Instr) : (waitHost s fn i).itn = s.itn := rfl
@[simp] theorem waitHost_fab (s : State) (fn : Nat) (i : Instr) : (waitHost s fn i).fab = s.fab := rfl
@[simp] theorem waitHost_sec (s : State) (fn : Nat) (i : Instr) : (waitHost s fn i).sec = s.sec := rfl
@[simp] theorem waitHost_pwr (s : State) (fn : Nat) (i : Instr) : (waitHost s fn i).pwr = s.pwr := rfl
@[simp] theorem waitHost_srv (s : State) (fn : Nat) (i : Instr) : (waitHost s fn i).srv = s.srv := rfl
@[simp] theorem waitHost_engines (s : State) (fn : Nat) (i : Instr) : (waitHost s fn i).engines = s.engines := rfl

@[simp] theorem setArr_pending (s : State) (a : Nat) (x : Arr) : (setArr s a x).pending = s.pending := rfl
@[simp] theorem setArr_variant (s : State) (a : Nat) (x : Arr) : (setArr s a x).variant = s.variant := rfl
@[simp] theorem setArr_regs (s : State) (a : Nat) (x : Arr) : (setArr s a x).regs = s.regs := rfl
@[simp] theorem setArr_bell (s : State) (a : Nat) (x : Arr) : (setArr s a x).bell = s.bell := rfl
@[simp] theorem setArr_outbox (s : State) (a : Nat) (x : Arr) : (setArr s a x).outbox = s.outbox := rfl
@[simp] theorem setArr_freeCtr (s : State) (a : Nat) (x : Arr) : (setArr s a x).freeCtr = s.freeCtr := rfl
@[simp] theorem setArr_dep (s : State) (a : Nat) (x : Arr) : (setArr s a x).dep = s.dep := rfl
@[simp] theorem setArr_mem (s : State) (a : Nat) (x : Arr) : (setArr s a x).mem = s.mem := rfl
@[simp] theorem setArr_scr (s : State) (a : Nat) (x : Arr) : (setArr s a x).scr = s.scr := rfl
@[simp] theorem setArr_trowels (s : State) (a : Nat) (x : Arr) : (setArr s a x).trowels = s.trowels := rfl
@[simp] theorem setArr_ustore (s : State) (a : Nat) (x : Arr) : (setArr s a x).ustore = s.ustore := rfl
@[simp] theorem setArr_reducers (s : State) (a : Nat) (x : Arr) : (setArr s a x).reducers = s.reducers := rfl
@[simp] theorem setArr_cmd (s : State) (a : Nat) (x : Arr) : (setArr s a x).cmd = s.cmd := rfl
@[simp] theorem setArr_pci (s : State) (a : Nat) (x : Arr) : (setArr s a x).pci = s.pci := rfl
@[simp] theorem setArr_dma (s : State) (a : Nat) (x : Arr) : (setArr s a x).dma = s.dma := rfl
@[simp] theorem setArr_flt (s : State) (a : Nat) (x : Arr) : (setArr s a x).flt = s.flt := rfl
@[simp] theorem setArr_itn (s : State) (a : Nat) (x : Arr) : (setArr s a x).itn = s.itn := rfl
@[simp] theorem setArr_fab (s : State) (a : Nat) (x : Arr) : (setArr s a x).fab = s.fab := rfl
@[simp] theorem setArr_sec (s : State) (a : Nat) (x : Arr) : (setArr s a x).sec = s.sec := rfl
@[simp] theorem setArr_pwr (s : State) (a : Nat) (x : Arr) : (setArr s a x).pwr = s.pwr := rfl
@[simp] theorem setArr_srv (s : State) (a : Nat) (x : Arr) : (setArr s a x).srv = s.srv := rfl
@[simp] theorem setArr_engines (s : State) (a : Nat) (x : Arr) : (setArr s a x).engines = s.engines := rfl

@[simp] theorem modArr_pending (s : State) (a : Nat) (f : Arr → Arr) : (modArr s a f).pending = s.pending := rfl
@[simp] theorem modArr_variant (s : State) (a : Nat) (f : Arr → Arr) : (modArr s a f).variant = s.variant := rfl
@[simp] theorem modArr_regs (s : State) (a : Nat) (f : Arr → Arr) : (modArr s a f).regs = s.regs := rfl
@[simp] theorem modArr_bell (s : State) (a : Nat) (f : Arr → Arr) : (modArr s a f).bell = s.bell := rfl
@[simp] theorem modArr_outbox (s : State) (a : Nat) (f : Arr → Arr) : (modArr s a f).outbox = s.outbox := rfl
@[simp] theorem modArr_freeCtr (s : State) (a : Nat) (f : Arr → Arr) : (modArr s a f).freeCtr = s.freeCtr := rfl
@[simp] theorem modArr_dep (s : State) (a : Nat) (f : Arr → Arr) : (modArr s a f).dep = s.dep := rfl
@[simp] theorem modArr_mem (s : State) (a : Nat) (f : Arr → Arr) : (modArr s a f).mem = s.mem := rfl
@[simp] theorem modArr_scr (s : State) (a : Nat) (f : Arr → Arr) : (modArr s a f).scr = s.scr := rfl
@[simp] theorem modArr_trowels (s : State) (a : Nat) (f : Arr → Arr) : (modArr s a f).trowels = s.trowels := rfl
@[simp] theorem modArr_ustore (s : State) (a : Nat) (f : Arr → Arr) : (modArr s a f).ustore = s.ustore := rfl
@[simp] theorem modArr_reducers (s : State) (a : Nat) (f : Arr → Arr) : (modArr s a f).reducers = s.reducers := rfl
@[simp] theorem modArr_cmd (s : State) (a : Nat) (f : Arr → Arr) : (modArr s a f).cmd = s.cmd := rfl
@[simp] theorem modArr_pci (s : State) (a : Nat) (f : Arr → Arr) : (modArr s a f).pci = s.pci := rfl
@[simp] theorem modArr_dma (s : State) (a : Nat) (f : Arr → Arr) : (modArr s a f).dma = s.dma := rfl
@[simp] theorem modArr_flt (s : State) (a : Nat) (f : Arr → Arr) : (modArr s a f).flt = s.flt := rfl
@[simp] theorem modArr_itn (s : State) (a : Nat) (f : Arr → Arr) : (modArr s a f).itn = s.itn := rfl
@[simp] theorem modArr_fab (s : State) (a : Nat) (f : Arr → Arr) : (modArr s a f).fab = s.fab := rfl
@[simp] theorem modArr_sec (s : State) (a : Nat) (f : Arr → Arr) : (modArr s a f).sec = s.sec := rfl
@[simp] theorem modArr_pwr (s : State) (a : Nat) (f : Arr → Arr) : (modArr s a f).pwr = s.pwr := rfl
@[simp] theorem modArr_srv (s : State) (a : Nat) (f : Arr → Arr) : (modArr s a f).srv = s.srv := rfl
@[simp] theorem modArr_engines (s : State) (a : Nat) (f : Arr → Arr) : (modArr s a f).engines = s.engines := rfl

@[simp] theorem modCtx_pending (s : State) (arr cell c : Nat) (f : Ctx → Ctx) : (modCtx s arr cell c f).pending = s.pending := rfl
@[simp] theorem modCtx_variant (s : State) (arr cell c : Nat) (f : Ctx → Ctx) : (modCtx s arr cell c f).variant = s.variant := rfl
@[simp] theorem modCtx_regs (s : State) (arr cell c : Nat) (f : Ctx → Ctx) : (modCtx s arr cell c f).regs = s.regs := rfl
@[simp] theorem modCtx_bell (s : State) (arr cell c : Nat) (f : Ctx → Ctx) : (modCtx s arr cell c f).bell = s.bell := rfl
@[simp] theorem modCtx_outbox (s : State) (arr cell c : Nat) (f : Ctx → Ctx) : (modCtx s arr cell c f).outbox = s.outbox := rfl
@[simp] theorem modCtx_freeCtr (s : State) (arr cell c : Nat) (f : Ctx → Ctx) : (modCtx s arr cell c f).freeCtr = s.freeCtr := rfl
@[simp] theorem modCtx_dep (s : State) (arr cell c : Nat) (f : Ctx → Ctx) : (modCtx s arr cell c f).dep = s.dep := rfl
@[simp] theorem modCtx_mem (s : State) (arr cell c : Nat) (f : Ctx → Ctx) : (modCtx s arr cell c f).mem = s.mem := rfl
@[simp] theorem modCtx_scr (s : State) (arr cell c : Nat) (f : Ctx → Ctx) : (modCtx s arr cell c f).scr = s.scr := rfl
@[simp] theorem modCtx_trowels (s : State) (arr cell c : Nat) (f : Ctx → Ctx) : (modCtx s arr cell c f).trowels = s.trowels := rfl
@[simp] theorem modCtx_ustore (s : State) (arr cell c : Nat) (f : Ctx → Ctx) : (modCtx s arr cell c f).ustore = s.ustore := rfl
@[simp] theorem modCtx_reducers (s : State) (arr cell c : Nat) (f : Ctx → Ctx) : (modCtx s arr cell c f).reducers = s.reducers := rfl
@[simp] theorem modCtx_cmd (s : State) (arr cell c : Nat) (f : Ctx → Ctx) : (modCtx s arr cell c f).cmd = s.cmd := rfl
@[simp] theorem modCtx_pci (s : State) (arr cell c : Nat) (f : Ctx → Ctx) : (modCtx s arr cell c f).pci = s.pci := rfl
@[simp] theorem modCtx_dma (s : State) (arr cell c : Nat) (f : Ctx → Ctx) : (modCtx s arr cell c f).dma = s.dma := rfl
@[simp] theorem modCtx_flt (s : State) (arr cell c : Nat) (f : Ctx → Ctx) : (modCtx s arr cell c f).flt = s.flt := rfl
@[simp] theorem modCtx_itn (s : State) (arr cell c : Nat) (f : Ctx → Ctx) : (modCtx s arr cell c f).itn = s.itn := rfl
@[simp] theorem modCtx_fab (s : State) (arr cell c : Nat) (f : Ctx → Ctx) : (modCtx s arr cell c f).fab = s.fab := rfl
@[simp] theorem modCtx_sec (s : State) (arr cell c : Nat) (f : Ctx → Ctx) : (modCtx s arr cell c f).sec = s.sec := rfl
@[simp] theorem modCtx_pwr (s : State) (arr cell c : Nat) (f : Ctx → Ctx) : (modCtx s arr cell c f).pwr = s.pwr := rfl
@[simp] theorem modCtx_srv (s : State) (arr cell c : Nat) (f : Ctx → Ctx) : (modCtx s arr cell c f).srv = s.srv := rfl
@[simp] theorem modCtx_engines (s : State) (arr cell c : Nat) (f : Ctx → Ctx) : (modCtx s arr cell c f).engines = s.engines := rfl

@[simp] theorem setFeed_pending (s : State) (c : Nat) (q : List (List Byte)) : (setFeed s c q).pending = s.pending := rfl
@[simp] theorem setFeed_variant (s : State) (c : Nat) (q : List (List Byte)) : (setFeed s c q).variant = s.variant := rfl
@[simp] theorem setFeed_regs (s : State) (c : Nat) (q : List (List Byte)) : (setFeed s c q).regs = s.regs := rfl
@[simp] theorem setFeed_bell (s : State) (c : Nat) (q : List (List Byte)) : (setFeed s c q).bell = s.bell := rfl
@[simp] theorem setFeed_outbox (s : State) (c : Nat) (q : List (List Byte)) : (setFeed s c q).outbox = s.outbox := rfl
@[simp] theorem setFeed_freeCtr (s : State) (c : Nat) (q : List (List Byte)) : (setFeed s c q).freeCtr = s.freeCtr := rfl
@[simp] theorem setFeed_dep (s : State) (c : Nat) (q : List (List Byte)) : (setFeed s c q).dep = s.dep := rfl
@[simp] theorem setFeed_mem (s : State) (c : Nat) (q : List (List Byte)) : (setFeed s c q).mem = s.mem := rfl
@[simp] theorem setFeed_scr (s : State) (c : Nat) (q : List (List Byte)) : (setFeed s c q).scr = s.scr := rfl
@[simp] theorem setFeed_arrays (s : State) (c : Nat) (q : List (List Byte)) : (setFeed s c q).arrays = s.arrays := rfl
@[simp] theorem setFeed_trowels (s : State) (c : Nat) (q : List (List Byte)) : (setFeed s c q).trowels = s.trowels := rfl
@[simp] theorem setFeed_ustore (s : State) (c : Nat) (q : List (List Byte)) : (setFeed s c q).ustore = s.ustore := rfl
@[simp] theorem setFeed_reducers (s : State) (c : Nat) (q : List (List Byte)) : (setFeed s c q).reducers = s.reducers := rfl
@[simp] theorem setFeed_cmd (s : State) (c : Nat) (q : List (List Byte)) : (setFeed s c q).cmd = s.cmd := rfl
@[simp] theorem setFeed_pci (s : State) (c : Nat) (q : List (List Byte)) : (setFeed s c q).pci = s.pci := rfl
@[simp] theorem setFeed_flt (s : State) (c : Nat) (q : List (List Byte)) : (setFeed s c q).flt = s.flt := rfl
@[simp] theorem setFeed_itn (s : State) (c : Nat) (q : List (List Byte)) : (setFeed s c q).itn = s.itn := rfl
@[simp] theorem setFeed_fab (s : State) (c : Nat) (q : List (List Byte)) : (setFeed s c q).fab = s.fab := rfl
@[simp] theorem setFeed_sec (s : State) (c : Nat) (q : List (List Byte)) : (setFeed s c q).sec = s.sec := rfl
@[simp] theorem setFeed_pwr (s : State) (c : Nat) (q : List (List Byte)) : (setFeed s c q).pwr = s.pwr := rfl
@[simp] theorem setFeed_srv (s : State) (c : Nat) (q : List (List Byte)) : (setFeed s c q).srv = s.srv := rfl
@[simp] theorem setFeed_engines (s : State) (c : Nat) (q : List (List Byte)) : (setFeed s c q).engines = s.engines := rfl

@[simp] theorem setRun_pending (s : State) (q : Nat) (r : DmaRun) : (setRun s q r).pending = s.pending := rfl
@[simp] theorem setRun_variant (s : State) (q : Nat) (r : DmaRun) : (setRun s q r).variant = s.variant := rfl
@[simp] theorem setRun_regs (s : State) (q : Nat) (r : DmaRun) : (setRun s q r).regs = s.regs := rfl
@[simp] theorem setRun_bell (s : State) (q : Nat) (r : DmaRun) : (setRun s q r).bell = s.bell := rfl
@[simp] theorem setRun_outbox (s : State) (q : Nat) (r : DmaRun) : (setRun s q r).outbox = s.outbox := rfl
@[simp] theorem setRun_freeCtr (s : State) (q : Nat) (r : DmaRun) : (setRun s q r).freeCtr = s.freeCtr := rfl
@[simp] theorem setRun_dep (s : State) (q : Nat) (r : DmaRun) : (setRun s q r).dep = s.dep := rfl
@[simp] theorem setRun_mem (s : State) (q : Nat) (r : DmaRun) : (setRun s q r).mem = s.mem := rfl
@[simp] theorem setRun_scr (s : State) (q : Nat) (r : DmaRun) : (setRun s q r).scr = s.scr := rfl
@[simp] theorem setRun_arrays (s : State) (q : Nat) (r : DmaRun) : (setRun s q r).arrays = s.arrays := rfl
@[simp] theorem setRun_trowels (s : State) (q : Nat) (r : DmaRun) : (setRun s q r).trowels = s.trowels := rfl
@[simp] theorem setRun_ustore (s : State) (q : Nat) (r : DmaRun) : (setRun s q r).ustore = s.ustore := rfl
@[simp] theorem setRun_reducers (s : State) (q : Nat) (r : DmaRun) : (setRun s q r).reducers = s.reducers := rfl
@[simp] theorem setRun_cmd (s : State) (q : Nat) (r : DmaRun) : (setRun s q r).cmd = s.cmd := rfl
@[simp] theorem setRun_pci (s : State) (q : Nat) (r : DmaRun) : (setRun s q r).pci = s.pci := rfl
@[simp] theorem setRun_flt (s : State) (q : Nat) (r : DmaRun) : (setRun s q r).flt = s.flt := rfl
@[simp] theorem setRun_itn (s : State) (q : Nat) (r : DmaRun) : (setRun s q r).itn = s.itn := rfl
@[simp] theorem setRun_fab (s : State) (q : Nat) (r : DmaRun) : (setRun s q r).fab = s.fab := rfl
@[simp] theorem setRun_sec (s : State) (q : Nat) (r : DmaRun) : (setRun s q r).sec = s.sec := rfl
@[simp] theorem setRun_pwr (s : State) (q : Nat) (r : DmaRun) : (setRun s q r).pwr = s.pwr := rfl
@[simp] theorem setRun_srv (s : State) (q : Nat) (r : DmaRun) : (setRun s q r).srv = s.srv := rfl
@[simp] theorem setRun_engines (s : State) (q : Nat) (r : DmaRun) : (setRun s q r).engines = s.engines := rfl

@[simp] theorem setAge_pending (s : State) (k : Nat) (x : AgeInst) : (setAge s k x).pending = s.pending := rfl
@[simp] theorem setAge_variant (s : State) (k : Nat) (x : AgeInst) : (setAge s k x).variant = s.variant := rfl
@[simp] theorem setAge_regs (s : State) (k : Nat) (x : AgeInst) : (setAge s k x).regs = s.regs := rfl
@[simp] theorem setAge_bell (s : State) (k : Nat) (x : AgeInst) : (setAge s k x).bell = s.bell := rfl
@[simp] theorem setAge_outbox (s : State) (k : Nat) (x : AgeInst) : (setAge s k x).outbox = s.outbox := rfl
@[simp] theorem setAge_freeCtr (s : State) (k : Nat) (x : AgeInst) : (setAge s k x).freeCtr = s.freeCtr := rfl
@[simp] theorem setAge_mem (s : State) (k : Nat) (x : AgeInst) : (setAge s k x).mem = s.mem := rfl
@[simp] theorem setAge_scr (s : State) (k : Nat) (x : AgeInst) : (setAge s k x).scr = s.scr := rfl
@[simp] theorem setAge_arrays (s : State) (k : Nat) (x : AgeInst) : (setAge s k x).arrays = s.arrays := rfl
@[simp] theorem setAge_trowels (s : State) (k : Nat) (x : AgeInst) : (setAge s k x).trowels = s.trowels := rfl
@[simp] theorem setAge_ustore (s : State) (k : Nat) (x : AgeInst) : (setAge s k x).ustore = s.ustore := rfl
@[simp] theorem setAge_reducers (s : State) (k : Nat) (x : AgeInst) : (setAge s k x).reducers = s.reducers := rfl
@[simp] theorem setAge_cmd (s : State) (k : Nat) (x : AgeInst) : (setAge s k x).cmd = s.cmd := rfl
@[simp] theorem setAge_pci (s : State) (k : Nat) (x : AgeInst) : (setAge s k x).pci = s.pci := rfl
@[simp] theorem setAge_dma (s : State) (k : Nat) (x : AgeInst) : (setAge s k x).dma = s.dma := rfl
@[simp] theorem setAge_flt (s : State) (k : Nat) (x : AgeInst) : (setAge s k x).flt = s.flt := rfl
@[simp] theorem setAge_itn (s : State) (k : Nat) (x : AgeInst) : (setAge s k x).itn = s.itn := rfl
@[simp] theorem setAge_fab (s : State) (k : Nat) (x : AgeInst) : (setAge s k x).fab = s.fab := rfl
@[simp] theorem setAge_sec (s : State) (k : Nat) (x : AgeInst) : (setAge s k x).sec = s.sec := rfl
@[simp] theorem setAge_pwr (s : State) (k : Nat) (x : AgeInst) : (setAge s k x).pwr = s.pwr := rfl
@[simp] theorem setAge_srv (s : State) (k : Nat) (x : AgeInst) : (setAge s k x).srv = s.srv := rfl
@[simp] theorem setAge_engines (s : State) (k : Nat) (x : AgeInst) : (setAge s k x).engines = s.engines := rfl

@[simp] theorem setPort_pending (s : State) (n : Nat) (p : FPort) : (setPort s n p).pending = s.pending := rfl
@[simp] theorem setPort_variant (s : State) (n : Nat) (p : FPort) : (setPort s n p).variant = s.variant := rfl
@[simp] theorem setPort_regs (s : State) (n : Nat) (p : FPort) : (setPort s n p).regs = s.regs := rfl
@[simp] theorem setPort_bell (s : State) (n : Nat) (p : FPort) : (setPort s n p).bell = s.bell := rfl
@[simp] theorem setPort_outbox (s : State) (n : Nat) (p : FPort) : (setPort s n p).outbox = s.outbox := rfl
@[simp] theorem setPort_freeCtr (s : State) (n : Nat) (p : FPort) : (setPort s n p).freeCtr = s.freeCtr := rfl
@[simp] theorem setPort_dep (s : State) (n : Nat) (p : FPort) : (setPort s n p).dep = s.dep := rfl
@[simp] theorem setPort_mem (s : State) (n : Nat) (p : FPort) : (setPort s n p).mem = s.mem := rfl
@[simp] theorem setPort_scr (s : State) (n : Nat) (p : FPort) : (setPort s n p).scr = s.scr := rfl
@[simp] theorem setPort_arrays (s : State) (n : Nat) (p : FPort) : (setPort s n p).arrays = s.arrays := rfl
@[simp] theorem setPort_trowels (s : State) (n : Nat) (p : FPort) : (setPort s n p).trowels = s.trowels := rfl
@[simp] theorem setPort_ustore (s : State) (n : Nat) (p : FPort) : (setPort s n p).ustore = s.ustore := rfl
@[simp] theorem setPort_reducers (s : State) (n : Nat) (p : FPort) : (setPort s n p).reducers = s.reducers := rfl
@[simp] theorem setPort_cmd (s : State) (n : Nat) (p : FPort) : (setPort s n p).cmd = s.cmd := rfl
@[simp] theorem setPort_pci (s : State) (n : Nat) (p : FPort) : (setPort s n p).pci = s.pci := rfl
@[simp] theorem setPort_dma (s : State) (n : Nat) (p : FPort) : (setPort s n p).dma = s.dma := rfl
@[simp] theorem setPort_flt (s : State) (n : Nat) (p : FPort) : (setPort s n p).flt = s.flt := rfl
@[simp] theorem setPort_itn (s : State) (n : Nat) (p : FPort) : (setPort s n p).itn = s.itn := rfl
@[simp] theorem setPort_sec (s : State) (n : Nat) (p : FPort) : (setPort s n p).sec = s.sec := rfl
@[simp] theorem setPort_pwr (s : State) (n : Nat) (p : FPort) : (setPort s n p).pwr = s.pwr := rfl
@[simp] theorem setPort_srv (s : State) (n : Nat) (p : FPort) : (setPort s n p).srv = s.srv := rfl
@[simp] theorem setPort_engines (s : State) (n : Nat) (p : FPort) : (setPort s n p).engines = s.engines := rfl

@[simp] theorem modPort_pending (s : State) (n : Nat) (f : FPort → FPort) : (modPort s n f).pending = s.pending := rfl
@[simp] theorem modPort_variant (s : State) (n : Nat) (f : FPort → FPort) : (modPort s n f).variant = s.variant := rfl
@[simp] theorem modPort_regs (s : State) (n : Nat) (f : FPort → FPort) : (modPort s n f).regs = s.regs := rfl
@[simp] theorem modPort_bell (s : State) (n : Nat) (f : FPort → FPort) : (modPort s n f).bell = s.bell := rfl
@[simp] theorem modPort_outbox (s : State) (n : Nat) (f : FPort → FPort) : (modPort s n f).outbox = s.outbox := rfl
@[simp] theorem modPort_freeCtr (s : State) (n : Nat) (f : FPort → FPort) : (modPort s n f).freeCtr = s.freeCtr := rfl
@[simp] theorem modPort_dep (s : State) (n : Nat) (f : FPort → FPort) : (modPort s n f).dep = s.dep := rfl
@[simp] theorem modPort_mem (s : State) (n : Nat) (f : FPort → FPort) : (modPort s n f).mem = s.mem := rfl
@[simp] theorem modPort_scr (s : State) (n : Nat) (f : FPort → FPort) : (modPort s n f).scr = s.scr := rfl
@[simp] theorem modPort_arrays (s : State) (n : Nat) (f : FPort → FPort) : (modPort s n f).arrays = s.arrays := rfl
@[simp] theorem modPort_trowels (s : State) (n : Nat) (f : FPort → FPort) : (modPort s n f).trowels = s.trowels := rfl
@[simp] theorem modPort_ustore (s : State) (n : Nat) (f : FPort → FPort) : (modPort s n f).ustore = s.ustore := rfl
@[simp] theorem modPort_reducers (s : State) (n : Nat) (f : FPort → FPort) : (modPort s n f).reducers = s.reducers := rfl
@[simp] theorem modPort_cmd (s : State) (n : Nat) (f : FPort → FPort) : (modPort s n f).cmd = s.cmd := rfl
@[simp] theorem modPort_pci (s : State) (n : Nat) (f : FPort → FPort) : (modPort s n f).pci = s.pci := rfl
@[simp] theorem modPort_dma (s : State) (n : Nat) (f : FPort → FPort) : (modPort s n f).dma = s.dma := rfl
@[simp] theorem modPort_flt (s : State) (n : Nat) (f : FPort → FPort) : (modPort s n f).flt = s.flt := rfl
@[simp] theorem modPort_itn (s : State) (n : Nat) (f : FPort → FPort) : (modPort s n f).itn = s.itn := rfl
@[simp] theorem modPort_sec (s : State) (n : Nat) (f : FPort → FPort) : (modPort s n f).sec = s.sec := rfl
@[simp] theorem modPort_pwr (s : State) (n : Nat) (f : FPort → FPort) : (modPort s n f).pwr = s.pwr := rfl
@[simp] theorem modPort_srv (s : State) (n : Nat) (f : FPort → FPort) : (modPort s n f).srv = s.srv := rfl
@[simp] theorem modPort_engines (s : State) (n : Nat) (f : FPort → FPort) : (modPort s n f).engines = s.engines := rfl

@[simp] theorem modCore_pending (s : State) (f : SrvCore → SrvCore) : (modCore s f).pending = s.pending := rfl
@[simp] theorem modCore_variant (s : State) (f : SrvCore → SrvCore) : (modCore s f).variant = s.variant := rfl
@[simp] theorem modCore_regs (s : State) (f : SrvCore → SrvCore) : (modCore s f).regs = s.regs := rfl
@[simp] theorem modCore_bell (s : State) (f : SrvCore → SrvCore) : (modCore s f).bell = s.bell := rfl
@[simp] theorem modCore_outbox (s : State) (f : SrvCore → SrvCore) : (modCore s f).outbox = s.outbox := rfl
@[simp] theorem modCore_freeCtr (s : State) (f : SrvCore → SrvCore) : (modCore s f).freeCtr = s.freeCtr := rfl
@[simp] theorem modCore_dep (s : State) (f : SrvCore → SrvCore) : (modCore s f).dep = s.dep := rfl
@[simp] theorem modCore_mem (s : State) (f : SrvCore → SrvCore) : (modCore s f).mem = s.mem := rfl
@[simp] theorem modCore_scr (s : State) (f : SrvCore → SrvCore) : (modCore s f).scr = s.scr := rfl
@[simp] theorem modCore_arrays (s : State) (f : SrvCore → SrvCore) : (modCore s f).arrays = s.arrays := rfl
@[simp] theorem modCore_trowels (s : State) (f : SrvCore → SrvCore) : (modCore s f).trowels = s.trowels := rfl
@[simp] theorem modCore_ustore (s : State) (f : SrvCore → SrvCore) : (modCore s f).ustore = s.ustore := rfl
@[simp] theorem modCore_reducers (s : State) (f : SrvCore → SrvCore) : (modCore s f).reducers = s.reducers := rfl
@[simp] theorem modCore_cmd (s : State) (f : SrvCore → SrvCore) : (modCore s f).cmd = s.cmd := rfl
@[simp] theorem modCore_pci (s : State) (f : SrvCore → SrvCore) : (modCore s f).pci = s.pci := rfl
@[simp] theorem modCore_dma (s : State) (f : SrvCore → SrvCore) : (modCore s f).dma = s.dma := rfl
@[simp] theorem modCore_flt (s : State) (f : SrvCore → SrvCore) : (modCore s f).flt = s.flt := rfl
@[simp] theorem modCore_itn (s : State) (f : SrvCore → SrvCore) : (modCore s f).itn = s.itn := rfl
@[simp] theorem modCore_fab (s : State) (f : SrvCore → SrvCore) : (modCore s f).fab = s.fab := rfl
@[simp] theorem modCore_sec (s : State) (f : SrvCore → SrvCore) : (modCore s f).sec = s.sec := rfl
@[simp] theorem modCore_pwr (s : State) (f : SrvCore → SrvCore) : (modCore s f).pwr = s.pwr := rfl
@[simp] theorem modCore_engines (s : State) (f : SrvCore → SrvCore) : (modCore s f).engines = s.engines := rfl

@[simp] theorem setEntry_pending (s : State) (b : Nat) (e : LEntry) : (setEntry s b e).pending = s.pending := rfl
@[simp] theorem setEntry_variant (s : State) (b : Nat) (e : LEntry) : (setEntry s b e).variant = s.variant := rfl
@[simp] theorem setEntry_regs (s : State) (b : Nat) (e : LEntry) : (setEntry s b e).regs = s.regs := rfl
@[simp] theorem setEntry_bell (s : State) (b : Nat) (e : LEntry) : (setEntry s b e).bell = s.bell := rfl
@[simp] theorem setEntry_outbox (s : State) (b : Nat) (e : LEntry) : (setEntry s b e).outbox = s.outbox := rfl
@[simp] theorem setEntry_freeCtr (s : State) (b : Nat) (e : LEntry) : (setEntry s b e).freeCtr = s.freeCtr := rfl
@[simp] theorem setEntry_dep (s : State) (b : Nat) (e : LEntry) : (setEntry s b e).dep = s.dep := rfl
@[simp] theorem setEntry_mem (s : State) (b : Nat) (e : LEntry) : (setEntry s b e).mem = s.mem := rfl
@[simp] theorem setEntry_scr (s : State) (b : Nat) (e : LEntry) : (setEntry s b e).scr = s.scr := rfl
@[simp] theorem setEntry_arrays (s : State) (b : Nat) (e : LEntry) : (setEntry s b e).arrays = s.arrays := rfl
@[simp] theorem setEntry_trowels (s : State) (b : Nat) (e : LEntry) : (setEntry s b e).trowels = s.trowels := rfl
@[simp] theorem setEntry_ustore (s : State) (b : Nat) (e : LEntry) : (setEntry s b e).ustore = s.ustore := rfl
@[simp] theorem setEntry_reducers (s : State) (b : Nat) (e : LEntry) : (setEntry s b e).reducers = s.reducers := rfl
@[simp] theorem setEntry_cmd (s : State) (b : Nat) (e : LEntry) : (setEntry s b e).cmd = s.cmd := rfl
@[simp] theorem setEntry_pci (s : State) (b : Nat) (e : LEntry) : (setEntry s b e).pci = s.pci := rfl
@[simp] theorem setEntry_dma (s : State) (b : Nat) (e : LEntry) : (setEntry s b e).dma = s.dma := rfl
@[simp] theorem setEntry_flt (s : State) (b : Nat) (e : LEntry) : (setEntry s b e).flt = s.flt := rfl
@[simp] theorem setEntry_itn (s : State) (b : Nat) (e : LEntry) : (setEntry s b e).itn = s.itn := rfl
@[simp] theorem setEntry_fab (s : State) (b : Nat) (e : LEntry) : (setEntry s b e).fab = s.fab := rfl
@[simp] theorem setEntry_sec (s : State) (b : Nat) (e : LEntry) : (setEntry s b e).sec = s.sec := rfl
@[simp] theorem setEntry_pwr (s : State) (b : Nat) (e : LEntry) : (setEntry s b e).pwr = s.pwr := rfl
@[simp] theorem setEntry_engines (s : State) (b : Nat) (e : LEntry) : (setEntry s b e).engines = s.engines := rfl

@[simp] theorem modEntry_pending (s : State) (b : Nat) (f : LEntry → LEntry) : (modEntry s b f).pending = s.pending := rfl
@[simp] theorem modEntry_variant (s : State) (b : Nat) (f : LEntry → LEntry) : (modEntry s b f).variant = s.variant := rfl
@[simp] theorem modEntry_regs (s : State) (b : Nat) (f : LEntry → LEntry) : (modEntry s b f).regs = s.regs := rfl
@[simp] theorem modEntry_bell (s : State) (b : Nat) (f : LEntry → LEntry) : (modEntry s b f).bell = s.bell := rfl
@[simp] theorem modEntry_outbox (s : State) (b : Nat) (f : LEntry → LEntry) : (modEntry s b f).outbox = s.outbox := rfl
@[simp] theorem modEntry_freeCtr (s : State) (b : Nat) (f : LEntry → LEntry) : (modEntry s b f).freeCtr = s.freeCtr := rfl
@[simp] theorem modEntry_dep (s : State) (b : Nat) (f : LEntry → LEntry) : (modEntry s b f).dep = s.dep := rfl
@[simp] theorem modEntry_mem (s : State) (b : Nat) (f : LEntry → LEntry) : (modEntry s b f).mem = s.mem := rfl
@[simp] theorem modEntry_scr (s : State) (b : Nat) (f : LEntry → LEntry) : (modEntry s b f).scr = s.scr := rfl
@[simp] theorem modEntry_arrays (s : State) (b : Nat) (f : LEntry → LEntry) : (modEntry s b f).arrays = s.arrays := rfl
@[simp] theorem modEntry_trowels (s : State) (b : Nat) (f : LEntry → LEntry) : (modEntry s b f).trowels = s.trowels := rfl
@[simp] theorem modEntry_ustore (s : State) (b : Nat) (f : LEntry → LEntry) : (modEntry s b f).ustore = s.ustore := rfl
@[simp] theorem modEntry_reducers (s : State) (b : Nat) (f : LEntry → LEntry) : (modEntry s b f).reducers = s.reducers := rfl
@[simp] theorem modEntry_cmd (s : State) (b : Nat) (f : LEntry → LEntry) : (modEntry s b f).cmd = s.cmd := rfl
@[simp] theorem modEntry_pci (s : State) (b : Nat) (f : LEntry → LEntry) : (modEntry s b f).pci = s.pci := rfl
@[simp] theorem modEntry_dma (s : State) (b : Nat) (f : LEntry → LEntry) : (modEntry s b f).dma = s.dma := rfl
@[simp] theorem modEntry_flt (s : State) (b : Nat) (f : LEntry → LEntry) : (modEntry s b f).flt = s.flt := rfl
@[simp] theorem modEntry_itn (s : State) (b : Nat) (f : LEntry → LEntry) : (modEntry s b f).itn = s.itn := rfl
@[simp] theorem modEntry_fab (s : State) (b : Nat) (f : LEntry → LEntry) : (modEntry s b f).fab = s.fab := rfl
@[simp] theorem modEntry_sec (s : State) (b : Nat) (f : LEntry → LEntry) : (modEntry s b f).sec = s.sec := rfl
@[simp] theorem modEntry_pwr (s : State) (b : Nat) (f : LEntry → LEntry) : (modEntry s b f).pwr = s.pwr := rfl
@[simp] theorem modEntry_engines (s : State) (b : Nat) (f : LEntry → LEntry) : (modEntry s b f).engines = s.engines := rfl

@[simp] theorem setFrame_pending (s : State) (bank frame v : Nat) : (setFrame s bank frame v).pending = s.pending := rfl
@[simp] theorem setFrame_variant (s : State) (bank frame v : Nat) : (setFrame s bank frame v).variant = s.variant := rfl
@[simp] theorem setFrame_regs (s : State) (bank frame v : Nat) : (setFrame s bank frame v).regs = s.regs := rfl
@[simp] theorem setFrame_bell (s : State) (bank frame v : Nat) : (setFrame s bank frame v).bell = s.bell := rfl
@[simp] theorem setFrame_outbox (s : State) (bank frame v : Nat) : (setFrame s bank frame v).outbox = s.outbox := rfl
@[simp] theorem setFrame_freeCtr (s : State) (bank frame v : Nat) : (setFrame s bank frame v).freeCtr = s.freeCtr := rfl
@[simp] theorem setFrame_dep (s : State) (bank frame v : Nat) : (setFrame s bank frame v).dep = s.dep := rfl
@[simp] theorem setFrame_mem (s : State) (bank frame v : Nat) : (setFrame s bank frame v).mem = s.mem := rfl
@[simp] theorem setFrame_scr (s : State) (bank frame v : Nat) : (setFrame s bank frame v).scr = s.scr := rfl
@[simp] theorem setFrame_arrays (s : State) (bank frame v : Nat) : (setFrame s bank frame v).arrays = s.arrays := rfl
@[simp] theorem setFrame_trowels (s : State) (bank frame v : Nat) : (setFrame s bank frame v).trowels = s.trowels := rfl
@[simp] theorem setFrame_ustore (s : State) (bank frame v : Nat) : (setFrame s bank frame v).ustore = s.ustore := rfl
@[simp] theorem setFrame_reducers (s : State) (bank frame v : Nat) : (setFrame s bank frame v).reducers = s.reducers := rfl
@[simp] theorem setFrame_cmd (s : State) (bank frame v : Nat) : (setFrame s bank frame v).cmd = s.cmd := rfl
@[simp] theorem setFrame_pci (s : State) (bank frame v : Nat) : (setFrame s bank frame v).pci = s.pci := rfl
@[simp] theorem setFrame_dma (s : State) (bank frame v : Nat) : (setFrame s bank frame v).dma = s.dma := rfl
@[simp] theorem setFrame_flt (s : State) (bank frame v : Nat) : (setFrame s bank frame v).flt = s.flt := rfl
@[simp] theorem setFrame_itn (s : State) (bank frame v : Nat) : (setFrame s bank frame v).itn = s.itn := rfl
@[simp] theorem setFrame_fab (s : State) (bank frame v : Nat) : (setFrame s bank frame v).fab = s.fab := rfl
@[simp] theorem setFrame_sec (s : State) (bank frame v : Nat) : (setFrame s bank frame v).sec = s.sec := rfl
@[simp] theorem setFrame_pwr (s : State) (bank frame v : Nat) : (setFrame s bank frame v).pwr = s.pwr := rfl
@[simp] theorem setFrame_engines (s : State) (bank frame v : Nat) : (setFrame s bank frame v).engines = s.engines := rfl

@[simp] theorem setSlot_pending (s : State) (n : Nat) (x : Slot) : (setSlot s n x).pending = s.pending := rfl
@[simp] theorem setSlot_variant (s : State) (n : Nat) (x : Slot) : (setSlot s n x).variant = s.variant := rfl
@[simp] theorem setSlot_regs (s : State) (n : Nat) (x : Slot) : (setSlot s n x).regs = s.regs := rfl
@[simp] theorem setSlot_bell (s : State) (n : Nat) (x : Slot) : (setSlot s n x).bell = s.bell := rfl
@[simp] theorem setSlot_outbox (s : State) (n : Nat) (x : Slot) : (setSlot s n x).outbox = s.outbox := rfl
@[simp] theorem setSlot_freeCtr (s : State) (n : Nat) (x : Slot) : (setSlot s n x).freeCtr = s.freeCtr := rfl
@[simp] theorem setSlot_dep (s : State) (n : Nat) (x : Slot) : (setSlot s n x).dep = s.dep := rfl
@[simp] theorem setSlot_mem (s : State) (n : Nat) (x : Slot) : (setSlot s n x).mem = s.mem := rfl
@[simp] theorem setSlot_scr (s : State) (n : Nat) (x : Slot) : (setSlot s n x).scr = s.scr := rfl
@[simp] theorem setSlot_arrays (s : State) (n : Nat) (x : Slot) : (setSlot s n x).arrays = s.arrays := rfl
@[simp] theorem setSlot_trowels (s : State) (n : Nat) (x : Slot) : (setSlot s n x).trowels = s.trowels := rfl
@[simp] theorem setSlot_ustore (s : State) (n : Nat) (x : Slot) : (setSlot s n x).ustore = s.ustore := rfl
@[simp] theorem setSlot_reducers (s : State) (n : Nat) (x : Slot) : (setSlot s n x).reducers = s.reducers := rfl
@[simp] theorem setSlot_cmd (s : State) (n : Nat) (x : Slot) : (setSlot s n x).cmd = s.cmd := rfl
@[simp] theorem setSlot_pci (s : State) (n : Nat) (x : Slot) : (setSlot s n x).pci = s.pci := rfl
@[simp] theorem setSlot_dma (s : State) (n : Nat) (x : Slot) : (setSlot s n x).dma = s.dma := rfl
@[simp] theorem setSlot_flt (s : State) (n : Nat) (x : Slot) : (setSlot s n x).flt = s.flt := rfl
@[simp] theorem setSlot_itn (s : State) (n : Nat) (x : Slot) : (setSlot s n x).itn = s.itn := rfl
@[simp] theorem setSlot_fab (s : State) (n : Nat) (x : Slot) : (setSlot s n x).fab = s.fab := rfl
@[simp] theorem setSlot_sec (s : State) (n : Nat) (x : Slot) : (setSlot s n x).sec = s.sec := rfl
@[simp] theorem setSlot_pwr (s : State) (n : Nat) (x : Slot) : (setSlot s n x).pwr = s.pwr := rfl
@[simp] theorem setSlot_engines (s : State) (n : Nat) (x : Slot) : (setSlot s n x).engines = s.engines := rfl

@[simp] theorem modSlot_pending (s : State) (n : Nat) (f : Slot → Slot) : (modSlot s n f).pending = s.pending := rfl
@[simp] theorem modSlot_variant (s : State) (n : Nat) (f : Slot → Slot) : (modSlot s n f).variant = s.variant := rfl
@[simp] theorem modSlot_regs (s : State) (n : Nat) (f : Slot → Slot) : (modSlot s n f).regs = s.regs := rfl
@[simp] theorem modSlot_bell (s : State) (n : Nat) (f : Slot → Slot) : (modSlot s n f).bell = s.bell := rfl
@[simp] theorem modSlot_outbox (s : State) (n : Nat) (f : Slot → Slot) : (modSlot s n f).outbox = s.outbox := rfl
@[simp] theorem modSlot_freeCtr (s : State) (n : Nat) (f : Slot → Slot) : (modSlot s n f).freeCtr = s.freeCtr := rfl
@[simp] theorem modSlot_dep (s : State) (n : Nat) (f : Slot → Slot) : (modSlot s n f).dep = s.dep := rfl
@[simp] theorem modSlot_mem (s : State) (n : Nat) (f : Slot → Slot) : (modSlot s n f).mem = s.mem := rfl
@[simp] theorem modSlot_scr (s : State) (n : Nat) (f : Slot → Slot) : (modSlot s n f).scr = s.scr := rfl
@[simp] theorem modSlot_arrays (s : State) (n : Nat) (f : Slot → Slot) : (modSlot s n f).arrays = s.arrays := rfl
@[simp] theorem modSlot_trowels (s : State) (n : Nat) (f : Slot → Slot) : (modSlot s n f).trowels = s.trowels := rfl
@[simp] theorem modSlot_ustore (s : State) (n : Nat) (f : Slot → Slot) : (modSlot s n f).ustore = s.ustore := rfl
@[simp] theorem modSlot_reducers (s : State) (n : Nat) (f : Slot → Slot) : (modSlot s n f).reducers = s.reducers := rfl
@[simp] theorem modSlot_cmd (s : State) (n : Nat) (f : Slot → Slot) : (modSlot s n f).cmd = s.cmd := rfl
@[simp] theorem modSlot_pci (s : State) (n : Nat) (f : Slot → Slot) : (modSlot s n f).pci = s.pci := rfl
@[simp] theorem modSlot_dma (s : State) (n : Nat) (f : Slot → Slot) : (modSlot s n f).dma = s.dma := rfl
@[simp] theorem modSlot_flt (s : State) (n : Nat) (f : Slot → Slot) : (modSlot s n f).flt = s.flt := rfl
@[simp] theorem modSlot_itn (s : State) (n : Nat) (f : Slot → Slot) : (modSlot s n f).itn = s.itn := rfl
@[simp] theorem modSlot_fab (s : State) (n : Nat) (f : Slot → Slot) : (modSlot s n f).fab = s.fab := rfl
@[simp] theorem modSlot_sec (s : State) (n : Nat) (f : Slot → Slot) : (modSlot s n f).sec = s.sec := rfl
@[simp] theorem modSlot_pwr (s : State) (n : Nat) (f : Slot → Slot) : (modSlot s n f).pwr = s.pwr := rfl
@[simp] theorem modSlot_engines (s : State) (n : Nat) (f : Slot → Slot) : (modSlot s n f).engines = s.engines := rfl

@[simp] theorem modRun_pending (s : State) (f : StepRun → StepRun) : (modRun s f).pending = s.pending := rfl
@[simp] theorem modRun_variant (s : State) (f : StepRun → StepRun) : (modRun s f).variant = s.variant := rfl
@[simp] theorem modRun_regs (s : State) (f : StepRun → StepRun) : (modRun s f).regs = s.regs := rfl
@[simp] theorem modRun_bell (s : State) (f : StepRun → StepRun) : (modRun s f).bell = s.bell := rfl
@[simp] theorem modRun_outbox (s : State) (f : StepRun → StepRun) : (modRun s f).outbox = s.outbox := rfl
@[simp] theorem modRun_freeCtr (s : State) (f : StepRun → StepRun) : (modRun s f).freeCtr = s.freeCtr := rfl
@[simp] theorem modRun_dep (s : State) (f : StepRun → StepRun) : (modRun s f).dep = s.dep := rfl
@[simp] theorem modRun_mem (s : State) (f : StepRun → StepRun) : (modRun s f).mem = s.mem := rfl
@[simp] theorem modRun_scr (s : State) (f : StepRun → StepRun) : (modRun s f).scr = s.scr := rfl
@[simp] theorem modRun_arrays (s : State) (f : StepRun → StepRun) : (modRun s f).arrays = s.arrays := rfl
@[simp] theorem modRun_trowels (s : State) (f : StepRun → StepRun) : (modRun s f).trowels = s.trowels := rfl
@[simp] theorem modRun_ustore (s : State) (f : StepRun → StepRun) : (modRun s f).ustore = s.ustore := rfl
@[simp] theorem modRun_reducers (s : State) (f : StepRun → StepRun) : (modRun s f).reducers = s.reducers := rfl
@[simp] theorem modRun_cmd (s : State) (f : StepRun → StepRun) : (modRun s f).cmd = s.cmd := rfl
@[simp] theorem modRun_pci (s : State) (f : StepRun → StepRun) : (modRun s f).pci = s.pci := rfl
@[simp] theorem modRun_dma (s : State) (f : StepRun → StepRun) : (modRun s f).dma = s.dma := rfl
@[simp] theorem modRun_flt (s : State) (f : StepRun → StepRun) : (modRun s f).flt = s.flt := rfl
@[simp] theorem modRun_itn (s : State) (f : StepRun → StepRun) : (modRun s f).itn = s.itn := rfl
@[simp] theorem modRun_fab (s : State) (f : StepRun → StepRun) : (modRun s f).fab = s.fab := rfl
@[simp] theorem modRun_sec (s : State) (f : StepRun → StepRun) : (modRun s f).sec = s.sec := rfl
@[simp] theorem modRun_pwr (s : State) (f : StepRun → StepRun) : (modRun s f).pwr = s.pwr := rfl
@[simp] theorem modRun_engines (s : State) (f : StepRun → StepRun) : (modRun s f).engines = s.engines := rfl

@[simp] theorem setRawByte_pending (s : State) (a : Nat) (b : Byte) : (setRawByte s a b).pending = s.pending := rfl
@[simp] theorem setRawByte_variant (s : State) (a : Nat) (b : Byte) : (setRawByte s a b).variant = s.variant := rfl
@[simp] theorem setRawByte_regs (s : State) (a : Nat) (b : Byte) : (setRawByte s a b).regs = s.regs := rfl
@[simp] theorem setRawByte_bell (s : State) (a : Nat) (b : Byte) : (setRawByte s a b).bell = s.bell := rfl
@[simp] theorem setRawByte_outbox (s : State) (a : Nat) (b : Byte) : (setRawByte s a b).outbox = s.outbox := rfl
@[simp] theorem setRawByte_freeCtr (s : State) (a : Nat) (b : Byte) : (setRawByte s a b).freeCtr = s.freeCtr := rfl
@[simp] theorem setRawByte_dep (s : State) (a : Nat) (b : Byte) : (setRawByte s a b).dep = s.dep := rfl
@[simp] theorem setRawByte_scr (s : State) (a : Nat) (b : Byte) : (setRawByte s a b).scr = s.scr := rfl
@[simp] theorem setRawByte_arrays (s : State) (a : Nat) (b : Byte) : (setRawByte s a b).arrays = s.arrays := rfl
@[simp] theorem setRawByte_trowels (s : State) (a : Nat) (b : Byte) : (setRawByte s a b).trowels = s.trowels := rfl
@[simp] theorem setRawByte_ustore (s : State) (a : Nat) (b : Byte) : (setRawByte s a b).ustore = s.ustore := rfl
@[simp] theorem setRawByte_reducers (s : State) (a : Nat) (b : Byte) : (setRawByte s a b).reducers = s.reducers := rfl
@[simp] theorem setRawByte_cmd (s : State) (a : Nat) (b : Byte) : (setRawByte s a b).cmd = s.cmd := rfl
@[simp] theorem setRawByte_pci (s : State) (a : Nat) (b : Byte) : (setRawByte s a b).pci = s.pci := rfl
@[simp] theorem setRawByte_dma (s : State) (a : Nat) (b : Byte) : (setRawByte s a b).dma = s.dma := rfl
@[simp] theorem setRawByte_flt (s : State) (a : Nat) (b : Byte) : (setRawByte s a b).flt = s.flt := rfl
@[simp] theorem setRawByte_itn (s : State) (a : Nat) (b : Byte) : (setRawByte s a b).itn = s.itn := rfl
@[simp] theorem setRawByte_fab (s : State) (a : Nat) (b : Byte) : (setRawByte s a b).fab = s.fab := rfl
@[simp] theorem setRawByte_sec (s : State) (a : Nat) (b : Byte) : (setRawByte s a b).sec = s.sec := rfl
@[simp] theorem setRawByte_pwr (s : State) (a : Nat) (b : Byte) : (setRawByte s a b).pwr = s.pwr := rfl
@[simp] theorem setRawByte_srv (s : State) (a : Nat) (b : Byte) : (setRawByte s a b).srv = s.srv := rfl
@[simp] theorem setRawByte_engines (s : State) (a : Nat) (b : Byte) : (setRawByte s a b).engines = s.engines := rfl

@[simp] theorem setChk_pending (s : State) (g d : Nat) : (setChk s g d).pending = s.pending := rfl
@[simp] theorem setChk_variant (s : State) (g d : Nat) : (setChk s g d).variant = s.variant := rfl
@[simp] theorem setChk_regs (s : State) (g d : Nat) : (setChk s g d).regs = s.regs := rfl
@[simp] theorem setChk_bell (s : State) (g d : Nat) : (setChk s g d).bell = s.bell := rfl
@[simp] theorem setChk_outbox (s : State) (g d : Nat) : (setChk s g d).outbox = s.outbox := rfl
@[simp] theorem setChk_freeCtr (s : State) (g d : Nat) : (setChk s g d).freeCtr = s.freeCtr := rfl
@[simp] theorem setChk_dep (s : State) (g d : Nat) : (setChk s g d).dep = s.dep := rfl
@[simp] theorem setChk_scr (s : State) (g d : Nat) : (setChk s g d).scr = s.scr := rfl
@[simp] theorem setChk_arrays (s : State) (g d : Nat) : (setChk s g d).arrays = s.arrays := rfl
@[simp] theorem setChk_trowels (s : State) (g d : Nat) : (setChk s g d).trowels = s.trowels := rfl
@[simp] theorem setChk_ustore (s : State) (g d : Nat) : (setChk s g d).ustore = s.ustore := rfl
@[simp] theorem setChk_reducers (s : State) (g d : Nat) : (setChk s g d).reducers = s.reducers := rfl
@[simp] theorem setChk_cmd (s : State) (g d : Nat) : (setChk s g d).cmd = s.cmd := rfl
@[simp] theorem setChk_pci (s : State) (g d : Nat) : (setChk s g d).pci = s.pci := rfl
@[simp] theorem setChk_dma (s : State) (g d : Nat) : (setChk s g d).dma = s.dma := rfl
@[simp] theorem setChk_flt (s : State) (g d : Nat) : (setChk s g d).flt = s.flt := rfl
@[simp] theorem setChk_itn (s : State) (g d : Nat) : (setChk s g d).itn = s.itn := rfl
@[simp] theorem setChk_fab (s : State) (g d : Nat) : (setChk s g d).fab = s.fab := rfl
@[simp] theorem setChk_sec (s : State) (g d : Nat) : (setChk s g d).sec = s.sec := rfl
@[simp] theorem setChk_pwr (s : State) (g d : Nat) : (setChk s g d).pwr = s.pwr := rfl
@[simp] theorem setChk_srv (s : State) (g d : Nat) : (setChk s g d).srv = s.srv := rfl
@[simp] theorem setChk_engines (s : State) (g d : Nat) : (setChk s g d).engines = s.engines := rfl

@[simp] theorem putLine_pending (s : State) (k : Nat) (l : Line) : (putLine s k l).pending = s.pending := rfl
@[simp] theorem putLine_variant (s : State) (k : Nat) (l : Line) : (putLine s k l).variant = s.variant := rfl
@[simp] theorem putLine_regs (s : State) (k : Nat) (l : Line) : (putLine s k l).regs = s.regs := rfl
@[simp] theorem putLine_bell (s : State) (k : Nat) (l : Line) : (putLine s k l).bell = s.bell := rfl
@[simp] theorem putLine_outbox (s : State) (k : Nat) (l : Line) : (putLine s k l).outbox = s.outbox := rfl
@[simp] theorem putLine_freeCtr (s : State) (k : Nat) (l : Line) : (putLine s k l).freeCtr = s.freeCtr := rfl
@[simp] theorem putLine_dep (s : State) (k : Nat) (l : Line) : (putLine s k l).dep = s.dep := rfl
@[simp] theorem putLine_mem (s : State) (k : Nat) (l : Line) : (putLine s k l).mem = s.mem := rfl
@[simp] theorem putLine_arrays (s : State) (k : Nat) (l : Line) : (putLine s k l).arrays = s.arrays := rfl
@[simp] theorem putLine_trowels (s : State) (k : Nat) (l : Line) : (putLine s k l).trowels = s.trowels := rfl
@[simp] theorem putLine_ustore (s : State) (k : Nat) (l : Line) : (putLine s k l).ustore = s.ustore := rfl
@[simp] theorem putLine_reducers (s : State) (k : Nat) (l : Line) : (putLine s k l).reducers = s.reducers := rfl
@[simp] theorem putLine_cmd (s : State) (k : Nat) (l : Line) : (putLine s k l).cmd = s.cmd := rfl
@[simp] theorem putLine_pci (s : State) (k : Nat) (l : Line) : (putLine s k l).pci = s.pci := rfl
@[simp] theorem putLine_dma (s : State) (k : Nat) (l : Line) : (putLine s k l).dma = s.dma := rfl
@[simp] theorem putLine_flt (s : State) (k : Nat) (l : Line) : (putLine s k l).flt = s.flt := rfl
@[simp] theorem putLine_itn (s : State) (k : Nat) (l : Line) : (putLine s k l).itn = s.itn := rfl
@[simp] theorem putLine_fab (s : State) (k : Nat) (l : Line) : (putLine s k l).fab = s.fab := rfl
@[simp] theorem putLine_sec (s : State) (k : Nat) (l : Line) : (putLine s k l).sec = s.sec := rfl
@[simp] theorem putLine_pwr (s : State) (k : Nat) (l : Line) : (putLine s k l).pwr = s.pwr := rfl
@[simp] theorem putLine_srv (s : State) (k : Nat) (l : Line) : (putLine s k l).srv = s.srv := rfl
@[simp] theorem putLine_engines (s : State) (k : Nat) (l : Line) : (putLine s k l).engines = s.engines := rfl

@[simp] theorem setAdapter_pending (s : State) (a : Nat) (x : AdSlot) : (setAdapter s a x).pending = s.pending := rfl
@[simp] theorem setAdapter_variant (s : State) (a : Nat) (x : AdSlot) : (setAdapter s a x).variant = s.variant := rfl
@[simp] theorem setAdapter_regs (s : State) (a : Nat) (x : AdSlot) : (setAdapter s a x).regs = s.regs := rfl
@[simp] theorem setAdapter_bell (s : State) (a : Nat) (x : AdSlot) : (setAdapter s a x).bell = s.bell := rfl
@[simp] theorem setAdapter_outbox (s : State) (a : Nat) (x : AdSlot) : (setAdapter s a x).outbox = s.outbox := rfl
@[simp] theorem setAdapter_freeCtr (s : State) (a : Nat) (x : AdSlot) : (setAdapter s a x).freeCtr = s.freeCtr := rfl
@[simp] theorem setAdapter_dep (s : State) (a : Nat) (x : AdSlot) : (setAdapter s a x).dep = s.dep := rfl
@[simp] theorem setAdapter_mem (s : State) (a : Nat) (x : AdSlot) : (setAdapter s a x).mem = s.mem := rfl
@[simp] theorem setAdapter_scr (s : State) (a : Nat) (x : AdSlot) : (setAdapter s a x).scr = s.scr := rfl
@[simp] theorem setAdapter_arrays (s : State) (a : Nat) (x : AdSlot) : (setAdapter s a x).arrays = s.arrays := rfl
@[simp] theorem setAdapter_trowels (s : State) (a : Nat) (x : AdSlot) : (setAdapter s a x).trowels = s.trowels := rfl
@[simp] theorem setAdapter_ustore (s : State) (a : Nat) (x : AdSlot) : (setAdapter s a x).ustore = s.ustore := rfl
@[simp] theorem setAdapter_reducers (s : State) (a : Nat) (x : AdSlot) : (setAdapter s a x).reducers = s.reducers := rfl
@[simp] theorem setAdapter_cmd (s : State) (a : Nat) (x : AdSlot) : (setAdapter s a x).cmd = s.cmd := rfl
@[simp] theorem setAdapter_pci (s : State) (a : Nat) (x : AdSlot) : (setAdapter s a x).pci = s.pci := rfl
@[simp] theorem setAdapter_dma (s : State) (a : Nat) (x : AdSlot) : (setAdapter s a x).dma = s.dma := rfl
@[simp] theorem setAdapter_flt (s : State) (a : Nat) (x : AdSlot) : (setAdapter s a x).flt = s.flt := rfl
@[simp] theorem setAdapter_itn (s : State) (a : Nat) (x : AdSlot) : (setAdapter s a x).itn = s.itn := rfl
@[simp] theorem setAdapter_fab (s : State) (a : Nat) (x : AdSlot) : (setAdapter s a x).fab = s.fab := rfl
@[simp] theorem setAdapter_sec (s : State) (a : Nat) (x : AdSlot) : (setAdapter s a x).sec = s.sec := rfl
@[simp] theorem setAdapter_pwr (s : State) (a : Nat) (x : AdSlot) : (setAdapter s a x).pwr = s.pwr := rfl
@[simp] theorem setAdapter_engines (s : State) (a : Nat) (x : AdSlot) : (setAdapter s a x).engines = s.engines := rfl

@[simp] theorem setTrowel_pending (s : State) (x : TSite) (t : Trowel) : (setTrowel s x t).pending = s.pending := rfl
@[simp] theorem setTrowel_variant (s : State) (x : TSite) (t : Trowel) : (setTrowel s x t).variant = s.variant := rfl
@[simp] theorem setTrowel_regs (s : State) (x : TSite) (t : Trowel) : (setTrowel s x t).regs = s.regs := rfl
@[simp] theorem setTrowel_bell (s : State) (x : TSite) (t : Trowel) : (setTrowel s x t).bell = s.bell := rfl
@[simp] theorem setTrowel_outbox (s : State) (x : TSite) (t : Trowel) : (setTrowel s x t).outbox = s.outbox := rfl
@[simp] theorem setTrowel_freeCtr (s : State) (x : TSite) (t : Trowel) : (setTrowel s x t).freeCtr = s.freeCtr := rfl
@[simp] theorem setTrowel_dep (s : State) (x : TSite) (t : Trowel) : (setTrowel s x t).dep = s.dep := rfl
@[simp] theorem setTrowel_mem (s : State) (x : TSite) (t : Trowel) : (setTrowel s x t).mem = s.mem := rfl
@[simp] theorem setTrowel_scr (s : State) (x : TSite) (t : Trowel) : (setTrowel s x t).scr = s.scr := rfl
@[simp] theorem setTrowel_arrays (s : State) (x : TSite) (t : Trowel) : (setTrowel s x t).arrays = s.arrays := rfl
@[simp] theorem setTrowel_ustore (s : State) (x : TSite) (t : Trowel) : (setTrowel s x t).ustore = s.ustore := rfl
@[simp] theorem setTrowel_reducers (s : State) (x : TSite) (t : Trowel) : (setTrowel s x t).reducers = s.reducers := rfl
@[simp] theorem setTrowel_cmd (s : State) (x : TSite) (t : Trowel) : (setTrowel s x t).cmd = s.cmd := rfl
@[simp] theorem setTrowel_pci (s : State) (x : TSite) (t : Trowel) : (setTrowel s x t).pci = s.pci := rfl
@[simp] theorem setTrowel_dma (s : State) (x : TSite) (t : Trowel) : (setTrowel s x t).dma = s.dma := rfl
@[simp] theorem setTrowel_flt (s : State) (x : TSite) (t : Trowel) : (setTrowel s x t).flt = s.flt := rfl
@[simp] theorem setTrowel_itn (s : State) (x : TSite) (t : Trowel) : (setTrowel s x t).itn = s.itn := rfl
@[simp] theorem setTrowel_fab (s : State) (x : TSite) (t : Trowel) : (setTrowel s x t).fab = s.fab := rfl
@[simp] theorem setTrowel_sec (s : State) (x : TSite) (t : Trowel) : (setTrowel s x t).sec = s.sec := rfl
@[simp] theorem setTrowel_pwr (s : State) (x : TSite) (t : Trowel) : (setTrowel s x t).pwr = s.pwr := rfl
@[simp] theorem setTrowel_srv (s : State) (x : TSite) (t : Trowel) : (setTrowel s x t).srv = s.srv := rfl
@[simp] theorem setTrowel_engines (s : State) (x : TSite) (t : Trowel) : (setTrowel s x t).engines = s.engines := rfl

@[simp] theorem modCmd_pending (s : State) (x : TSite) (f : TrwCmd → TrwCmd) : (modCmd s x f).pending = s.pending := rfl
@[simp] theorem modCmd_variant (s : State) (x : TSite) (f : TrwCmd → TrwCmd) : (modCmd s x f).variant = s.variant := rfl
@[simp] theorem modCmd_regs (s : State) (x : TSite) (f : TrwCmd → TrwCmd) : (modCmd s x f).regs = s.regs := rfl
@[simp] theorem modCmd_bell (s : State) (x : TSite) (f : TrwCmd → TrwCmd) : (modCmd s x f).bell = s.bell := rfl
@[simp] theorem modCmd_outbox (s : State) (x : TSite) (f : TrwCmd → TrwCmd) : (modCmd s x f).outbox = s.outbox := rfl
@[simp] theorem modCmd_freeCtr (s : State) (x : TSite) (f : TrwCmd → TrwCmd) : (modCmd s x f).freeCtr = s.freeCtr := rfl
@[simp] theorem modCmd_dep (s : State) (x : TSite) (f : TrwCmd → TrwCmd) : (modCmd s x f).dep = s.dep := rfl
@[simp] theorem modCmd_mem (s : State) (x : TSite) (f : TrwCmd → TrwCmd) : (modCmd s x f).mem = s.mem := rfl
@[simp] theorem modCmd_scr (s : State) (x : TSite) (f : TrwCmd → TrwCmd) : (modCmd s x f).scr = s.scr := rfl
@[simp] theorem modCmd_arrays (s : State) (x : TSite) (f : TrwCmd → TrwCmd) : (modCmd s x f).arrays = s.arrays := rfl
@[simp] theorem modCmd_ustore (s : State) (x : TSite) (f : TrwCmd → TrwCmd) : (modCmd s x f).ustore = s.ustore := rfl
@[simp] theorem modCmd_reducers (s : State) (x : TSite) (f : TrwCmd → TrwCmd) : (modCmd s x f).reducers = s.reducers := rfl
@[simp] theorem modCmd_cmd (s : State) (x : TSite) (f : TrwCmd → TrwCmd) : (modCmd s x f).cmd = s.cmd := rfl
@[simp] theorem modCmd_pci (s : State) (x : TSite) (f : TrwCmd → TrwCmd) : (modCmd s x f).pci = s.pci := rfl
@[simp] theorem modCmd_dma (s : State) (x : TSite) (f : TrwCmd → TrwCmd) : (modCmd s x f).dma = s.dma := rfl
@[simp] theorem modCmd_flt (s : State) (x : TSite) (f : TrwCmd → TrwCmd) : (modCmd s x f).flt = s.flt := rfl
@[simp] theorem modCmd_itn (s : State) (x : TSite) (f : TrwCmd → TrwCmd) : (modCmd s x f).itn = s.itn := rfl
@[simp] theorem modCmd_fab (s : State) (x : TSite) (f : TrwCmd → TrwCmd) : (modCmd s x f).fab = s.fab := rfl
@[simp] theorem modCmd_sec (s : State) (x : TSite) (f : TrwCmd → TrwCmd) : (modCmd s x f).sec = s.sec := rfl
@[simp] theorem modCmd_pwr (s : State) (x : TSite) (f : TrwCmd → TrwCmd) : (modCmd s x f).pwr = s.pwr := rfl
@[simp] theorem modCmd_srv (s : State) (x : TSite) (f : TrwCmd → TrwCmd) : (modCmd s x f).srv = s.srv := rfl
@[simp] theorem modCmd_engines (s : State) (x : TSite) (f : TrwCmd → TrwCmd) : (modCmd s x f).engines = s.engines := rfl

@[simp] theorem setReducer_pending (s : State) (k : Nat) (r : Reducer) : (setReducer s k r).pending = s.pending := rfl
@[simp] theorem setReducer_variant (s : State) (k : Nat) (r : Reducer) : (setReducer s k r).variant = s.variant := rfl
@[simp] theorem setReducer_regs (s : State) (k : Nat) (r : Reducer) : (setReducer s k r).regs = s.regs := rfl
@[simp] theorem setReducer_bell (s : State) (k : Nat) (r : Reducer) : (setReducer s k r).bell = s.bell := rfl
@[simp] theorem setReducer_outbox (s : State) (k : Nat) (r : Reducer) : (setReducer s k r).outbox = s.outbox := rfl
@[simp] theorem setReducer_freeCtr (s : State) (k : Nat) (r : Reducer) : (setReducer s k r).freeCtr = s.freeCtr := rfl
@[simp] theorem setReducer_dep (s : State) (k : Nat) (r : Reducer) : (setReducer s k r).dep = s.dep := rfl
@[simp] theorem setReducer_mem (s : State) (k : Nat) (r : Reducer) : (setReducer s k r).mem = s.mem := rfl
@[simp] theorem setReducer_scr (s : State) (k : Nat) (r : Reducer) : (setReducer s k r).scr = s.scr := rfl
@[simp] theorem setReducer_arrays (s : State) (k : Nat) (r : Reducer) : (setReducer s k r).arrays = s.arrays := rfl
@[simp] theorem setReducer_trowels (s : State) (k : Nat) (r : Reducer) : (setReducer s k r).trowels = s.trowels := rfl
@[simp] theorem setReducer_ustore (s : State) (k : Nat) (r : Reducer) : (setReducer s k r).ustore = s.ustore := rfl
@[simp] theorem setReducer_cmd (s : State) (k : Nat) (r : Reducer) : (setReducer s k r).cmd = s.cmd := rfl
@[simp] theorem setReducer_pci (s : State) (k : Nat) (r : Reducer) : (setReducer s k r).pci = s.pci := rfl
@[simp] theorem setReducer_dma (s : State) (k : Nat) (r : Reducer) : (setReducer s k r).dma = s.dma := rfl
@[simp] theorem setReducer_flt (s : State) (k : Nat) (r : Reducer) : (setReducer s k r).flt = s.flt := rfl
@[simp] theorem setReducer_itn (s : State) (k : Nat) (r : Reducer) : (setReducer s k r).itn = s.itn := rfl
@[simp] theorem setReducer_fab (s : State) (k : Nat) (r : Reducer) : (setReducer s k r).fab = s.fab := rfl
@[simp] theorem setReducer_sec (s : State) (k : Nat) (r : Reducer) : (setReducer s k r).sec = s.sec := rfl
@[simp] theorem setReducer_pwr (s : State) (k : Nat) (r : Reducer) : (setReducer s k r).pwr = s.pwr := rfl
@[simp] theorem setReducer_srv (s : State) (k : Nat) (r : Reducer) : (setReducer s k r).srv = s.srv := rfl
@[simp] theorem setReducer_engines (s : State) (k : Nat) (r : Reducer) : (setReducer s k r).engines = s.engines := rfl

@[simp] theorem setFlash_pending (s : State) (k : Nat) (b : List Byte) : (setFlash s k b).pending = s.pending := rfl
@[simp] theorem setFlash_variant (s : State) (k : Nat) (b : List Byte) : (setFlash s k b).variant = s.variant := rfl
@[simp] theorem setFlash_regs (s : State) (k : Nat) (b : List Byte) : (setFlash s k b).regs = s.regs := rfl
@[simp] theorem setFlash_bell (s : State) (k : Nat) (b : List Byte) : (setFlash s k b).bell = s.bell := rfl
@[simp] theorem setFlash_outbox (s : State) (k : Nat) (b : List Byte) : (setFlash s k b).outbox = s.outbox := rfl
@[simp] theorem setFlash_freeCtr (s : State) (k : Nat) (b : List Byte) : (setFlash s k b).freeCtr = s.freeCtr := rfl
@[simp] theorem setFlash_dep (s : State) (k : Nat) (b : List Byte) : (setFlash s k b).dep = s.dep := rfl
@[simp] theorem setFlash_mem (s : State) (k : Nat) (b : List Byte) : (setFlash s k b).mem = s.mem := rfl
@[simp] theorem setFlash_scr (s : State) (k : Nat) (b : List Byte) : (setFlash s k b).scr = s.scr := rfl
@[simp] theorem setFlash_arrays (s : State) (k : Nat) (b : List Byte) : (setFlash s k b).arrays = s.arrays := rfl
@[simp] theorem setFlash_trowels (s : State) (k : Nat) (b : List Byte) : (setFlash s k b).trowels = s.trowels := rfl
@[simp] theorem setFlash_ustore (s : State) (k : Nat) (b : List Byte) : (setFlash s k b).ustore = s.ustore := rfl
@[simp] theorem setFlash_reducers (s : State) (k : Nat) (b : List Byte) : (setFlash s k b).reducers = s.reducers := rfl
@[simp] theorem setFlash_cmd (s : State) (k : Nat) (b : List Byte) : (setFlash s k b).cmd = s.cmd := rfl
@[simp] theorem setFlash_pci (s : State) (k : Nat) (b : List Byte) : (setFlash s k b).pci = s.pci := rfl
@[simp] theorem setFlash_dma (s : State) (k : Nat) (b : List Byte) : (setFlash s k b).dma = s.dma := rfl
@[simp] theorem setFlash_flt (s : State) (k : Nat) (b : List Byte) : (setFlash s k b).flt = s.flt := rfl
@[simp] theorem setFlash_itn (s : State) (k : Nat) (b : List Byte) : (setFlash s k b).itn = s.itn := rfl
@[simp] theorem setFlash_fab (s : State) (k : Nat) (b : List Byte) : (setFlash s k b).fab = s.fab := rfl
@[simp] theorem setFlash_pwr (s : State) (k : Nat) (b : List Byte) : (setFlash s k b).pwr = s.pwr := rfl
@[simp] theorem setFlash_srv (s : State) (k : Nat) (b : List Byte) : (setFlash s k b).srv = s.srv := rfl
@[simp] theorem setFlash_engines (s : State) (k : Nat) (b : List Byte) : (setFlash s k b).engines = s.engines := rfl

end Sys2Proof.Machine
end

