-- ==== Sys2Proof/Laws/Registers.lean ====
section
/-!
SUPPORT. Registers: what a register and its fields read after a write of a register, a field, a bit or a counter.
-/
namespace Sys2Proof.Machine

/-! ### Bit fields of numbers -/

theorem bitsOf_lt (v lo w : Nat) : bitsOf v lo w < 2 ^ w := Nat.mod_lt _ (Nat.two_pow_pos w)

theorem bitsOf_eq (v lo w : Nat) : bitsOf v lo w = v / 2 ^ lo % 2 ^ w := by simp [bitsOf, Nat.shiftRight_eq_div_pow]

/-- A number cut at the two ends of a field. -/
theorem field_split (v lo w : Nat) : v = v % 2 ^ lo + (bitsOf v lo w + v / 2 ^ (lo + w) * 2 ^ w) * 2 ^ lo := by
  have h1 := Nat.div_add_mod v (2 ^ lo)
  have h2 := Nat.div_add_mod (v / 2 ^ lo) (2 ^ w)
  rw [bitsOf_eq, Nat.pow_add, ← Nat.div_div_eq_div_mul, Nat.add_comm (_ % 2 ^ w), Nat.mul_comm _ (2 ^ w), h2, Nat.mul_comm _ (2 ^ lo),
    Nat.add_comm, h1]

/-- The parts of a number whose field is replaced. -/
theorem setBits_split (v lo w x : Nat) : setBits v lo w x = v % 2 ^ lo + (x % 2 ^ w + v / 2 ^ (lo + w) * 2 ^ w) * 2 ^ lo := by
  have h := field_split v lo w
  have hb : bitsOf v lo w * 2 ^ lo ≤ v := by rw [h, ← h]; nlinarith [Nat.zero_le (v % 2 ^ lo), Nat.zero_le (v / 2 ^ (lo + w) * 2 ^ w * 2 ^ lo)]
  unfold setBits
  have : v = v % 2 ^ lo + v / 2 ^ (lo + w) * 2 ^ w * 2 ^ lo + bitsOf v lo w * 2 ^ lo := by nlinarith
  nlinarith [Nat.sub_add_cancel hb]

/-- The replaced field. -/
@[simp] theorem bitsOf_setBits_self (v lo w x : Nat) : bitsOf (setBits v lo w x) lo w = x % 2 ^ w := by
  have hl := Nat.mod_lt v (Nat.two_pow_pos lo)
  rw [bitsOf_eq, setBits_split, Nat.add_mul_div_right _ _ (Nat.two_pow_pos lo), Nat.div_eq_of_lt hl, Nat.zero_add,
    Nat.add_mul_mod_self_right, Nat.mod_mod]

/-- A field above the replaced one. -/
theorem bitsOf_setBits_above (v : Nat) {lo w lo2 : Nat} (w2 x : Nat) (h : lo + w ≤ lo2) :
    bitsOf (setBits v lo w x) lo2 w2 = bitsOf v lo2 w2 := by
  have key : setBits v lo w x / 2 ^ (lo + w) = v / 2 ^ (lo + w) := by
    have hl := Nat.mod_lt v (Nat.two_pow_pos lo)
    rw [setBits_split, Nat.pow_add 2 lo w, ← Nat.div_div_eq_div_mul, Nat.add_mul_div_right _ _ (Nat.two_pow_pos lo),
      Nat.div_eq_of_lt hl, Nat.zero_add, Nat.add_mul_div_right _ _ (Nat.two_pow_pos w),
      Nat.div_eq_of_lt (Nat.mod_lt x (Nat.two_pow_pos w)), Nat.zero_add]
  obtain ⟨d, rfl⟩ := Nat.exists_eq_add_of_le h
  rw [bitsOf_eq, bitsOf_eq, Nat.pow_add 2 (lo + w) d, ← Nat.div_div_eq_div_mul, ← Nat.div_div_eq_div_mul, key]

/-- A field below the replaced one. -/
theorem bitsOf_setBits_below (v : Nat) {lo w lo2 w2 : Nat} (x : Nat) (h : lo2 + w2 ≤ lo) :
    bitsOf (setBits v lo w x) lo2 w2 = bitsOf v lo2 w2 := by
  have key : setBits v lo w x % 2 ^ lo = v % 2 ^ lo := by
    rw [setBits_split, Nat.add_mul_mod_self_right, Nat.mod_mod]
  have cut : ∀ u : Nat, bitsOf u lo2 w2 = u % 2 ^ lo / 2 ^ lo2 % 2 ^ w2 := by
    intro u
    obtain ⟨d, rfl⟩ := Nat.exists_eq_add_of_le h
    rw [bitsOf_eq, show lo2 + w2 + d = lo2 + (w2 + d) by omega, Nat.pow_add 2 lo2, Nat.mod_mul_right_div_self,
      Nat.mod_mod_of_dvd _ (Nat.pow_dvd_pow 2 (by omega))]
  rw [cut, cut, key]

/-- A number of 64 bits stays one. -/
theorem setBits_lt {v lo w : Nat} (x : Nat) (hv : v < 2 ^ 64) (h : lo + w ≤ 64) : setBits v lo w x < 2 ^ 64 := by
  have e : setBits v lo w x / 2 ^ 64 = 0 := by
    have := bitsOf_setBits_above v (lo := lo) (w := w) (lo2 := 64) 64 x h
    have hlt : setBits v lo w x < 2 ^ 64 + 2 ^ 64 := by
      have hx := Nat.mod_lt x (Nat.two_pow_pos w)
      have h2 : (x % 2 ^ w) * 2 ^ lo < 2 ^ 64 := by
        calc (x % 2 ^ w) * 2 ^ lo < 2 ^ w * 2 ^ lo := Nat.mul_lt_mul_of_pos_right hx (Nat.two_pow_pos lo)
          _ = 2 ^ (lo + w) := by rw [← Nat.pow_add, Nat.add_comm]
          _ ≤ 2 ^ 64 := Nat.pow_le_pow_right (by omega) h
      unfold setBits
      omega
    rw [bitsOf_eq, bitsOf_eq, Nat.div_eq_of_lt hv] at this
    have h3 : setBits v lo w x / 2 ^ 64 < 2 := by omega
    rw [Nat.mod_eq_of_lt (lt_of_lt_of_le h3 (by norm_num))] at this
    simpa using this
  omega

theorem bitsOf_one (v i : Nat) : (bitsOf v i 1 = 1) = (bitAt v i = true) := by
  simp only [bitsOf_eq, bitAt, Nat.testBit_eq_decide_div_mod_eq, Nat.pow_one, decide_eq_true_eq]

/-! ### Registers -/

theorem reg_lt (s : State) (a : Nat) : reg s a < 2 ^ 64 := by
  unfold reg; exact BitVec.isLt _

/-- Any register after a write of one. -/
theorem reg_setReg (s : State) (a v b : Nat) : reg (setReg s a v) b = if b = a then v % 2 ^ 64 else reg s b := by
  simp only [reg, setReg]
  split_ifs with h
  · subst h; simp
  · rw [mgetD_mput_other _ _ _ _ h]

@[simp] theorem reg_setReg_self (s : State) (a v : Nat) : reg (setReg s a v) a = v % 2 ^ 64 := by simp [reg_setReg]
theorem reg_setReg_other (s : State) {a b : Nat} (v : Nat) (h : b ≠ a) : reg (setReg s a v) b = reg s b := by simp [reg_setReg, h]

theorem reg_setField_other (s : State) {a b : Nat} (lo w v : Nat) (h : b ≠ a) : reg (setField s a lo w v) b = reg s b :=
  reg_setReg_other s _ h
theorem reg_setRegBit_other (s : State) {a b : Nat} (i : Nat) (h : b ≠ a) : reg (setRegBit s a i) b = reg s b :=
  reg_setReg_other s _ h
theorem reg_bump_other (s : State) {a b : Nat} (lo w n : Nat) (h : b ≠ a) : reg (bump s a lo w n) b = reg s b :=
  reg_setReg_other s _ h

theorem reg_setField_self (s : State) {a lo w : Nat} (v : Nat) (h : lo + w ≤ 64) :
    reg (setField s a lo w v) a = setBits (reg s a) lo w v := by
  simp only [setField, reg_setReg_self]
  exact Nat.mod_eq_of_lt (setBits_lt v (reg_lt s a) h)

/-- The field that a write replaces. -/
theorem regField_setField_self (s : State) {a lo w : Nat} (v : Nat) (h : lo + w ≤ 64) :
    regField (setField s a lo w v) a lo w = v % 2 ^ w := by
  simp [regField, reg_setField_self s v h]

/-- The other fields of the register. -/
theorem regField_setField_apart (s : State) {a lo w lo2 w2 : Nat} (v : Nat) (h : lo + w ≤ 64)
    (hd : lo + w ≤ lo2 ∨ lo2 + w2 ≤ lo) : regField (setField s a lo w v) a lo2 w2 = regField s a lo2 w2 := by
  simp only [regField, reg_setField_self s v h]
  rcases hd with hd | hd
  · exact bitsOf_setBits_above _ w2 v hd
  · exact bitsOf_setBits_below _ v hd

theorem regField_setField_other (s : State) {a b : Nat} (lo w v lo2 w2 : Nat) (h : b ≠ a) :
    regField (setField s a lo w v) b lo2 w2 = regField s b lo2 w2 := by
  simp [regField, reg_setField_other s lo w v h]

/-- The bit that is set. -/
theorem regBit_setRegBit_self (s : State) {a i : Nat} (h : i < 64) : regBit (setRegBit s a i) a i = true := by
  have := regField_setField_self s (a := a) (lo := i) (w := 1) 1 (by omega)
  rw [regField] at this
  exact (bitsOf_one _ _).mp (by simpa [setRegBit] using this)

/-- A register whose entry is not listed holds its reset value. -/
theorem reg_unlisted {s : State} {a : Nat} (h : mget s.regs a = none) : reg s a = regReset s.variant a % 2 ^ 64 := by
  simp [reg, mgetD, h]

end Sys2Proof.Machine
end

