-- ==== Sys2Proof/Laws/Ops.lean ====
section
/-!
SUPPORT. Everything that the shared operations of Ops.lean can change: one frame per operation, and from it the fields
that the operation leaves alone.
-/
namespace Sys2Proof.Machine

/-- Two changes of the same fields in turn. -/
theorem chain {s t u : State} (h : { u with cmd := t.cmd, outbox := t.outbox, pci := t.pci } = t) (h2 : { t with cmd := s.cmd, outbox := s.outbox, pci := s.pci } = s) :
    { u with cmd := s.cmd, outbox := s.outbox, pci := s.pci } = s :=
  (congrArg (fun x : State => { x with cmd := s.cmd, outbox := s.outbox, pci := s.pci }) h).trans h2

/-- Two changes of the same fields in turn. -/
theorem chainR {s t u : State} (h : { u with regs := t.regs } = t) (h2 : { t with regs := s.regs } = s) :
    { u with regs := s.regs } = s :=
  (congrArg (fun x : State => { x with regs := s.regs }) h).trans h2

/-- A message after a change of the command state. -/
theorem chainS {s t u : State} (h : { u with outbox := t.outbox, pci := t.pci } = t)
    (h2 : { t with cmd := s.cmd, outbox := s.outbox, pci := s.pci } = s) :
    { u with cmd := s.cmd, outbox := s.outbox, pci := s.pci } = s :=
  (congrArg (fun x : State => { x with cmd := s.cmd, outbox := s.outbox, pci := s.pci }) h).trans h2

/-- A change of what replies change, after one that may also change the depot. -/
theorem chainD {s t u : State} (h : { u with cmd := t.cmd, outbox := t.outbox, pci := t.pci } = t)
    (h2 : { t with cmd := s.cmd, outbox := s.outbox, pci := s.pci, dep := s.dep } = s) :
    { u with cmd := s.cmd, outbox := s.outbox, pci := s.pci, dep := s.dep } = s :=
  (congrArg (fun x : State => { x with cmd := s.cmd, outbox := s.outbox, pci := s.pci, dep := s.dep }) h).trans h2

theorem emitMsix_frame (s : State) (fn vec : Nat) : { emitMsix s fn vec with outbox := s.outbox } = s := rfl
@[simp] theorem emitMsix_pending (s : State) (fn vec : Nat) : (emitMsix s fn vec).pending = s.pending := by have h := congrArg State.pending (emitMsix_frame s fn vec); exact h
@[simp] theorem emitMsix_variant (s : State) (fn vec : Nat) : (emitMsix s fn vec).variant = s.variant := by have h := congrArg State.variant (emitMsix_frame s fn vec); exact h
@[simp] theorem emitMsix_regs (s : State) (fn vec : Nat) : (emitMsix s fn vec).regs = s.regs := by have h := congrArg State.regs (emitMsix_frame s fn vec); exact h
@[simp] theorem emitMsix_bell (s : State) (fn vec : Nat) : (emitMsix s fn vec).bell = s.bell := by have h := congrArg State.bell (emitMsix_frame s fn vec); exact h
@[simp] theorem emitMsix_freeCtr (s : State) (fn vec : Nat) : (emitMsix s fn vec).freeCtr = s.freeCtr := by have h := congrArg State.freeCtr (emitMsix_frame s fn vec); exact h
@[simp] theorem emitMsix_dep (s : State) (fn vec : Nat) : (emitMsix s fn vec).dep = s.dep := by have h := congrArg State.dep (emitMsix_frame s fn vec); exact h
@[simp] theorem emitMsix_mem (s : State) (fn vec : Nat) : (emitMsix s fn vec).mem = s.mem := by have h := congrArg State.mem (emitMsix_frame s fn vec); exact h
@[simp] theorem emitMsix_scr (s : State) (fn vec : Nat) : (emitMsix s fn vec).scr = s.scr := by have h := congrArg State.scr (emitMsix_frame s fn vec); exact h
@[simp] theorem emitMsix_arrays (s : State) (fn vec : Nat) : (emitMsix s fn vec).arrays = s.arrays := by have h := congrArg State.arrays (emitMsix_frame s fn vec); exact h
@[simp] theorem emitMsix_trowels (s : State) (fn vec : Nat) : (emitMsix s fn vec).trowels = s.trowels := by have h := congrArg State.trowels (emitMsix_frame s fn vec); exact h
@[simp] theorem emitMsix_ustore (s : State) (fn vec : Nat) : (emitMsix s fn vec).ustore = s.ustore := by have h := congrArg State.ustore (emitMsix_frame s fn vec); exact h
@[simp] theorem emitMsix_reducers (s : State) (fn vec : Nat) : (emitMsix s fn vec).reducers = s.reducers := by have h := congrArg State.reducers (emitMsix_frame s fn vec); exact h
@[simp] theorem emitMsix_cmd (s : State) (fn vec : Nat) : (emitMsix s fn vec).cmd = s.cmd := by have h := congrArg State.cmd (emitMsix_frame s fn vec); exact h
@[simp] theorem emitMsix_pci (s : State) (fn vec : Nat) : (emitMsix s fn vec).pci = s.pci := by have h := congrArg State.pci (emitMsix_frame s fn vec); exact h
@[simp] theorem emitMsix_dma (s : State) (fn vec : Nat) : (emitMsix s fn vec).dma = s.dma := by have h := congrArg State.dma (emitMsix_frame s fn vec); exact h
@[simp] theorem emitMsix_flt (s : State) (fn vec : Nat) : (emitMsix s fn vec).flt = s.flt := by have h := congrArg State.flt (emitMsix_frame s fn vec); exact h
@[simp] theorem emitMsix_itn (s : State) (fn vec : Nat) : (emitMsix s fn vec).itn = s.itn := by have h := congrArg State.itn (emitMsix_frame s fn vec); exact h
@[simp] theorem emitMsix_fab (s : State) (fn vec : Nat) : (emitMsix s fn vec).fab = s.fab := by have h := congrArg State.fab (emitMsix_frame s fn vec); exact h
@[simp] theorem emitMsix_sec (s : State) (fn vec : Nat) : (emitMsix s fn vec).sec = s.sec := by have h := congrArg State.sec (emitMsix_frame s fn vec); exact h
@[simp] theorem emitMsix_pwr (s : State) (fn vec : Nat) : (emitMsix s fn vec).pwr = s.pwr := by have h := congrArg State.pwr (emitMsix_frame s fn vec); exact h
@[simp] theorem emitMsix_srv (s : State) (fn vec : Nat) : (emitMsix s fn vec).srv = s.srv := by have h := congrArg State.srv (emitMsix_frame s fn vec); exact h
@[simp] theorem emitMsix_engines (s : State) (fn vec : Nat) : (emitMsix s fn vec).engines = s.engines := by have h := congrArg State.engines (emitMsix_frame s fn vec); exact h

theorem sendMsix_frame (s : State) (fn vec : Nat) : { sendMsix s fn vec with outbox := s.outbox, pci := s.pci } = s := by unfold sendMsix; split <;> rfl
@[simp] theorem sendMsix_pending (s : State) (fn vec : Nat) : (sendMsix s fn vec).pending = s.pending := by have h := congrArg State.pending (sendMsix_frame s fn vec); exact h
@[simp] theorem sendMsix_variant (s : State) (fn vec : Nat) : (sendMsix s fn vec).variant = s.variant := by have h := congrArg State.variant (sendMsix_frame s fn vec); exact h
@[simp] theorem sendMsix_regs (s : State) (fn vec : Nat) : (sendMsix s fn vec).regs = s.regs := by have h := congrArg State.regs (sendMsix_frame s fn vec); exact h
@[simp] theorem sendMsix_bell (s : State) (fn vec : Nat) : (sendMsix s fn vec).bell = s.bell := by have h := congrArg State.bell (sendMsix_frame s fn vec); exact h
@[simp] theorem sendMsix_freeCtr (s : State) (fn vec : Nat) : (sendMsix s fn vec).freeCtr = s.freeCtr := by have h := congrArg State.freeCtr (sendMsix_frame s fn vec); exact h
@[simp] theorem sendMsix_dep (s : State) (fn vec : Nat) : (sendMsix s fn vec).dep = s.dep := by have h := congrArg State.dep (sendMsix_frame s fn vec); exact h
@[simp] theorem sendMsix_mem (s : State) (fn vec : Nat) : (sendMsix s fn vec).mem = s.mem := by have h := congrArg State.mem (sendMsix_frame s fn vec); exact h
@[simp] theorem sendMsix_scr (s : State) (fn vec : Nat) : (sendMsix s fn vec).scr = s.scr := by have h := congrArg State.scr (sendMsix_frame s fn vec); exact h
@[simp] theorem sendMsix_arrays (s : State) (fn vec : Nat) : (sendMsix s fn vec).arrays = s.arrays := by have h := congrArg State.arrays (sendMsix_frame s fn vec); exact h
@[simp] theorem sendMsix_trowels (s : State) (fn vec : Nat) : (sendMsix s fn vec).trowels = s.trowels := by have h := congrArg State.trowels (sendMsix_frame s fn vec); exact h
@[simp] theorem sendMsix_ustore (s : State) (fn vec : Nat) : (sendMsix s fn vec).ustore = s.ustore := by have h := congrArg State.ustore (sendMsix_frame s fn vec); exact h
@[simp] theorem sendMsix_reducers (s : State) (fn vec : Nat) : (sendMsix s fn vec).reducers = s.reducers := by have h := congrArg State.reducers (sendMsix_frame s fn vec); exact h
@[simp] theorem sendMsix_cmd (s : State) (fn vec : Nat) : (sendMsix s fn vec).cmd = s.cmd := by have h := congrArg State.cmd (sendMsix_frame s fn vec); exact h
@[simp] theorem sendMsix_dma (s : State) (fn vec : Nat) : (sendMsix s fn vec).dma = s.dma := by have h := congrArg State.dma (sendMsix_frame s fn vec); exact h
@[simp] theorem sendMsix_flt (s : State) (fn vec : Nat) : (sendMsix s fn vec).flt = s.flt := by have h := congrArg State.flt (sendMsix_frame s fn vec); exact h
@[simp] theorem sendMsix_itn (s : State) (fn vec : Nat) : (sendMsix s fn vec).itn = s.itn := by have h := congrArg State.itn (sendMsix_frame s fn vec); exact h
@[simp] theorem sendMsix_fab (s : State) (fn vec : Nat) : (sendMsix s fn vec).fab = s.fab := by have h := congrArg State.fab (sendMsix_frame s fn vec); exact h
@[simp] theorem sendMsix_sec (s : State) (fn vec : Nat) : (sendMsix s fn vec).sec = s.sec := by have h := congrArg State.sec (sendMsix_frame s fn vec); exact h
@[simp] theorem sendMsix_pwr (s : State) (fn vec : Nat) : (sendMsix s fn vec).pwr = s.pwr := by have h := congrArg State.pwr (sendMsix_frame s fn vec); exact h
@[simp] theorem sendMsix_srv (s : State) (fn vec : Nat) : (sendMsix s fn vec).srv = s.srv := by have h := congrArg State.srv (sendMsix_frame s fn vec); exact h
@[simp] theorem sendMsix_engines (s : State) (fn vec : Nat) : (sendMsix s fn vec).engines = s.engines := by have h := congrArg State.engines (sendMsix_frame s fn vec); exact h

theorem writeReply_frame (s : State) (n : Nat) (q : CQueue) (r : Reply) : { writeReply s n q r with cmd := s.cmd, outbox := s.outbox, pci := s.pci } = s := by
  unfold writeReply
  dsimp only
  split
  · rfl
  · exact chainS (sendMsix_frame _ _ _) rfl
@[simp] theorem writeReply_pending (s : State) (n : Nat) (q : CQueue) (r : Reply) : (writeReply s n q r).pending = s.pending := by have h := congrArg State.pending (writeReply_frame s n q r); exact h
@[simp] theorem writeReply_variant (s : State) (n : Nat) (q : CQueue) (r : Reply) : (writeReply s n q r).variant = s.variant := by have h := congrArg State.variant (writeReply_frame s n q r); exact h
@[simp] theorem writeReply_regs (s : State) (n : Nat) (q : CQueue) (r : Reply) : (writeReply s n q r).regs = s.regs := by have h := congrArg State.regs (writeReply_frame s n q r); exact h
@[simp] theorem writeReply_bell (s : State) (n : Nat) (q : CQueue) (r : Reply) : (writeReply s n q r).bell = s.bell := by have h := congrArg State.bell (writeReply_frame s n q r); exact h
@[simp] theorem writeReply_freeCtr (s : State) (n : Nat) (q : CQueue) (r : Reply) : (writeReply s n q r).freeCtr = s.freeCtr := by have h := congrArg State.freeCtr (writeReply_frame s n q r); exact h
@[simp] theorem writeReply_dep (s : State) (n : Nat) (q : CQueue) (r : Reply) : (writeReply s n q r).dep = s.dep := by have h := congrArg State.dep (writeReply_frame s n q r); exact h
@[simp] theorem writeReply_mem (s : State) (n : Nat) (q : CQueue) (r : Reply) : (writeReply s n q r).mem = s.mem := by have h := congrArg State.mem (writeReply_frame s n q r); exact h
@[simp] theorem writeReply_scr (s : State) (n : Nat) (q : CQueue) (r : Reply) : (writeReply s n q r).scr = s.scr := by have h := congrArg State.scr (writeReply_frame s n q r); exact h
@[simp] theorem writeReply_arrays (s : State) (n : Nat) (q : CQueue) (r : Reply) : (writeReply s n q r).arrays = s.arrays := by have h := congrArg State.arrays (writeReply_frame s n q r); exact h
@[simp] theorem writeReply_trowels (s : State) (n : Nat) (q : CQueue) (r : Reply) : (writeReply s n q r).trowels = s.trowels := by have h := congrArg State.trowels (writeReply_frame s n q r); exact h
@[simp] theorem writeReply_ustore (s : State) (n : Nat) (q : CQueue) (r : Reply) : (writeReply s n q r).ustore = s.ustore := by have h := congrArg State.ustore (writeReply_frame s n q r); exact h
@[simp] theorem writeReply_reducers (s : State) (n : Nat) (q : CQueue) (r : Reply) : (writeReply s n q r).reducers = s.reducers := by have h := congrArg State.reducers (writeReply_frame s n q r); exact h
@[simp] theorem writeReply_dma (s : State) (n : Nat) (q : CQueue) (r : Reply) : (writeReply s n q r).dma = s.dma := by have h := congrArg State.dma (writeReply_frame s n q r); exact h
@[simp] theorem writeReply_flt (s : State) (n : Nat) (q : CQueue) (r : Reply) : (writeReply s n q r).flt = s.flt := by have h := congrArg State.flt (writeReply_frame s n q r); exact h
@[simp] theorem writeReply_itn (s : State) (n : Nat) (q : CQueue) (r : Reply) : (writeReply s n q r).itn = s.itn := by have h := congrArg State.itn (writeReply_frame s n q r); exact h
@[simp] theorem writeReply_fab (s : State) (n : Nat) (q : CQueue) (r : Reply) : (writeReply s n q r).fab = s.fab := by have h := congrArg State.fab (writeReply_frame s n q r); exact h
@[simp] theorem writeReply_sec (s : State) (n : Nat) (q : CQueue) (r : Reply) : (writeReply s n q r).sec = s.sec := by have h := congrArg State.sec (writeReply_frame s n q r); exact h
@[simp] theorem writeReply_pwr (s : State) (n : Nat) (q : CQueue) (r : Reply) : (writeReply s n q r).pwr = s.pwr := by have h := congrArg State.pwr (writeReply_frame s n q r); exact h
@[simp] theorem writeReply_srv (s : State) (n : Nat) (q : CQueue) (r : Reply) : (writeReply s n q r).srv = s.srv := by have h := congrArg State.srv (writeReply_frame s n q r); exact h
@[simp] theorem writeReply_engines (s : State) (n : Nat) (q : CQueue) (r : Reply) : (writeReply s n q r).engines = s.engines := by have h := congrArg State.engines (writeReply_frame s n q r); exact h

theorem postReply_frame (s : State) (n : Nat) (r : Reply) : { postReply s n r with cmd := s.cmd, outbox := s.outbox, pci := s.pci } = s := by
  unfold postReply
  split
  · rfl
  · split
    · rfl
    · exact writeReply_frame _ _ _ _
@[simp] theorem postReply_pending (s : State) (n : Nat) (r : Reply) : (postReply s n r).pending = s.pending := by have h := congrArg State.pending (postReply_frame s n r); exact h
@[simp] theorem postReply_variant (s : State) (n : Nat) (r : Reply) : (postReply s n r).variant = s.variant := by have h := congrArg State.variant (postReply_frame s n r); exact h
@[simp] theorem postReply_regs (s : State) (n : Nat) (r : Reply) : (postReply s n r).regs = s.regs := by have h := congrArg State.regs (postReply_frame s n r); exact h
@[simp] theorem postReply_bell (s : State) (n : Nat) (r : Reply) : (postReply s n r).bell = s.bell := by have h := congrArg State.bell (postReply_frame s n r); exact h
@[simp] theorem postReply_freeCtr (s : State) (n : Nat) (r : Reply) : (postReply s n r).freeCtr = s.freeCtr := by have h := congrArg State.freeCtr (postReply_frame s n r); exact h
@[simp] theorem postReply_dep (s : State) (n : Nat) (r : Reply) : (postReply s n r).dep = s.dep := by have h := congrArg State.dep (postReply_frame s n r); exact h
@[simp] theorem postReply_mem (s : State) (n : Nat) (r : Reply) : (postReply s n r).mem = s.mem := by have h := congrArg State.mem (postReply_frame s n r); exact h
@[simp] theorem postReply_scr (s : State) (n : Nat) (r : Reply) : (postReply s n r).scr = s.scr := by have h := congrArg State.scr (postReply_frame s n r); exact h
@[simp] theorem postReply_arrays (s : State) (n : Nat) (r : Reply) : (postReply s n r).arrays = s.arrays := by have h := congrArg State.arrays (postReply_frame s n r); exact h
@[simp] theorem postReply_trowels (s : State) (n : Nat) (r : Reply) : (postReply s n r).trowels = s.trowels := by have h := congrArg State.trowels (postReply_frame s n r); exact h
@[simp] theorem postReply_ustore (s : State) (n : Nat) (r : Reply) : (postReply s n r).ustore = s.ustore := by have h := congrArg State.ustore (postReply_frame s n r); exact h
@[simp] theorem postReply_reducers (s : State) (n : Nat) (r : Reply) : (postReply s n r).reducers = s.reducers := by have h := congrArg State.reducers (postReply_frame s n r); exact h
@[simp] theorem postReply_dma (s : State) (n : Nat) (r : Reply) : (postReply s n r).dma = s.dma := by have h := congrArg State.dma (postReply_frame s n r); exact h
@[simp] theorem postReply_flt (s : State) (n : Nat) (r : Reply) : (postReply s n r).flt = s.flt := by have h := congrArg State.flt (postReply_frame s n r); exact h
@[simp] theorem postReply_itn (s : State) (n : Nat) (r : Reply) : (postReply s n r).itn = s.itn := by have h := congrArg State.itn (postReply_frame s n r); exact h
@[simp] theorem postReply_fab (s : State) (n : Nat) (r : Reply) : (postReply s n r).fab = s.fab := by have h := congrArg State.fab (postReply_frame s n r); exact h
@[simp] theorem postReply_sec (s : State) (n : Nat) (r : Reply) : (postReply s n r).sec = s.sec := by have h := congrArg State.sec (postReply_frame s n r); exact h
@[simp] theorem postReply_pwr (s : State) (n : Nat) (r : Reply) : (postReply s n r).pwr = s.pwr := by have h := congrArg State.pwr (postReply_frame s n r); exact h
@[simp] theorem postReply_srv (s : State) (n : Nat) (r : Reply) : (postReply s n r).srv = s.srv := by have h := congrArg State.srv (postReply_frame s n r); exact h
@[simp] theorem postReply_engines (s : State) (n : Nat) (r : Reply) : (postReply s n r).engines = s.engines := by have h := congrArg State.engines (postReply_frame s n r); exact h

theorem deliverEvent_frame (s : State) (fn : Nat) : { deliverEvent s fn with cmd := s.cmd, outbox := s.outbox, pci := s.pci } = s := by
  unfold deliverEvent
  split
  · exact chain (postReply_frame _ _ _) rfl
  · rfl
@[simp] theorem deliverEvent_pending (s : State) (fn : Nat) : (deliverEvent s fn).pending = s.pending := by have h := congrArg State.pending (deliverEvent_frame s fn); exact h
@[simp] theorem deliverEvent_variant (s : State) (fn : Nat) : (deliverEvent s fn).variant = s.variant := by have h := congrArg State.variant (deliverEvent_frame s fn); exact h
@[simp] theorem deliverEvent_regs (s : State) (fn : Nat) : (deliverEvent s fn).regs = s.regs := by have h := congrArg State.regs (deliverEvent_frame s fn); exact h
@[simp] theorem deliverEvent_bell (s : State) (fn : Nat) : (deliverEvent s fn).bell = s.bell := by have h := congrArg State.bell (deliverEvent_frame s fn); exact h
@[simp] theorem deliverEvent_freeCtr (s : State) (fn : Nat) : (deliverEvent s fn).freeCtr = s.freeCtr := by have h := congrArg State.freeCtr (deliverEvent_frame s fn); exact h
@[simp] theorem deliverEvent_dep (s : State) (fn : Nat) : (deliverEvent s fn).dep = s.dep := by have h := congrArg State.dep (deliverEvent_frame s fn); exact h
@[simp] theorem deliverEvent_mem (s : State) (fn : Nat) : (deliverEvent s fn).mem = s.mem := by have h := congrArg State.mem (deliverEvent_frame s fn); exact h
@[simp] theorem deliverEvent_scr (s : State) (fn : Nat) : (deliverEvent s fn).scr = s.scr := by have h := congrArg State.scr (deliverEvent_frame s fn); exact h
@[simp] theorem deliverEvent_arrays (s : State) (fn : Nat) : (deliverEvent s fn).arrays = s.arrays := by have h := congrArg State.arrays (deliverEvent_frame s fn); exact h
@[simp] theorem deliverEvent_trowels (s : State) (fn : Nat) : (deliverEvent s fn).trowels = s.trowels := by have h := congrArg State.trowels (deliverEvent_frame s fn); exact h
@[simp] theorem deliverEvent_ustore (s : State) (fn : Nat) : (deliverEvent s fn).ustore = s.ustore := by have h := congrArg State.ustore (deliverEvent_frame s fn); exact h
@[simp] theorem deliverEvent_reducers (s : State) (fn : Nat) : (deliverEvent s fn).reducers = s.reducers := by have h := congrArg State.reducers (deliverEvent_frame s fn); exact h
@[simp] theorem deliverEvent_dma (s : State) (fn : Nat) : (deliverEvent s fn).dma = s.dma := by have h := congrArg State.dma (deliverEvent_frame s fn); exact h
@[simp] theorem deliverEvent_flt (s : State) (fn : Nat) : (deliverEvent s fn).flt = s.flt := by have h := congrArg State.flt (deliverEvent_frame s fn); exact h
@[simp] theorem deliverEvent_itn (s : State) (fn : Nat) : (deliverEvent s fn).itn = s.itn := by have h := congrArg State.itn (deliverEvent_frame s fn); exact h
@[simp] theorem deliverEvent_fab (s : State) (fn : Nat) : (deliverEvent s fn).fab = s.fab := by have h := congrArg State.fab (deliverEvent_frame s fn); exact h
@[simp] theorem deliverEvent_sec (s : State) (fn : Nat) : (deliverEvent s fn).sec = s.sec := by have h := congrArg State.sec (deliverEvent_frame s fn); exact h
@[simp] theorem deliverEvent_pwr (s : State) (fn : Nat) : (deliverEvent s fn).pwr = s.pwr := by have h := congrArg State.pwr (deliverEvent_frame s fn); exact h
@[simp] theorem deliverEvent_srv (s : State) (fn : Nat) : (deliverEvent s fn).srv = s.srv := by have h := congrArg State.srv (deliverEvent_frame s fn); exact h
@[simp] theorem deliverEvent_engines (s : State) (fn : Nat) : (deliverEvent s fn).engines = s.engines := by have h := congrArg State.engines (deliverEvent_frame s fn); exact h

theorem eventAt_frame (s : State) (fn code inst : Nat) : { eventAt s fn code inst with cmd := s.cmd, outbox := s.outbox, pci := s.pci } = s := by
  unfold eventAt
  exact chain (deliverEvent_frame _ _) rfl
@[simp] theorem eventAt_pending (s : State) (fn code inst : Nat) : (eventAt s fn code inst).pending = s.pending := by have h := congrArg State.pending (eventAt_frame s fn code inst); exact h
@[simp] theorem eventAt_variant (s : State) (fn code inst : Nat) : (eventAt s fn code inst).variant = s.variant := by have h := congrArg State.variant (eventAt_frame s fn code inst); exact h
@[simp] theorem eventAt_regs (s : State) (fn code inst : Nat) : (eventAt s fn code inst).regs = s.regs := by have h := congrArg State.regs (eventAt_frame s fn code inst); exact h
@[simp] theorem eventAt_bell (s : State) (fn code inst : Nat) : (eventAt s fn code inst).bell = s.bell := by have h := congrArg State.bell (eventAt_frame s fn code inst); exact h
@[simp] theorem eventAt_freeCtr (s : State) (fn code inst : Nat) : (eventAt s fn code inst).freeCtr = s.freeCtr := by have h := congrArg State.freeCtr (eventAt_frame s fn code inst); exact h
@[simp] theorem eventAt_dep (s : State) (fn code inst : Nat) : (eventAt s fn code inst).dep = s.dep := by have h := congrArg State.dep (eventAt_frame s fn code inst); exact h
@[simp] theorem eventAt_mem (s : State) (fn code inst : Nat) : (eventAt s fn code inst).mem = s.mem := by have h := congrArg State.mem (eventAt_frame s fn code inst); exact h
@[simp] theorem eventAt_scr (s : State) (fn code inst : Nat) : (eventAt s fn code inst).scr = s.scr := by have h := congrArg State.scr (eventAt_frame s fn code inst); exact h
@[simp] theorem eventAt_arrays (s : State) (fn code inst : Nat) : (eventAt s fn code inst).arrays = s.arrays := by have h := congrArg State.arrays (eventAt_frame s fn code inst); exact h
@[simp] theorem eventAt_trowels (s : State) (fn code inst : Nat) : (eventAt s fn code inst).trowels = s.trowels := by have h := congrArg State.trowels (eventAt_frame s fn code inst); exact h
@[simp] theorem eventAt_ustore (s : State) (fn code inst : Nat) : (eventAt s fn code inst).ustore = s.ustore := by have h := congrArg State.ustore (eventAt_frame s fn code inst); exact h
@[simp] theorem eventAt_reducers (s : State) (fn code inst : Nat) : (eventAt s fn code inst).reducers = s.reducers := by have h := congrArg State.reducers (eventAt_frame s fn code inst); exact h
@[simp] theorem eventAt_dma (s : State) (fn code inst : Nat) : (eventAt s fn code inst).dma = s.dma := by have h := congrArg State.dma (eventAt_frame s fn code inst); exact h
@[simp] theorem eventAt_flt (s : State) (fn code inst : Nat) : (eventAt s fn code inst).flt = s.flt := by have h := congrArg State.flt (eventAt_frame s fn code inst); exact h
@[simp] theorem eventAt_itn (s : State) (fn code inst : Nat) : (eventAt s fn code inst).itn = s.itn := by have h := congrArg State.itn (eventAt_frame s fn code inst); exact h
@[simp] theorem eventAt_fab (s : State) (fn code inst : Nat) : (eventAt s fn code inst).fab = s.fab := by have h := congrArg State.fab (eventAt_frame s fn code inst); exact h
@[simp] theorem eventAt_sec (s : State) (fn code inst : Nat) : (eventAt s fn code inst).sec = s.sec := by have h := congrArg State.sec (eventAt_frame s fn code inst); exact h
@[simp] theorem eventAt_pwr (s : State) (fn code inst : Nat) : (eventAt s fn code inst).pwr = s.pwr := by have h := congrArg State.pwr (eventAt_frame s fn code inst); exact h
@[simp] theorem eventAt_srv (s : State) (fn code inst : Nat) : (eventAt s fn code inst).srv = s.srv := by have h := congrArg State.srv (eventAt_frame s fn code inst); exact h
@[simp] theorem eventAt_engines (s : State) (fn code inst : Nat) : (eventAt s fn code inst).engines = s.engines := by have h := congrArg State.engines (eventAt_frame s fn code inst); exact h

theorem raiseEvent_frame (s : State) (code inst : Nat) : { raiseEvent s code inst with cmd := s.cmd, outbox := s.outbox, pci := s.pci } = s := eventAt_frame _ _ _ _
@[simp] theorem raiseEvent_pending (s : State) (code inst : Nat) : (raiseEvent s code inst).pending = s.pending := by have h := congrArg State.pending (raiseEvent_frame s code inst); exact h
@[simp] theorem raiseEvent_variant (s : State) (code inst : Nat) : (raiseEvent s code inst).variant = s.variant := by have h := congrArg State.variant (raiseEvent_frame s code inst); exact h
@[simp] theorem raiseEvent_regs (s : State) (code inst : Nat) : (raiseEvent s code inst).regs = s.regs := by have h := congrArg State.regs (raiseEvent_frame s code inst); exact h
@[simp] theorem raiseEvent_bell (s : State) (code inst : Nat) : (raiseEvent s code inst).bell = s.bell := by have h := congrArg State.bell (raiseEvent_frame s code inst); exact h
@[simp] theorem raiseEvent_freeCtr (s : State) (code inst : Nat) : (raiseEvent s code inst).freeCtr = s.freeCtr := by have h := congrArg State.freeCtr (raiseEvent_frame s code inst); exact h
@[simp] theorem raiseEvent_dep (s : State) (code inst : Nat) : (raiseEvent s code inst).dep = s.dep := by have h := congrArg State.dep (raiseEvent_frame s code inst); exact h
@[simp] theorem raiseEvent_mem (s : State) (code inst : Nat) : (raiseEvent s code inst).mem = s.mem := by have h := congrArg State.mem (raiseEvent_frame s code inst); exact h
@[simp] theorem raiseEvent_scr (s : State) (code inst : Nat) : (raiseEvent s code inst).scr = s.scr := by have h := congrArg State.scr (raiseEvent_frame s code inst); exact h
@[simp] theorem raiseEvent_arrays (s : State) (code inst : Nat) : (raiseEvent s code inst).arrays = s.arrays := by have h := congrArg State.arrays (raiseEvent_frame s code inst); exact h
@[simp] theorem raiseEvent_trowels (s : State) (code inst : Nat) : (raiseEvent s code inst).trowels = s.trowels := by have h := congrArg State.trowels (raiseEvent_frame s code inst); exact h
@[simp] theorem raiseEvent_ustore (s : State) (code inst : Nat) : (raiseEvent s code inst).ustore = s.ustore := by have h := congrArg State.ustore (raiseEvent_frame s code inst); exact h
@[simp] theorem raiseEvent_reducers (s : State) (code inst : Nat) : (raiseEvent s code inst).reducers = s.reducers := by have h := congrArg State.reducers (raiseEvent_frame s code inst); exact h
@[simp] theorem raiseEvent_dma (s : State) (code inst : Nat) : (raiseEvent s code inst).dma = s.dma := by have h := congrArg State.dma (raiseEvent_frame s code inst); exact h
@[simp] theorem raiseEvent_flt (s : State) (code inst : Nat) : (raiseEvent s code inst).flt = s.flt := by have h := congrArg State.flt (raiseEvent_frame s code inst); exact h
@[simp] theorem raiseEvent_itn (s : State) (code inst : Nat) : (raiseEvent s code inst).itn = s.itn := by have h := congrArg State.itn (raiseEvent_frame s code inst); exact h
@[simp] theorem raiseEvent_fab (s : State) (code inst : Nat) : (raiseEvent s code inst).fab = s.fab := by have h := congrArg State.fab (raiseEvent_frame s code inst); exact h
@[simp] theorem raiseEvent_sec (s : State) (code inst : Nat) : (raiseEvent s code inst).sec = s.sec := by have h := congrArg State.sec (raiseEvent_frame s code inst); exact h
@[simp] theorem raiseEvent_pwr (s : State) (code inst : Nat) : (raiseEvent s code inst).pwr = s.pwr := by have h := congrArg State.pwr (raiseEvent_frame s code inst); exact h
@[simp] theorem raiseEvent_srv (s : State) (code inst : Nat) : (raiseEvent s code inst).srv = s.srv := by have h := congrArg State.srv (raiseEvent_frame s code inst); exact h
@[simp] theorem raiseEvent_engines (s : State) (code inst : Nat) : (raiseEvent s code inst).engines = s.engines := by have h := congrArg State.engines (raiseEvent_frame s code inst); exact h

theorem raiseIf_frame (s : State) (a b code inst : Nat) : { raiseIf s a b code inst with cmd := s.cmd, outbox := s.outbox, pci := s.pci } = s := by
  unfold raiseIf
  split
  · exact raiseEvent_frame _ _ _
  · rfl
@[simp] theorem raiseIf_pending (s : State) (a b code inst : Nat) : (raiseIf s a b code inst).pending = s.pending := by have h := congrArg State.pending (raiseIf_frame s a b code inst); exact h
@[simp] theorem raiseIf_variant (s : State) (a b code inst : Nat) : (raiseIf s a b code inst).variant = s.variant := by have h := congrArg State.variant (raiseIf_frame s a b code inst); exact h
@[simp] theorem raiseIf_regs (s : State) (a b code inst : Nat) : (raiseIf s a b code inst).regs = s.regs := by have h := congrArg State.regs (raiseIf_frame s a b code inst); exact h
@[simp] theorem raiseIf_bell (s : State) (a b code inst : Nat) : (raiseIf s a b code inst).bell = s.bell := by have h := congrArg State.bell (raiseIf_frame s a b code inst); exact h
@[simp] theorem raiseIf_freeCtr (s : State) (a b code inst : Nat) : (raiseIf s a b code inst).freeCtr = s.freeCtr := by have h := congrArg State.freeCtr (raiseIf_frame s a b code inst); exact h
@[simp] theorem raiseIf_dep (s : State) (a b code inst : Nat) : (raiseIf s a b code inst).dep = s.dep := by have h := congrArg State.dep (raiseIf_frame s a b code inst); exact h
@[simp] theorem raiseIf_mem (s : State) (a b code inst : Nat) : (raiseIf s a b code inst).mem = s.mem := by have h := congrArg State.mem (raiseIf_frame s a b code inst); exact h
@[simp] theorem raiseIf_scr (s : State) (a b code inst : Nat) : (raiseIf s a b code inst).scr = s.scr := by have h := congrArg State.scr (raiseIf_frame s a b code inst); exact h
@[simp] theorem raiseIf_arrays (s : State) (a b code inst : Nat) : (raiseIf s a b code inst).arrays = s.arrays := by have h := congrArg State.arrays (raiseIf_frame s a b code inst); exact h
@[simp] theorem raiseIf_trowels (s : State) (a b code inst : Nat) : (raiseIf s a b code inst).trowels = s.trowels := by have h := congrArg State.trowels (raiseIf_frame s a b code inst); exact h
@[simp] theorem raiseIf_ustore (s : State) (a b code inst : Nat) : (raiseIf s a b code inst).ustore = s.ustore := by have h := congrArg State.ustore (raiseIf_frame s a b code inst); exact h
@[simp] theorem raiseIf_reducers (s : State) (a b code inst : Nat) : (raiseIf s a b code inst).reducers = s.reducers := by have h := congrArg State.reducers (raiseIf_frame s a b code inst); exact h
@[simp] theorem raiseIf_dma (s : State) (a b code inst : Nat) : (raiseIf s a b code inst).dma = s.dma := by have h := congrArg State.dma (raiseIf_frame s a b code inst); exact h
@[simp] theorem raiseIf_flt (s : State) (a b code inst : Nat) : (raiseIf s a b code inst).flt = s.flt := by have h := congrArg State.flt (raiseIf_frame s a b code inst); exact h
@[simp] theorem raiseIf_itn (s : State) (a b code inst : Nat) : (raiseIf s a b code inst).itn = s.itn := by have h := congrArg State.itn (raiseIf_frame s a b code inst); exact h
@[simp] theorem raiseIf_fab (s : State) (a b code inst : Nat) : (raiseIf s a b code inst).fab = s.fab := by have h := congrArg State.fab (raiseIf_frame s a b code inst); exact h
@[simp] theorem raiseIf_sec (s : State) (a b code inst : Nat) : (raiseIf s a b code inst).sec = s.sec := by have h := congrArg State.sec (raiseIf_frame s a b code inst); exact h
@[simp] theorem raiseIf_pwr (s : State) (a b code inst : Nat) : (raiseIf s a b code inst).pwr = s.pwr := by have h := congrArg State.pwr (raiseIf_frame s a b code inst); exact h
@[simp] theorem raiseIf_srv (s : State) (a b code inst : Nat) : (raiseIf s a b code inst).srv = s.srv := by have h := congrArg State.srv (raiseIf_frame s a b code inst); exact h
@[simp] theorem raiseIf_engines (s : State) (a b code inst : Nat) : (raiseIf s a b code inst).engines = s.engines := by have h := congrArg State.engines (raiseIf_frame s a b code inst); exact h

theorem raiseEventOwned_frame (s : State) (owner code inst : Nat) : { raiseEventOwned s owner code inst with cmd := s.cmd, outbox := s.outbox, pci := s.pci } = s := by
  unfold raiseEventOwned
  dsimp only
  split
  · exact raiseEvent_frame _ _ _
  · exact chain (eventAt_frame _ _ _ _) (raiseEvent_frame _ _ _)
@[simp] theorem raiseEventOwned_pending (s : State) (owner code inst : Nat) : (raiseEventOwned s owner code inst).pending = s.pending := by have h := congrArg State.pending (raiseEventOwned_frame s owner code inst); exact h
@[simp] theorem raiseEventOwned_variant (s : State) (owner code inst : Nat) : (raiseEventOwned s owner code inst).variant = s.variant := by have h := congrArg State.variant (raiseEventOwned_frame s owner code inst); exact h
@[simp] theorem raiseEventOwned_regs (s : State) (owner code inst : Nat) : (raiseEventOwned s owner code inst).regs = s.regs := by have h := congrArg State.regs (raiseEventOwned_frame s owner code inst); exact h
@[simp] theorem raiseEventOwned_bell (s : State) (owner code inst : Nat) : (raiseEventOwned s owner code inst).bell = s.bell := by have h := congrArg State.bell (raiseEventOwned_frame s owner code inst); exact h
@[simp] theorem raiseEventOwned_freeCtr (s : State) (owner code inst : Nat) : (raiseEventOwned s owner code inst).freeCtr = s.freeCtr := by have h := congrArg State.freeCtr (raiseEventOwned_frame s owner code inst); exact h
@[simp] theorem raiseEventOwned_dep (s : State) (owner code inst : Nat) : (raiseEventOwned s owner code inst).dep = s.dep := by have h := congrArg State.dep (raiseEventOwned_frame s owner code inst); exact h
@[simp] theorem raiseEventOwned_mem (s : State) (owner code inst : Nat) : (raiseEventOwned s owner code inst).mem = s.mem := by have h := congrArg State.mem (raiseEventOwned_frame s owner code inst); exact h
@[simp] theorem raiseEventOwned_scr (s : State) (owner code inst : Nat) : (raiseEventOwned s owner code inst).scr = s.scr := by have h := congrArg State.scr (raiseEventOwned_frame s owner code inst); exact h
@[simp] theorem raiseEventOwned_arrays (s : State) (owner code inst : Nat) : (raiseEventOwned s owner code inst).arrays = s.arrays := by have h := congrArg State.arrays (raiseEventOwned_frame s owner code inst); exact h
@[simp] theorem raiseEventOwned_trowels (s : State) (owner code inst : Nat) : (raiseEventOwned s owner code inst).trowels = s.trowels := by have h := congrArg State.trowels (raiseEventOwned_frame s owner code inst); exact h
@[simp] theorem raiseEventOwned_ustore (s : State) (owner code inst : Nat) : (raiseEventOwned s owner code inst).ustore = s.ustore := by have h := congrArg State.ustore (raiseEventOwned_frame s owner code inst); exact h
@[simp] theorem raiseEventOwned_reducers (s : State) (owner code inst : Nat) : (raiseEventOwned s owner code inst).reducers = s.reducers := by have h := congrArg State.reducers (raiseEventOwned_frame s owner code inst); exact h
@[simp] theorem raiseEventOwned_dma (s : State) (owner code inst : Nat) : (raiseEventOwned s owner code inst).dma = s.dma := by have h := congrArg State.dma (raiseEventOwned_frame s owner code inst); exact h
@[simp] theorem raiseEventOwned_flt (s : State) (owner code inst : Nat) : (raiseEventOwned s owner code inst).flt = s.flt := by have h := congrArg State.flt (raiseEventOwned_frame s owner code inst); exact h
@[simp] theorem raiseEventOwned_itn (s : State) (owner code inst : Nat) : (raiseEventOwned s owner code inst).itn = s.itn := by have h := congrArg State.itn (raiseEventOwned_frame s owner code inst); exact h
@[simp] theorem raiseEventOwned_fab (s : State) (owner code inst : Nat) : (raiseEventOwned s owner code inst).fab = s.fab := by have h := congrArg State.fab (raiseEventOwned_frame s owner code inst); exact h
@[simp] theorem raiseEventOwned_sec (s : State) (owner code inst : Nat) : (raiseEventOwned s owner code inst).sec = s.sec := by have h := congrArg State.sec (raiseEventOwned_frame s owner code inst); exact h
@[simp] theorem raiseEventOwned_pwr (s : State) (owner code inst : Nat) : (raiseEventOwned s owner code inst).pwr = s.pwr := by have h := congrArg State.pwr (raiseEventOwned_frame s owner code inst); exact h
@[simp] theorem raiseEventOwned_srv (s : State) (owner code inst : Nat) : (raiseEventOwned s owner code inst).srv = s.srv := by have h := congrArg State.srv (raiseEventOwned_frame s owner code inst); exact h
@[simp] theorem raiseEventOwned_engines (s : State) (owner code inst : Nat) : (raiseEventOwned s owner code inst).engines = s.engines := by have h := congrArg State.engines (raiseEventOwned_frame s owner code inst); exact h

theorem setWork_frame (s : State) (w : Work) : { setWork s w with cmd := s.cmd, outbox := s.outbox, pci := s.pci } = s := by
  unfold setWork
  split
  · rfl
  · exact chain (raiseEvent_frame _ _ _) rfl
@[simp] theorem setWork_pending (s : State) (w : Work) : (setWork s w).pending = s.pending := by have h := congrArg State.pending (setWork_frame s w); exact h
@[simp] theorem setWork_variant (s : State) (w : Work) : (setWork s w).variant = s.variant := by have h := congrArg State.variant (setWork_frame s w); exact h
@[simp] theorem setWork_regs (s : State) (w : Work) : (setWork s w).regs = s.regs := by have h := congrArg State.regs (setWork_frame s w); exact h
@[simp] theorem setWork_bell (s : State) (w : Work) : (setWork s w).bell = s.bell := by have h := congrArg State.bell (setWork_frame s w); exact h
@[simp] theorem setWork_freeCtr (s : State) (w : Work) : (setWork s w).freeCtr = s.freeCtr := by have h := congrArg State.freeCtr (setWork_frame s w); exact h
@[simp] theorem setWork_dep (s : State) (w : Work) : (setWork s w).dep = s.dep := by have h := congrArg State.dep (setWork_frame s w); exact h
@[simp] theorem setWork_mem (s : State) (w : Work) : (setWork s w).mem = s.mem := by have h := congrArg State.mem (setWork_frame s w); exact h
@[simp] theorem setWork_scr (s : State) (w : Work) : (setWork s w).scr = s.scr := by have h := congrArg State.scr (setWork_frame s w); exact h
@[simp] theorem setWork_arrays (s : State) (w : Work) : (setWork s w).arrays = s.arrays := by have h := congrArg State.arrays (setWork_frame s w); exact h
@[simp] theorem setWork_trowels (s : State) (w : Work) : (setWork s w).trowels = s.trowels := by have h := congrArg State.trowels (setWork_frame s w); exact h
@[simp] theorem setWork_ustore (s : State) (w : Work) : (setWork s w).ustore = s.ustore := by have h := congrArg State.ustore (setWork_frame s w); exact h
@[simp] theorem setWork_reducers (s : State) (w : Work) : (setWork s w).reducers = s.reducers := by have h := congrArg State.reducers (setWork_frame s w); exact h
@[simp] theorem setWork_dma (s : State) (w : Work) : (setWork s w).dma = s.dma := by have h := congrArg State.dma (setWork_frame s w); exact h
@[simp] theorem setWork_flt (s : State) (w : Work) : (setWork s w).flt = s.flt := by have h := congrArg State.flt (setWork_frame s w); exact h
@[simp] theorem setWork_itn (s : State) (w : Work) : (setWork s w).itn = s.itn := by have h := congrArg State.itn (setWork_frame s w); exact h
@[simp] theorem setWork_fab (s : State) (w : Work) : (setWork s w).fab = s.fab := by have h := congrArg State.fab (setWork_frame s w); exact h
@[simp] theorem setWork_sec (s : State) (w : Work) : (setWork s w).sec = s.sec := by have h := congrArg State.sec (setWork_frame s w); exact h
@[simp] theorem setWork_pwr (s : State) (w : Work) : (setWork s w).pwr = s.pwr := by have h := congrArg State.pwr (setWork_frame s w); exact h
@[simp] theorem setWork_srv (s : State) (w : Work) : (setWork s w).srv = s.srv := by have h := congrArg State.srv (setWork_frame s w); exact h
@[simp] theorem setWork_engines (s : State) (w : Work) : (setWork s w).engines = s.engines := by have h := congrArg State.engines (setWork_frame s w); exact h

theorem haltSq_frame (s : State) (n : Nat) : { haltSq s n with cmd := s.cmd, outbox := s.outbox, pci := s.pci } = s := by
  unfold haltSq
  split
  · exact chain (raiseEventOwned_frame _ _ _ _) rfl
  · rfl
@[simp] theorem haltSq_pending (s : State) (n : Nat) : (haltSq s n).pending = s.pending := by have h := congrArg State.pending (haltSq_frame s n); exact h
@[simp] theorem haltSq_variant (s : State) (n : Nat) : (haltSq s n).variant = s.variant := by have h := congrArg State.variant (haltSq_frame s n); exact h
@[simp] theorem haltSq_regs (s : State) (n : Nat) : (haltSq s n).regs = s.regs := by have h := congrArg State.regs (haltSq_frame s n); exact h
@[simp] theorem haltSq_bell (s : State) (n : Nat) : (haltSq s n).bell = s.bell := by have h := congrArg State.bell (haltSq_frame s n); exact h
@[simp] theorem haltSq_freeCtr (s : State) (n : Nat) : (haltSq s n).freeCtr = s.freeCtr := by have h := congrArg State.freeCtr (haltSq_frame s n); exact h
@[simp] theorem haltSq_dep (s : State) (n : Nat) : (haltSq s n).dep = s.dep := by have h := congrArg State.dep (haltSq_frame s n); exact h
@[simp] theorem haltSq_mem (s : State) (n : Nat) : (haltSq s n).mem = s.mem := by have h := congrArg State.mem (haltSq_frame s n); exact h
@[simp] theorem haltSq_scr (s : State) (n : Nat) : (haltSq s n).scr = s.scr := by have h := congrArg State.scr (haltSq_frame s n); exact h
@[simp] theorem haltSq_arrays (s : State) (n : Nat) : (haltSq s n).arrays = s.arrays := by have h := congrArg State.arrays (haltSq_frame s n); exact h
@[simp] theorem haltSq_trowels (s : State) (n : Nat) : (haltSq s n).trowels = s.trowels := by have h := congrArg State.trowels (haltSq_frame s n); exact h
@[simp] theorem haltSq_ustore (s : State) (n : Nat) : (haltSq s n).ustore = s.ustore := by have h := congrArg State.ustore (haltSq_frame s n); exact h
@[simp] theorem haltSq_reducers (s : State) (n : Nat) : (haltSq s n).reducers = s.reducers := by have h := congrArg State.reducers (haltSq_frame s n); exact h
@[simp] theorem haltSq_dma (s : State) (n : Nat) : (haltSq s n).dma = s.dma := by have h := congrArg State.dma (haltSq_frame s n); exact h
@[simp] theorem haltSq_flt (s : State) (n : Nat) : (haltSq s n).flt = s.flt := by have h := congrArg State.flt (haltSq_frame s n); exact h
@[simp] theorem haltSq_itn (s : State) (n : Nat) : (haltSq s n).itn = s.itn := by have h := congrArg State.itn (haltSq_frame s n); exact h
@[simp] theorem haltSq_fab (s : State) (n : Nat) : (haltSq s n).fab = s.fab := by have h := congrArg State.fab (haltSq_frame s n); exact h
@[simp] theorem haltSq_sec (s : State) (n : Nat) : (haltSq s n).sec = s.sec := by have h := congrArg State.sec (haltSq_frame s n); exact h
@[simp] theorem haltSq_pwr (s : State) (n : Nat) : (haltSq s n).pwr = s.pwr := by have h := congrArg State.pwr (haltSq_frame s n); exact h
@[simp] theorem haltSq_srv (s : State) (n : Nat) : (haltSq s n).srv = s.srv := by have h := congrArg State.srv (haltSq_frame s n); exact h
@[simp] theorem haltSq_engines (s : State) (n : Nat) : (haltSq s n).engines = s.engines := by have h := congrArg State.engines (haltSq_frame s n); exact h

theorem complete_frame (s : State) (p : Packet) (r : Reply) : { complete s p r with cmd := s.cmd, outbox := s.outbox, pci := s.pci } = s := by
  have key : ∀ x : Reply, ∀ t : State, t = (if hasBarrier p ∧ 0x0100 ≤ x.status then haltSq (postReply s (cqOf s p.sq) x) p.sq
      else postReply s (cqOf s p.sq) x) → { t with cmd := s.cmd, outbox := s.outbox, pci := s.pci } = s := by
    intro x t ht
    split at ht <;> subst ht
    · exact chain (haltSq_frame _ _) (postReply_frame _ _ _)
    · exact postReply_frame _ _ _
  exact key _ _ rfl
@[simp] theorem complete_pending (s : State) (p : Packet) (r : Reply) : (complete s p r).pending = s.pending := by have h := congrArg State.pending (complete_frame s p r); exact h
@[simp] theorem complete_variant (s : State) (p : Packet) (r : Reply) : (complete s p r).variant = s.variant := by have h := congrArg State.variant (complete_frame s p r); exact h
@[simp] theorem complete_regs (s : State) (p : Packet) (r : Reply) : (complete s p r).regs = s.regs := by have h := congrArg State.regs (complete_frame s p r); exact h
@[simp] theorem complete_bell (s : State) (p : Packet) (r : Reply) : (complete s p r).bell = s.bell := by have h := congrArg State.bell (complete_frame s p r); exact h
@[simp] theorem complete_freeCtr (s : State) (p : Packet) (r : Reply) : (complete s p r).freeCtr = s.freeCtr := by have h := congrArg State.freeCtr (complete_frame s p r); exact h
@[simp] theorem complete_dep (s : State) (p : Packet) (r : Reply) : (complete s p r).dep = s.dep := by have h := congrArg State.dep (complete_frame s p r); exact h
@[simp] theorem complete_mem (s : State) (p : Packet) (r : Reply) : (complete s p r).mem = s.mem := by have h := congrArg State.mem (complete_frame s p r); exact h
@[simp] theorem complete_scr (s : State) (p : Packet) (r : Reply) : (complete s p r).scr = s.scr := by have h := congrArg State.scr (complete_frame s p r); exact h
@[simp] theorem complete_arrays (s : State) (p : Packet) (r : Reply) : (complete s p r).arrays = s.arrays := by have h := congrArg State.arrays (complete_frame s p r); exact h
@[simp] theorem complete_trowels (s : State) (p : Packet) (r : Reply) : (complete s p r).trowels = s.trowels := by have h := congrArg State.trowels (complete_frame s p r); exact h
@[simp] theorem complete_ustore (s : State) (p : Packet) (r : Reply) : (complete s p r).ustore = s.ustore := by have h := congrArg State.ustore (complete_frame s p r); exact h
@[simp] theorem complete_reducers (s : State) (p : Packet) (r : Reply) : (complete s p r).reducers = s.reducers := by have h := congrArg State.reducers (complete_frame s p r); exact h
@[simp] theorem complete_dma (s : State) (p : Packet) (r : Reply) : (complete s p r).dma = s.dma := by have h := congrArg State.dma (complete_frame s p r); exact h
@[simp] theorem complete_flt (s : State) (p : Packet) (r : Reply) : (complete s p r).flt = s.flt := by have h := congrArg State.flt (complete_frame s p r); exact h
@[simp] theorem complete_itn (s : State) (p : Packet) (r : Reply) : (complete s p r).itn = s.itn := by have h := congrArg State.itn (complete_frame s p r); exact h
@[simp] theorem complete_fab (s : State) (p : Packet) (r : Reply) : (complete s p r).fab = s.fab := by have h := congrArg State.fab (complete_frame s p r); exact h
@[simp] theorem complete_sec (s : State) (p : Packet) (r : Reply) : (complete s p r).sec = s.sec := by have h := congrArg State.sec (complete_frame s p r); exact h
@[simp] theorem complete_pwr (s : State) (p : Packet) (r : Reply) : (complete s p r).pwr = s.pwr := by have h := congrArg State.pwr (complete_frame s p r); exact h
@[simp] theorem complete_srv (s : State) (p : Packet) (r : Reply) : (complete s p r).srv = s.srv := by have h := congrArg State.srv (complete_frame s p r); exact h
@[simp] theorem complete_engines (s : State) (p : Packet) (r : Reply) : (complete s p r).engines = s.engines := by have h := congrArg State.engines (complete_frame s p r); exact h

theorem completeProg_frame (s : State) (c : InProg) (r : Reply) : { completeProg s c r with cmd := s.cmd, outbox := s.outbox, pci := s.pci } = s := by
  unfold completeProg
  exact chain (complete_frame _ _ _) rfl
@[simp] theorem completeProg_pending (s : State) (c : InProg) (r : Reply) : (completeProg s c r).pending = s.pending := by have h := congrArg State.pending (completeProg_frame s c r); exact h
@[simp] theorem completeProg_variant (s : State) (c : InProg) (r : Reply) : (completeProg s c r).variant = s.variant := by have h := congrArg State.variant (completeProg_frame s c r); exact h
@[simp] theorem completeProg_regs (s : State) (c : InProg) (r : Reply) : (completeProg s c r).regs = s.regs := by have h := congrArg State.regs (completeProg_frame s c r); exact h
@[simp] theorem completeProg_bell (s : State) (c : InProg) (r : Reply) : (completeProg s c r).bell = s.bell := by have h := congrArg State.bell (completeProg_frame s c r); exact h
@[simp] theorem completeProg_freeCtr (s : State) (c : InProg) (r : Reply) : (completeProg s c r).freeCtr = s.freeCtr := by have h := congrArg State.freeCtr (completeProg_frame s c r); exact h
@[simp] theorem completeProg_dep (s : State) (c : InProg) (r : Reply) : (completeProg s c r).dep = s.dep := by have h := congrArg State.dep (completeProg_frame s c r); exact h
@[simp] theorem completeProg_mem (s : State) (c : InProg) (r : Reply) : (completeProg s c r).mem = s.mem := by have h := congrArg State.mem (completeProg_frame s c r); exact h
@[simp] theorem completeProg_scr (s : State) (c : InProg) (r : Reply) : (completeProg s c r).scr = s.scr := by have h := congrArg State.scr (completeProg_frame s c r); exact h
@[simp] theorem completeProg_arrays (s : State) (c : InProg) (r : Reply) : (completeProg s c r).arrays = s.arrays := by have h := congrArg State.arrays (completeProg_frame s c r); exact h
@[simp] theorem completeProg_trowels (s : State) (c : InProg) (r : Reply) : (completeProg s c r).trowels = s.trowels := by have h := congrArg State.trowels (completeProg_frame s c r); exact h
@[simp] theorem completeProg_ustore (s : State) (c : InProg) (r : Reply) : (completeProg s c r).ustore = s.ustore := by have h := congrArg State.ustore (completeProg_frame s c r); exact h
@[simp] theorem completeProg_reducers (s : State) (c : InProg) (r : Reply) : (completeProg s c r).reducers = s.reducers := by have h := congrArg State.reducers (completeProg_frame s c r); exact h
@[simp] theorem completeProg_dma (s : State) (c : InProg) (r : Reply) : (completeProg s c r).dma = s.dma := by have h := congrArg State.dma (completeProg_frame s c r); exact h
@[simp] theorem completeProg_flt (s : State) (c : InProg) (r : Reply) : (completeProg s c r).flt = s.flt := by have h := congrArg State.flt (completeProg_frame s c r); exact h
@[simp] theorem completeProg_itn (s : State) (c : InProg) (r : Reply) : (completeProg s c r).itn = s.itn := by have h := congrArg State.itn (completeProg_frame s c r); exact h
@[simp] theorem completeProg_fab (s : State) (c : InProg) (r : Reply) : (completeProg s c r).fab = s.fab := by have h := congrArg State.fab (completeProg_frame s c r); exact h
@[simp] theorem completeProg_sec (s : State) (c : InProg) (r : Reply) : (completeProg s c r).sec = s.sec := by have h := congrArg State.sec (completeProg_frame s c r); exact h
@[simp] theorem completeProg_pwr (s : State) (c : InProg) (r : Reply) : (completeProg s c r).pwr = s.pwr := by have h := congrArg State.pwr (completeProg_frame s c r); exact h
@[simp] theorem completeProg_srv (s : State) (c : InProg) (r : Reply) : (completeProg s c r).srv = s.srv := by have h := congrArg State.srv (completeProg_frame s c r); exact h
@[simp] theorem completeProg_engines (s : State) (c : InProg) (r : Reply) : (completeProg s c r).engines = s.engines := by have h := congrArg State.engines (completeProg_frame s c r); exact h

theorem raiseAlarm_frame (s : State) (kind inst : Nat) : { raiseAlarm s kind inst with dep := s.dep } = s := by unfold raiseAlarm; split <;> [rfl; (split <;> rfl)]
@[simp] theorem raiseAlarm_pending (s : State) (kind inst : Nat) : (raiseAlarm s kind inst).pending = s.pending := by have h := congrArg State.pending (raiseAlarm_frame s kind inst); exact h
@[simp] theorem raiseAlarm_variant (s : State) (kind inst : Nat) : (raiseAlarm s kind inst).variant = s.variant := by have h := congrArg State.variant (raiseAlarm_frame s kind inst); exact h
@[simp] theorem raiseAlarm_regs (s : State) (kind inst : Nat) : (raiseAlarm s kind inst).regs = s.regs := by have h := congrArg State.regs (raiseAlarm_frame s kind inst); exact h
@[simp] theorem raiseAlarm_bell (s : State) (kind inst : Nat) : (raiseAlarm s kind inst).bell = s.bell := by have h := congrArg State.bell (raiseAlarm_frame s kind inst); exact h
@[simp] theorem raiseAlarm_outbox (s : State) (kind inst : Nat) : (raiseAlarm s kind inst).outbox = s.outbox := by have h := congrArg State.outbox (raiseAlarm_frame s kind inst); exact h
@[simp] theorem raiseAlarm_freeCtr (s : State) (kind inst : Nat) : (raiseAlarm s kind inst).freeCtr = s.freeCtr := by have h := congrArg State.freeCtr (raiseAlarm_frame s kind inst); exact h
@[simp] theorem raiseAlarm_mem (s : State) (kind inst : Nat) : (raiseAlarm s kind inst).mem = s.mem := by have h := congrArg State.mem (raiseAlarm_frame s kind inst); exact h
@[simp] theorem raiseAlarm_scr (s : State) (kind inst : Nat) : (raiseAlarm s kind inst).scr = s.scr := by have h := congrArg State.scr (raiseAlarm_frame s kind inst); exact h
@[simp] theorem raiseAlarm_arrays (s : State) (kind inst : Nat) : (raiseAlarm s kind inst).arrays = s.arrays := by have h := congrArg State.arrays (raiseAlarm_frame s kind inst); exact h
@[simp] theorem raiseAlarm_trowels (s : State) (kind inst : Nat) : (raiseAlarm s kind inst).trowels = s.trowels := by have h := congrArg State.trowels (raiseAlarm_frame s kind inst); exact h
@[simp] theorem raiseAlarm_ustore (s : State) (kind inst : Nat) : (raiseAlarm s kind inst).ustore = s.ustore := by have h := congrArg State.ustore (raiseAlarm_frame s kind inst); exact h
@[simp] theorem raiseAlarm_reducers (s : State) (kind inst : Nat) : (raiseAlarm s kind inst).reducers = s.reducers := by have h := congrArg State.reducers (raiseAlarm_frame s kind inst); exact h
@[simp] theorem raiseAlarm_cmd (s : State) (kind inst : Nat) : (raiseAlarm s kind inst).cmd = s.cmd := by have h := congrArg State.cmd (raiseAlarm_frame s kind inst); exact h
@[simp] theorem raiseAlarm_pci (s : State) (kind inst : Nat) : (raiseAlarm s kind inst).pci = s.pci := by have h := congrArg State.pci (raiseAlarm_frame s kind inst); exact h
@[simp] theorem raiseAlarm_dma (s : State) (kind inst : Nat) : (raiseAlarm s kind inst).dma = s.dma := by have h := congrArg State.dma (raiseAlarm_frame s kind inst); exact h
@[simp] theorem raiseAlarm_flt (s : State) (kind inst : Nat) : (raiseAlarm s kind inst).flt = s.flt := by have h := congrArg State.flt (raiseAlarm_frame s kind inst); exact h
@[simp] theorem raiseAlarm_itn (s : State) (kind inst : Nat) : (raiseAlarm s kind inst).itn = s.itn := by have h := congrArg State.itn (raiseAlarm_frame s kind inst); exact h
@[simp] theorem raiseAlarm_fab (s : State) (kind inst : Nat) : (raiseAlarm s kind inst).fab = s.fab := by have h := congrArg State.fab (raiseAlarm_frame s kind inst); exact h
@[simp] theorem raiseAlarm_sec (s : State) (kind inst : Nat) : (raiseAlarm s kind inst).sec = s.sec := by have h := congrArg State.sec (raiseAlarm_frame s kind inst); exact h
@[simp] theorem raiseAlarm_pwr (s : State) (kind inst : Nat) : (raiseAlarm s kind inst).pwr = s.pwr := by have h := congrArg State.pwr (raiseAlarm_frame s kind inst); exact h
@[simp] theorem raiseAlarm_srv (s : State) (kind inst : Nat) : (raiseAlarm s kind inst).srv = s.srv := by have h := congrArg State.srv (raiseAlarm_frame s kind inst); exact h
@[simp] theorem raiseAlarm_engines (s : State) (kind inst : Nat) : (raiseAlarm s kind inst).engines = s.engines := by have h := congrArg State.engines (raiseAlarm_frame s kind inst); exact h

theorem ringPush_frame (s : State) (ws : List Nat) : { ringPush s ws with dep := s.dep } = s := by
  have key : ∀ t, ringPush s ws = t → { t with dep := s.dep } = s := by
    intro t ht
    unfold ringPush at ht
    dsimp only at ht
    by_cases h : s.dep.frozen = true
    · rw [if_pos h] at ht; subst ht; rfl
    · rw [if_neg h] at ht; subst ht; rfl
  exact key _ rfl
@[simp] theorem ringPush_pending (s : State) (ws : List Nat) : (ringPush s ws).pending = s.pending := by have h := congrArg State.pending (ringPush_frame s ws); exact h
@[simp] theorem ringPush_variant (s : State) (ws : List Nat) : (ringPush s ws).variant = s.variant := by have h := congrArg State.variant (ringPush_frame s ws); exact h
@[simp] theorem ringPush_regs (s : State) (ws : List Nat) : (ringPush s ws).regs = s.regs := by have h := congrArg State.regs (ringPush_frame s ws); exact h
@[simp] theorem ringPush_bell (s : State) (ws : List Nat) : (ringPush s ws).bell = s.bell := by have h := congrArg State.bell (ringPush_frame s ws); exact h
@[simp] theorem ringPush_outbox (s : State) (ws : List Nat) : (ringPush s ws).outbox = s.outbox := by have h := congrArg State.outbox (ringPush_frame s ws); exact h
@[simp] theorem ringPush_freeCtr (s : State) (ws : List Nat) : (ringPush s ws).freeCtr = s.freeCtr := by have h := congrArg State.freeCtr (ringPush_frame s ws); exact h
@[simp] theorem ringPush_mem (s : State) (ws : List Nat) : (ringPush s ws).mem = s.mem := by have h := congrArg State.mem (ringPush_frame s ws); exact h
@[simp] theorem ringPush_scr (s : State) (ws : List Nat) : (ringPush s ws).scr = s.scr := by have h := congrArg State.scr (ringPush_frame s ws); exact h
@[simp] theorem ringPush_arrays (s : State) (ws : List Nat) : (ringPush s ws).arrays = s.arrays := by have h := congrArg State.arrays (ringPush_frame s ws); exact h
@[simp] theorem ringPush_trowels (s : State) (ws : List Nat) : (ringPush s ws).trowels = s.trowels := by have h := congrArg State.trowels (ringPush_frame s ws); exact h
@[simp] theorem ringPush_ustore (s : State) (ws : List Nat) : (ringPush s ws).ustore = s.ustore := by have h := congrArg State.ustore (ringPush_frame s ws); exact h
@[simp] theorem ringPush_reducers (s : State) (ws : List Nat) : (ringPush s ws).reducers = s.reducers := by have h := congrArg State.reducers (ringPush_frame s ws); exact h
@[simp] theorem ringPush_cmd (s : State) (ws : List Nat) : (ringPush s ws).cmd = s.cmd := by have h := congrArg State.cmd (ringPush_frame s ws); exact h
@[simp] theorem ringPush_pci (s : State) (ws : List Nat) : (ringPush s ws).pci = s.pci := by have h := congrArg State.pci (ringPush_frame s ws); exact h
@[simp] theorem ringPush_dma (s : State) (ws : List Nat) : (ringPush s ws).dma = s.dma := by have h := congrArg State.dma (ringPush_frame s ws); exact h
@[simp] theorem ringPush_flt (s : State) (ws : List Nat) : (ringPush s ws).flt = s.flt := by have h := congrArg State.flt (ringPush_frame s ws); exact h
@[simp] theorem ringPush_itn (s : State) (ws : List Nat) : (ringPush s ws).itn = s.itn := by have h := congrArg State.itn (ringPush_frame s ws); exact h
@[simp] theorem ringPush_fab (s : State) (ws : List Nat) : (ringPush s ws).fab = s.fab := by have h := congrArg State.fab (ringPush_frame s ws); exact h
@[simp] theorem ringPush_sec (s : State) (ws : List Nat) : (ringPush s ws).sec = s.sec := by have h := congrArg State.sec (ringPush_frame s ws); exact h
@[simp] theorem ringPush_pwr (s : State) (ws : List Nat) : (ringPush s ws).pwr = s.pwr := by have h := congrArg State.pwr (ringPush_frame s ws); exact h
@[simp] theorem ringPush_srv (s : State) (ws : List Nat) : (ringPush s ws).srv = s.srv := by have h := congrArg State.srv (ringPush_frame s ws); exact h
@[simp] theorem ringPush_engines (s : State) (ws : List Nat) : (ringPush s ws).engines = s.engines := by have h := congrArg State.engines (ringPush_frame s ws); exact h

theorem pushRecord_frame (s : State) (q : Nat) (ws : List Nat) : { pushRecord s q ws with cmd := s.cmd, outbox := s.outbox, pci := s.pci, dep := s.dep } = s := by
  have key : ∀ t, pushRecord s q ws = t → { t with cmd := s.cmd, outbox := s.outbox, pci := s.pci, dep := s.dep } = s := by
    intro t ht
    unfold pushRecord at ht
    dsimp only at ht
    generalize (if (queueAt s q).owed ≠ 0 ∨ (queueAt s q).owedFlush = true then
      [gapWord (queueAt s q).owedFlush (queueAt s q).owed] else []) = g at ht
    generalize (if s.dep.fault = true then 0 else (queueAt s q).limit - (queueAt s q).cells.length) = r at ht
    split at ht
    · subst ht; rfl
    · split at ht
      · subst ht; rfl
      · subst ht; exact chainD (raiseIf_frame _ _ _ _ _) rfl
  exact key _ rfl
@[simp] theorem pushRecord_pending (s : State) (q : Nat) (ws : List Nat) : (pushRecord s q ws).pending = s.pending := by have h := congrArg State.pending (pushRecord_frame s q ws); exact h
@[simp] theorem pushRecord_variant (s : State) (q : Nat) (ws : List Nat) : (pushRecord s q ws).variant = s.variant := by have h := congrArg State.variant (pushRecord_frame s q ws); exact h
@[simp] theorem pushRecord_regs (s : State) (q : Nat) (ws : List Nat) : (pushRecord s q ws).regs = s.regs := by have h := congrArg State.regs (pushRecord_frame s q ws); exact h
@[simp] theorem pushRecord_bell (s : State) (q : Nat) (ws : List Nat) : (pushRecord s q ws).bell = s.bell := by have h := congrArg State.bell (pushRecord_frame s q ws); exact h
@[simp] theorem pushRecord_freeCtr (s : State) (q : Nat) (ws : List Nat) : (pushRecord s q ws).freeCtr = s.freeCtr := by have h := congrArg State.freeCtr (pushRecord_frame s q ws); exact h
@[simp] theorem pushRecord_mem (s : State) (q : Nat) (ws : List Nat) : (pushRecord s q ws).mem = s.mem := by have h := congrArg State.mem (pushRecord_frame s q ws); exact h
@[simp] theorem pushRecord_scr (s : State) (q : Nat) (ws : List Nat) : (pushRecord s q ws).scr = s.scr := by have h := congrArg State.scr (pushRecord_frame s q ws); exact h
@[simp] theorem pushRecord_arrays (s : State) (q : Nat) (ws : List Nat) : (pushRecord s q ws).arrays = s.arrays := by have h := congrArg State.arrays (pushRecord_frame s q ws); exact h
@[simp] theorem pushRecord_trowels (s : State) (q : Nat) (ws : List Nat) : (pushRecord s q ws).trowels = s.trowels := by have h := congrArg State.trowels (pushRecord_frame s q ws); exact h
@[simp] theorem pushRecord_ustore (s : State) (q : Nat) (ws : List Nat) : (pushRecord s q ws).ustore = s.ustore := by have h := congrArg State.ustore (pushRecord_frame s q ws); exact h
@[simp] theorem pushRecord_reducers (s : State) (q : Nat) (ws : List Nat) : (pushRecord s q ws).reducers = s.reducers := by have h := congrArg State.reducers (pushRecord_frame s q ws); exact h
@[simp] theorem pushRecord_dma (s : State) (q : Nat) (ws : List Nat) : (pushRecord s q ws).dma = s.dma := by have h := congrArg State.dma (pushRecord_frame s q ws); exact h
@[simp] theorem pushRecord_flt (s : State) (q : Nat) (ws : List Nat) : (pushRecord s q ws).flt = s.flt := by have h := congrArg State.flt (pushRecord_frame s q ws); exact h
@[simp] theorem pushRecord_itn (s : State) (q : Nat) (ws : List Nat) : (pushRecord s q ws).itn = s.itn := by have h := congrArg State.itn (pushRecord_frame s q ws); exact h
@[simp] theorem pushRecord_fab (s : State) (q : Nat) (ws : List Nat) : (pushRecord s q ws).fab = s.fab := by have h := congrArg State.fab (pushRecord_frame s q ws); exact h
@[simp] theorem pushRecord_sec (s : State) (q : Nat) (ws : List Nat) : (pushRecord s q ws).sec = s.sec := by have h := congrArg State.sec (pushRecord_frame s q ws); exact h
@[simp] theorem pushRecord_pwr (s : State) (q : Nat) (ws : List Nat) : (pushRecord s q ws).pwr = s.pwr := by have h := congrArg State.pwr (pushRecord_frame s q ws); exact h
@[simp] theorem pushRecord_srv (s : State) (q : Nat) (ws : List Nat) : (pushRecord s q ws).srv = s.srv := by have h := congrArg State.srv (pushRecord_frame s q ws); exact h
@[simp] theorem pushRecord_engines (s : State) (q : Nat) (ws : List Nat) : (pushRecord s q ws).engines = s.engines := by have h := congrArg State.engines (pushRecord_frame s q ws); exact h

theorem logCond_frame (s : State) (q source code inst detail : Nat) : { logCond s q source code inst detail with cmd := s.cmd, outbox := s.outbox, pci := s.pci, dep := s.dep } = s := pushRecord_frame _ _ _
@[simp] theorem logCond_pending (s : State) (q source code inst detail : Nat) : (logCond s q source code inst detail).pending = s.pending := by have h := congrArg State.pending (logCond_frame s q source code inst detail); exact h
@[simp] theorem logCond_variant (s : State) (q source code inst detail : Nat) : (logCond s q source code inst detail).variant = s.variant := by have h := congrArg State.variant (logCond_frame s q source code inst detail); exact h
@[simp] theorem logCond_regs (s : State) (q source code inst detail : Nat) : (logCond s q source code inst detail).regs = s.regs := by have h := congrArg State.regs (logCond_frame s q source code inst detail); exact h
@[simp] theorem logCond_bell (s : State) (q source code inst detail : Nat) : (logCond s q source code inst detail).bell = s.bell := by have h := congrArg State.bell (logCond_frame s q source code inst detail); exact h
@[simp] theorem logCond_freeCtr (s : State) (q source code inst detail : Nat) : (logCond s q source code inst detail).freeCtr = s.freeCtr := by have h := congrArg State.freeCtr (logCond_frame s q source code inst detail); exact h
@[simp] theorem logCond_mem (s : State) (q source code inst detail : Nat) : (logCond s q source code inst detail).mem = s.mem := by have h := congrArg State.mem (logCond_frame s q source code inst detail); exact h
@[simp] theorem logCond_scr (s : State) (q source code inst detail : Nat) : (logCond s q source code inst detail).scr = s.scr := by have h := congrArg State.scr (logCond_frame s q source code inst detail); exact h
@[simp] theorem logCond_arrays (s : State) (q source code inst detail : Nat) : (logCond s q source code inst detail).arrays = s.arrays := by have h := congrArg State.arrays (logCond_frame s q source code inst detail); exact h
@[simp] theorem logCond_trowels (s : State) (q source code inst detail : Nat) : (logCond s q source code inst detail).trowels = s.trowels := by have h := congrArg State.trowels (logCond_frame s q source code inst detail); exact h
@[simp] theorem logCond_ustore (s : State) (q source code inst detail : Nat) : (logCond s q source code inst detail).ustore = s.ustore := by have h := congrArg State.ustore (logCond_frame s q source code inst detail); exact h
@[simp] theorem logCond_reducers (s : State) (q source code inst detail : Nat) : (logCond s q source code inst detail).reducers = s.reducers := by have h := congrArg State.reducers (logCond_frame s q source code inst detail); exact h
@[simp] theorem logCond_dma (s : State) (q source code inst detail : Nat) : (logCond s q source code inst detail).dma = s.dma := by have h := congrArg State.dma (logCond_frame s q source code inst detail); exact h
@[simp] theorem logCond_flt (s : State) (q source code inst detail : Nat) : (logCond s q source code inst detail).flt = s.flt := by have h := congrArg State.flt (logCond_frame s q source code inst detail); exact h
@[simp] theorem logCond_itn (s : State) (q source code inst detail : Nat) : (logCond s q source code inst detail).itn = s.itn := by have h := congrArg State.itn (logCond_frame s q source code inst detail); exact h
@[simp] theorem logCond_fab (s : State) (q source code inst detail : Nat) : (logCond s q source code inst detail).fab = s.fab := by have h := congrArg State.fab (logCond_frame s q source code inst detail); exact h
@[simp] theorem logCond_sec (s : State) (q source code inst detail : Nat) : (logCond s q source code inst detail).sec = s.sec := by have h := congrArg State.sec (logCond_frame s q source code inst detail); exact h
@[simp] theorem logCond_pwr (s : State) (q source code inst detail : Nat) : (logCond s q source code inst detail).pwr = s.pwr := by have h := congrArg State.pwr (logCond_frame s q source code inst detail); exact h
@[simp] theorem logCond_srv (s : State) (q source code inst detail : Nat) : (logCond s q source code inst detail).srv = s.srv := by have h := congrArg State.srv (logCond_frame s q source code inst detail); exact h
@[simp] theorem logCond_engines (s : State) (q source code inst detail : Nat) : (logCond s q source code inst detail).engines = s.engines := by have h := congrArg State.engines (logCond_frame s q source code inst detail); exact h

theorem decimate_frame (s : State) (q before : Nat) : { decimate s q before with cmd := s.cmd, outbox := s.outbox, pci := s.pci, dep := s.dep } = s := by
  unfold decimate
  dsimp only
  split
  · exact chainD (raiseIf_frame _ _ _ _ _) rfl
  · split
    · exact chainD (raiseIf_frame _ _ _ _ _) rfl
    · rfl
@[simp] theorem decimate_pending (s : State) (q before : Nat) : (decimate s q before).pending = s.pending := by have h := congrArg State.pending (decimate_frame s q before); exact h
@[simp] theorem decimate_variant (s : State) (q before : Nat) : (decimate s q before).variant = s.variant := by have h := congrArg State.variant (decimate_frame s q before); exact h
@[simp] theorem decimate_regs (s : State) (q before : Nat) : (decimate s q before).regs = s.regs := by have h := congrArg State.regs (decimate_frame s q before); exact h
@[simp] theorem decimate_bell (s : State) (q before : Nat) : (decimate s q before).bell = s.bell := by have h := congrArg State.bell (decimate_frame s q before); exact h
@[simp] theorem decimate_freeCtr (s : State) (q before : Nat) : (decimate s q before).freeCtr = s.freeCtr := by have h := congrArg State.freeCtr (decimate_frame s q before); exact h
@[simp] theorem decimate_mem (s : State) (q before : Nat) : (decimate s q before).mem = s.mem := by have h := congrArg State.mem (decimate_frame s q before); exact h
@[simp] theorem decimate_scr (s : State) (q before : Nat) : (decimate s q before).scr = s.scr := by have h := congrArg State.scr (decimate_frame s q before); exact h
@[simp] theorem decimate_arrays (s : State) (q before : Nat) : (decimate s q before).arrays = s.arrays := by have h := congrArg State.arrays (decimate_frame s q before); exact h
@[simp] theorem decimate_trowels (s : State) (q before : Nat) : (decimate s q before).trowels = s.trowels := by have h := congrArg State.trowels (decimate_frame s q before); exact h
@[simp] theorem decimate_ustore (s : State) (q before : Nat) : (decimate s q before).ustore = s.ustore := by have h := congrArg State.ustore (decimate_frame s q before); exact h
@[simp] theorem decimate_reducers (s : State) (q before : Nat) : (decimate s q before).reducers = s.reducers := by have h := congrArg State.reducers (decimate_frame s q before); exact h
@[simp] theorem decimate_dma (s : State) (q before : Nat) : (decimate s q before).dma = s.dma := by have h := congrArg State.dma (decimate_frame s q before); exact h
@[simp] theorem decimate_flt (s : State) (q before : Nat) : (decimate s q before).flt = s.flt := by have h := congrArg State.flt (decimate_frame s q before); exact h
@[simp] theorem decimate_itn (s : State) (q before : Nat) : (decimate s q before).itn = s.itn := by have h := congrArg State.itn (decimate_frame s q before); exact h
@[simp] theorem decimate_fab (s : State) (q before : Nat) : (decimate s q before).fab = s.fab := by have h := congrArg State.fab (decimate_frame s q before); exact h
@[simp] theorem decimate_sec (s : State) (q before : Nat) : (decimate s q before).sec = s.sec := by have h := congrArg State.sec (decimate_frame s q before); exact h
@[simp] theorem decimate_pwr (s : State) (q before : Nat) : (decimate s q before).pwr = s.pwr := by have h := congrArg State.pwr (decimate_frame s q before); exact h
@[simp] theorem decimate_srv (s : State) (q before : Nat) : (decimate s q before).srv = s.srv := by have h := congrArg State.srv (decimate_frame s q before); exact h
@[simp] theorem decimate_engines (s : State) (q before : Nat) : (decimate s q before).engines = s.engines := by have h := congrArg State.engines (decimate_frame s q before); exact h

theorem plainWrite_frame (s : State) (a v : Nat) : { plainWrite s a v with regs := s.regs } = s := by unfold plainWrite; split <;> rfl
@[simp] theorem plainWrite_pending (s : State) (a v : Nat) : (plainWrite s a v).pending = s.pending := by have h := congrArg State.pending (plainWrite_frame s a v); exact h
@[simp] theorem plainWrite_variant (s : State) (a v : Nat) : (plainWrite s a v).variant = s.variant := by have h := congrArg State.variant (plainWrite_frame s a v); exact h
@[simp] theorem plainWrite_bell (s : State) (a v : Nat) : (plainWrite s a v).bell = s.bell := by have h := congrArg State.bell (plainWrite_frame s a v); exact h
@[simp] theorem plainWrite_outbox (s : State) (a v : Nat) : (plainWrite s a v).outbox = s.outbox := by have h := congrArg State.outbox (plainWrite_frame s a v); exact h
@[simp] theorem plainWrite_freeCtr (s : State) (a v : Nat) : (plainWrite s a v).freeCtr = s.freeCtr := by have h := congrArg State.freeCtr (plainWrite_frame s a v); exact h
@[simp] theorem plainWrite_dep (s : State) (a v : Nat) : (plainWrite s a v).dep = s.dep := by have h := congrArg State.dep (plainWrite_frame s a v); exact h
@[simp] theorem plainWrite_mem (s : State) (a v : Nat) : (plainWrite s a v).mem = s.mem := by have h := congrArg State.mem (plainWrite_frame s a v); exact h
@[simp] theorem plainWrite_scr (s : State) (a v : Nat) : (plainWrite s a v).scr = s.scr := by have h := congrArg State.scr (plainWrite_frame s a v); exact h
@[simp] theorem plainWrite_arrays (s : State) (a v : Nat) : (plainWrite s a v).arrays = s.arrays := by have h := congrArg State.arrays (plainWrite_frame s a v); exact h
@[simp] theorem plainWrite_trowels (s : State) (a v : Nat) : (plainWrite s a v).trowels = s.trowels := by have h := congrArg State.trowels (plainWrite_frame s a v); exact h
@[simp] theorem plainWrite_ustore (s : State) (a v : Nat) : (plainWrite s a v).ustore = s.ustore := by have h := congrArg State.ustore (plainWrite_frame s a v); exact h
@[simp] theorem plainWrite_reducers (s : State) (a v : Nat) : (plainWrite s a v).reducers = s.reducers := by have h := congrArg State.reducers (plainWrite_frame s a v); exact h
@[simp] theorem plainWrite_cmd (s : State) (a v : Nat) : (plainWrite s a v).cmd = s.cmd := by have h := congrArg State.cmd (plainWrite_frame s a v); exact h
@[simp] theorem plainWrite_pci (s : State) (a v : Nat) : (plainWrite s a v).pci = s.pci := by have h := congrArg State.pci (plainWrite_frame s a v); exact h
@[simp] theorem plainWrite_dma (s : State) (a v : Nat) : (plainWrite s a v).dma = s.dma := by have h := congrArg State.dma (plainWrite_frame s a v); exact h
@[simp] theorem plainWrite_flt (s : State) (a v : Nat) : (plainWrite s a v).flt = s.flt := by have h := congrArg State.flt (plainWrite_frame s a v); exact h
@[simp] theorem plainWrite_itn (s : State) (a v : Nat) : (plainWrite s a v).itn = s.itn := by have h := congrArg State.itn (plainWrite_frame s a v); exact h
@[simp] theorem plainWrite_fab (s : State) (a v : Nat) : (plainWrite s a v).fab = s.fab := by have h := congrArg State.fab (plainWrite_frame s a v); exact h
@[simp] theorem plainWrite_sec (s : State) (a v : Nat) : (plainWrite s a v).sec = s.sec := by have h := congrArg State.sec (plainWrite_frame s a v); exact h
@[simp] theorem plainWrite_pwr (s : State) (a v : Nat) : (plainWrite s a v).pwr = s.pwr := by have h := congrArg State.pwr (plainWrite_frame s a v); exact h
@[simp] theorem plainWrite_srv (s : State) (a v : Nat) : (plainWrite s a v).srv = s.srv := by have h := congrArg State.srv (plainWrite_frame s a v); exact h
@[simp] theorem plainWrite_engines (s : State) (a v : Nat) : (plainWrite s a v).engines = s.engines := by have h := congrArg State.engines (plainWrite_frame s a v); exact h

theorem zeroRegs_frame (s : State) (as : List Nat) : { zeroRegs s as with regs := s.regs } = s := by
  unfold zeroRegs
  induction as generalizing s with
  | nil => rfl
  | cons a as ih => exact chainR (ih (setReg s a 0)) rfl
@[simp] theorem zeroRegs_pending (s : State) (as : List Nat) : (zeroRegs s as).pending = s.pending := by have h := congrArg State.pending (zeroRegs_frame s as); exact h
@[simp] theorem zeroRegs_variant (s : State) (as : List Nat) : (zeroRegs s as).variant = s.variant := by have h := congrArg State.variant (zeroRegs_frame s as); exact h
@[simp] theorem zeroRegs_bell (s : State) (as : List Nat) : (zeroRegs s as).bell = s.bell := by have h := congrArg State.bell (zeroRegs_frame s as); exact h
@[simp] theorem zeroRegs_outbox (s : State) (as : List Nat) : (zeroRegs s as).outbox = s.outbox := by have h := congrArg State.outbox (zeroRegs_frame s as); exact h
@[simp] theorem zeroRegs_freeCtr (s : State) (as : List Nat) : (zeroRegs s as).freeCtr = s.freeCtr := by have h := congrArg State.freeCtr (zeroRegs_frame s as); exact h
@[simp] theorem zeroRegs_dep (s : State) (as : List Nat) : (zeroRegs s as).dep = s.dep := by have h := congrArg State.dep (zeroRegs_frame s as); exact h
@[simp] theorem zeroRegs_mem (s : State) (as : List Nat) : (zeroRegs s as).mem = s.mem := by have h := congrArg State.mem (zeroRegs_frame s as); exact h
@[simp] theorem zeroRegs_scr (s : State) (as : List Nat) : (zeroRegs s as).scr = s.scr := by have h := congrArg State.scr (zeroRegs_frame s as); exact h
@[simp] theorem zeroRegs_arrays (s : State) (as : List Nat) : (zeroRegs s as).arrays = s.arrays := by have h := congrArg State.arrays (zeroRegs_frame s as); exact h
@[simp] theorem zeroRegs_trowels (s : State) (as : List Nat) : (zeroRegs s as).trowels = s.trowels := by have h := congrArg State.trowels (zeroRegs_frame s as); exact h
@[simp] theorem zeroRegs_ustore (s : State) (as : List Nat) : (zeroRegs s as).ustore = s.ustore := by have h := congrArg State.ustore (zeroRegs_frame s as); exact h
@[simp] theorem zeroRegs_reducers (s : State) (as : List Nat) : (zeroRegs s as).reducers = s.reducers := by have h := congrArg State.reducers (zeroRegs_frame s as); exact h
@[simp] theorem zeroRegs_cmd (s : State) (as : List Nat) : (zeroRegs s as).cmd = s.cmd := by have h := congrArg State.cmd (zeroRegs_frame s as); exact h
@[simp] theorem zeroRegs_pci (s : State) (as : List Nat) : (zeroRegs s as).pci = s.pci := by have h := congrArg State.pci (zeroRegs_frame s as); exact h
@[simp] theorem zeroRegs_dma (s : State) (as : List Nat) : (zeroRegs s as).dma = s.dma := by have h := congrArg State.dma (zeroRegs_frame s as); exact h
@[simp] theorem zeroRegs_flt (s : State) (as : List Nat) : (zeroRegs s as).flt = s.flt := by have h := congrArg State.flt (zeroRegs_frame s as); exact h
@[simp] theorem zeroRegs_itn (s : State) (as : List Nat) : (zeroRegs s as).itn = s.itn := by have h := congrArg State.itn (zeroRegs_frame s as); exact h
@[simp] theorem zeroRegs_fab (s : State) (as : List Nat) : (zeroRegs s as).fab = s.fab := by have h := congrArg State.fab (zeroRegs_frame s as); exact h
@[simp] theorem zeroRegs_sec (s : State) (as : List Nat) : (zeroRegs s as).sec = s.sec := by have h := congrArg State.sec (zeroRegs_frame s as); exact h
@[simp] theorem zeroRegs_pwr (s : State) (as : List Nat) : (zeroRegs s as).pwr = s.pwr := by have h := congrArg State.pwr (zeroRegs_frame s as); exact h
@[simp] theorem zeroRegs_srv (s : State) (as : List Nat) : (zeroRegs s as).srv = s.srv := by have h := congrArg State.srv (zeroRegs_frame s as); exact h
@[simp] theorem zeroRegs_engines (s : State) (as : List Nat) : (zeroRegs s as).engines = s.engines := by have h := congrArg State.engines (zeroRegs_frame s as); exact h

theorem depFlush_frame (s : State) (q : Nat) : { depFlush s q with dep := s.dep } = s := rfl
@[simp] theorem depFlush_pending (s : State) (q : Nat) : (depFlush s q).pending = s.pending := by have h := congrArg State.pending (depFlush_frame s q); exact h
@[simp] theorem depFlush_variant (s : State) (q : Nat) : (depFlush s q).variant = s.variant := by have h := congrArg State.variant (depFlush_frame s q); exact h
@[simp] theorem depFlush_regs (s : State) (q : Nat) : (depFlush s q).regs = s.regs := by have h := congrArg State.regs (depFlush_frame s q); exact h
@[simp] theorem depFlush_bell (s : State) (q : Nat) : (depFlush s q).bell = s.bell := by have h := congrArg State.bell (depFlush_frame s q); exact h
@[simp] theorem depFlush_outbox (s : State) (q : Nat) : (depFlush s q).outbox = s.outbox := by have h := congrArg State.outbox (depFlush_frame s q); exact h
@[simp] theorem depFlush_freeCtr (s : State) (q : Nat) : (depFlush s q).freeCtr = s.freeCtr := by have h := congrArg State.freeCtr (depFlush_frame s q); exact h
@[simp] theorem depFlush_mem (s : State) (q : Nat) : (depFlush s q).mem = s.mem := by have h := congrArg State.mem (depFlush_frame s q); exact h
@[simp] theorem depFlush_scr (s : State) (q : Nat) : (depFlush s q).scr = s.scr := by have h := congrArg State.scr (depFlush_frame s q); exact h
@[simp] theorem depFlush_arrays (s : State) (q : Nat) : (depFlush s q).arrays = s.arrays := by have h := congrArg State.arrays (depFlush_frame s q); exact h
@[simp] theorem depFlush_trowels (s : State) (q : Nat) : (depFlush s q).trowels = s.trowels := by have h := congrArg State.trowels (depFlush_frame s q); exact h
@[simp] theorem depFlush_ustore (s : State) (q : Nat) : (depFlush s q).ustore = s.ustore := by have h := congrArg State.ustore (depFlush_frame s q); exact h
@[simp] theorem depFlush_reducers (s : State) (q : Nat) : (depFlush s q).reducers = s.reducers := by have h := congrArg State.reducers (depFlush_frame s q); exact h
@[simp] theorem depFlush_cmd (s : State) (q : Nat) : (depFlush s q).cmd = s.cmd := by have h := congrArg State.cmd (depFlush_frame s q); exact h
@[simp] theorem depFlush_pci (s : State) (q : Nat) : (depFlush s q).pci = s.pci := by have h := congrArg State.pci (depFlush_frame s q); exact h
@[simp] theorem depFlush_dma (s : State) (q : Nat) : (depFlush s q).dma = s.dma := by have h := congrArg State.dma (depFlush_frame s q); exact h
@[simp] theorem depFlush_flt (s : State) (q : Nat) : (depFlush s q).flt = s.flt := by have h := congrArg State.flt (depFlush_frame s q); exact h
@[simp] theorem depFlush_itn (s : State) (q : Nat) : (depFlush s q).itn = s.itn := by have h := congrArg State.itn (depFlush_frame s q); exact h
@[simp] theorem depFlush_fab (s : State) (q : Nat) : (depFlush s q).fab = s.fab := by have h := congrArg State.fab (depFlush_frame s q); exact h
@[simp] theorem depFlush_sec (s : State) (q : Nat) : (depFlush s q).sec = s.sec := by have h := congrArg State.sec (depFlush_frame s q); exact h
@[simp] theorem depFlush_pwr (s : State) (q : Nat) : (depFlush s q).pwr = s.pwr := by have h := congrArg State.pwr (depFlush_frame s q); exact h
@[simp] theorem depFlush_srv (s : State) (q : Nat) : (depFlush s q).srv = s.srv := by have h := congrArg State.srv (depFlush_frame s q); exact h
@[simp] theorem depFlush_engines (s : State) (q : Nat) : (depFlush s q).engines = s.engines := by have h := congrArg State.engines (depFlush_frame s q); exact h

end Sys2Proof.Machine
end

