-- ==== Sys2Proof/Laws/Memory.lean ====
section
/-!
SUPPORT. The stacks' memory: a byte reads as written, the others as before, and every operation on the memory keeps its
canonical form.
-/
namespace Sys2Proof.Machine

/-! ### One byte, one check difference -/

@[simp] theorem rawByte_setRawByte_self (s : State) (a : Nat) (b : Byte) : rawByte (setRawByte s a b) a = b := by
  simp [rawByte, setRawByte]
theorem rawByte_setRawByte_other (s : State) {a x : Nat} (b : Byte) (h : x ≠ a) : rawByte (setRawByte s a b) x = rawByte s x :=
  mgetD_mput_other _ _ _ _ h
@[simp] theorem rawByte_setChk (s : State) (g d a : Nat) : rawByte (setChk s g d) a = rawByte s a := rfl
@[simp] theorem chkDiff_setChk_self (s : State) (g d : Nat) : chkDiff (setChk s g d) g = d := by simp [chkDiff, setChk]
theorem chkDiff_setChk_other (s : State) {g x : Nat} (d : Nat) (h : x ≠ g) : chkDiff (setChk s g d) x = chkDiff s x :=
  mgetD_mput_other _ _ _ _ h
@[simp] theorem chkDiff_setRawByte (s : State) (a g : Nat) (b : Byte) : chkDiff (setRawByte s a b) g = chkDiff s g := rfl

/-- Bytes stored in a row: those outside read as before. -/
theorem rawByte_setRawBytes_other (s : State) (a x : Nat) (bs : List Byte) (h : x < a ∨ a + bs.length ≤ x) :
    rawByte (setRawBytes s a bs) x = rawByte s x := by
  induction bs generalizing s a with
  | nil => rfl
  | cons b bs ih =>
    simp only [List.length_cons] at h
    rw [setRawBytes, ih _ _ (by omega), rawByte_setRawByte_other _ _ (by omega)]

/-- Bytes stored in a row: each reads as written. -/
theorem rawByte_setRawBytes_at (s : State) (a i : Nat) (bs : List Byte) (h : i < bs.length) :
    rawByte (setRawBytes s a bs) (a + i) = bs.getD i 0 := by
  induction bs generalizing s a i with
  | nil => simp at h
  | cons b bs ih =>
    cases i with
    | zero => rw [setRawBytes, rawByte_setRawBytes_other _ _ _ _ (by omega)]; simp
    | succ i => rw [setRawBytes, show a + (i + 1) = a + 1 + i by omega, ih _ _ _ (by simpa using h)]; simp

/-! ### The canonical form -/

/-- The memory of a state in canonical form. -/
abbrev memOk (s : State) : Prop := s.mem.wf = true

theorem memOk_of {s t : State} (hd : t.mem.dram = s.mem.dram) (hc : t.mem.chk = s.mem.chk) (h : memOk s) : memOk t := by
  simpa [memOk, Mem.wf, hd, hc] using h

theorem setRawByte_memOk {s : State} (a : Nat) (b : Byte) (h : memOk s) : memOk (setRawByte s a b) := by
  simp only [memOk, Mem.wf, Bool.and_eq_true] at h ⊢
  exact ⟨mcanon_mput h.1 a b, h.2⟩
theorem setChk_memOk {s : State} (g d : Nat) (h : memOk s) : memOk (setChk s g d) := by
  simp only [memOk, Mem.wf, Bool.and_eq_true] at h ⊢
  exact ⟨h.1, mcanon_mput h.2 g d⟩
theorem setRawBytes_memOk {s : State} (a : Nat) (bs : List Byte) (h : memOk s) : memOk (setRawBytes s a bs) := by
  induction bs generalizing s a with
  | nil => exact h
  | cons b bs ih => exact ih (a + 1) (setRawByte_memOk a b h)
theorem flipBit_memOk {s : State} (f : Flip) (h : memOk s) : memOk (flipBit s f) := by
  unfold flipBit
  dsimp only
  split
  · exact setChk_memOk _ _ h
  · exact setChk_memOk _ _ (setRawByte_memOk _ _ h)
theorem foldl_memOk {α : Type} (f : State → α → State) (hf : ∀ s x, memOk s → memOk (f s x)) (xs : List α) {s : State} (h : memOk s) :
    memOk (xs.foldl f s) := by
  induction xs generalizing s with
  | nil => exact h
  | cons x xs ih => exact ih (hf s x h)
theorem loopN_memOk (n : Nat) (f : Nat → State → State) (hf : ∀ i s, memOk s → memOk (f i s)) {s : State} (h : memOk s) :
    memOk (loopN n s f) := foldl_memOk _ (fun s i h => hf i s h) _ h
theorem flipBits_memOk {s : State} (fs : List Flip) (h : memOk s) : memOk (flipBits s fs) :=
  foldl_memOk _ (fun _ f h => flipBit_memOk f h) fs h
theorem modStack_memOk {s : State} (k : Nat) (f : Stack → Stack) (h : memOk s) : memOk (modStack s k f) := memOk_of rfl rfl h

theorem logStack_mem (s : State) (kind source : Nat) (l : Loc) (syn bit : Nat) :
    (logStack s kind source l syn bit).mem.dram = s.mem.dram ∧ (logStack s kind source l syn bit).mem.chk = s.mem.chk := by
  have key : ∀ t, logStack s kind source l syn bit = t → t.mem.dram = s.mem.dram ∧ t.mem.chk = s.mem.chk := by
    intro t ht
    unfold logStack at ht
    dsimp only at ht
    split at ht
    · split at ht
      · subst ht; exact ⟨rfl, rfl⟩
      · subst ht; exact ⟨(congrArg Mem.dram (pushRecord_mem s 0x10 _) :), (congrArg Mem.chk (pushRecord_mem s 0x10 _) :)⟩
    · subst ht; exact ⟨(congrArg Mem.dram (pushRecord_mem s 0x10 _) :), (congrArg Mem.chk (pushRecord_mem s 0x10 _) :)⟩
  exact key _ rfl
theorem logStack_memOk {s : State} (kind source : Nat) (l : Loc) (syn bit : Nat) (h : memOk s) : memOk (logStack s kind source l syn bit) :=
  memOk_of (logStack_mem s kind source l syn bit).1 (logStack_mem s kind source l syn bit).2 h
theorem noteRetired_memOk {s : State} (source : Nat) (l : Loc) (h : memOk s) : memOk (noteRetired s source l) :=
  memOk_of (s := logStack s 0x4 source l 0 0) rfl rfl (logStack_memOk _ _ _ _ _ h)
@[simp] theorem noticeLead_mem (s : State) (c g : Nat) : (noticeLead s c g).mem = s.mem := by
  unfold noticeLead; split <;> [(split <;> rfl); rfl]
@[simp] theorem quarantine_mem (s : State) (a : Nat) : (quarantine s a).mem = s.mem := by
  unfold quarantine
  dsimp only
  split
  · rfl
  · split
    · simp
    · split <;> simp
theorem bump_memOk {s : State} (a lo w n : Nat) (h : memOk s) : memOk (bump s a lo w n) := memOk_of rfl rfl h
theorem setReg_memOk {s : State} (a v : Nat) (h : memOk s) : memOk (setReg s a v) := memOk_of rfl rfl h
theorem setRegBit_memOk {s : State} (a i : Nat) (h : memOk s) : memOk (setRegBit s a i) := memOk_of rfl rfl h
theorem raiseTo_memOk {s : State} (a lo w n : Nat) (h : memOk s) : memOk (raiseTo s a lo w n) := memOk_of rfl rfl h
theorem memOk_mem {s t : State} (e : t.mem = s.mem) (h : memOk s) : memOk t := memOk_of (congrArg Mem.dram e) (congrArg Mem.chk e) h
theorem raiseIf_memOk {s : State} (a b c i : Nat) (h : memOk s) : memOk (raiseIf s a b c i) := memOk_mem (raiseIf_mem ..) h
theorem raiseAlarm_memOk {s : State} (k i : Nat) (h : memOk s) : memOk (raiseAlarm s k i) := memOk_mem (raiseAlarm_mem ..) h
theorem quarantine_memOk {s : State} (a : Nat) (h : memOk s) : memOk (quarantine s a) := memOk_mem (quarantine_mem ..) h
theorem noteCheck_memOk {s : State} (source : Nat) (l : Loc) (c : CheckClass) (diff : Nat) (m : Bool) (h : memOk s) :
    memOk (noteCheck s source l c diff m) := by
  cases c with
  | clean => exact h
  | checkBit b => exact raiseIf_memOk _ _ _ _ (logStack_memOk _ _ _ _ _ (bump_memOk _ _ _ _ (setChk_memOk _ _ h)))
  | dataBit j =>
    exact raiseIf_memOk _ _ _ _ (logStack_memOk _ _ _ _ _ (bump_memOk _ _ _ _ (setChk_memOk _ _ (setRawByte_memOk _ _ h))))
  | stored =>
    simp only [noteCheck]
    split
    · exact bump_memOk _ _ _ _ h
    · exact logStack_memOk _ _ _ _ _ (bump_memOk _ _ _ _ h)
  | uncorrectable =>
    simp only [noteCheck]
    have h3 := raiseIf_memOk (Reg.STK_CTRL l.stack) 3 0x0030 l.stack (raiseAlarm_memOk 0x05 l.stack
      (logStack_memOk (if m = true then 0x5 else 0x2) source l (syndromeField s.variant diff) 0
        (setRegBit_memOk (Reg.STK_ERR l.stack) 2 (setReg_memOk (Reg.STK_LAST_UE l.stack) (l.die * 2 ^ 22 + l.bank * 2 ^ 16 + l.row * 2 + 1)
          (bump_memOk (Reg.STK_UE_CNT l.stack) 0 32 1 h)))))
    split
    · exact quarantine_memOk _ h3
    · exact h3
theorem readGranule_memOk {s : State} (source g : Nat) (m : Bool) (h : memOk s) : memOk (readGranule s source g m).2.2 :=
  noteCheck_memOk _ _ _ _ _ h
theorem viewGranule_memOk {s : State} (source g : Nat) (h : memOk s) : memOk (viewGranule s source g).2 := by
  unfold viewGranule
  dsimp only
  split
  · exact readGranule_memOk _ _ _ h
  · split <;> exact readGranule_memOk _ _ _ h
theorem viewGranules_memOk {s : State} (source g n : Nat) (h : memOk s) : memOk (viewGranules s source g n).2 := by
  induction n generalizing s g with
  | zero => exact h
  | succ n ih => exact ih (g + 1) (viewGranule_memOk source g h)
/-- A bank read keeps the canonical form (its corrections are written back). -/
theorem bankRead_memOk {s : State} (source : Nat) (l : Loc) (n : Nat) (h : memOk s) : memOk (bankRead s source l n).2 := by
  have key : ∀ t, bankRead s source l n = t → memOk t.2 := by
    intro t ht
    unfold bankRead at ht
    split at ht
    · subst ht; exact h
    · split at ht
      · subst ht; exact noteRetired_memOk _ _ h
      · dsimp only at ht
        subst ht
        exact viewGranules_memOk _ _ _ h
  exact key _ rfl

theorem writeGranule_memOk {s : State} (g : Nat) (bs : List Byte) (p : Bool) (h : memOk s) : memOk (writeGranule s g bs p) :=
  setChk_memOk _ _ (setRawBytes_memOk _ _ h)
theorem closeEntry_memOk {s : State} (e : MergeEnt) (h : memOk s) : memOk (closeEntry s e) := by
  unfold closeEntry
  have h0 := modStack_memOk (locOf (e.sector * 32)).stack (fun x => { x with merge := x.merge.filter fun y => y.sector ≠ e.sector }) h
  split
  · exact noteRetired_memOk _ _ h0
  · split
    · exact writeGranule_memOk _ _ _ h0
    · exact writeGranule_memOk _ _ _ (bump_memOk _ _ _ _ (readGranule_memOk 6 e.sector true h0))
theorem closeAll_memOk {s : State} (k : Nat) (h : memOk s) : memOk (closeAll s k) :=
  foldl_memOk _ (fun _ e h => closeEntry_memOk e h) _ h
theorem mergeWrite_memOk {s : State} (g : Nat) (bs : List (Nat × Byte)) (p : Bool) (h : memOk s) : memOk (mergeWrite s g bs p) := by
  unfold mergeWrite
  dsimp only
  split
  · split
    · exact closeEntry_memOk _ (modStack_memOk _ _ h)
    · exact modStack_memOk _ _ h
  · refine memOk_of rfl rfl (modStack_memOk (s := (if 128 ≤ (stackAt s (locOf (g * 32)).stack).merge.length then
        match (stackAt s (locOf (g * 32)).stack).merge with
        | old :: _ => bump (closeEntry s old) (Reg.STK_MERGE (locOf (g * 32)).stack) 16 16 1
        | [] => s
      else s)) _ _ ?_)
    split
    · split
      · exact memOk_of rfl rfl (closeEntry_memOk _ h)
      · exact h
    · exact h
theorem writeBytes960_memOk {s : State} (a : Nat) (p : Bool) (bs : List Byte) (h : memOk s) : memOk (writeBytes960 s a p bs) := by
  induction bs generalizing s a with
  | nil => exact h
  | cons b bs ih => exact ih (a + 1) (writeGranule_memOk a [b] p h)
theorem writeSectors_memOk {s : State} (a : Nat) (bs : List Byte) (p : Bool) (h : memOk s) : memOk (writeSectors s a bs p) := by
  unfold writeSectors
  refine loopN_memOk _ _ (fun i s h => ?_) h
  dsimp only
  split
  · exact writeGranule_memOk _ _ _ (modStack_memOk _ _ h)
  · exact mergeWrite_memOk _ _ _ h
theorem bankStore_memOk {s : State} (a : Nat) (bs : List Byte) (p : Bool) (h : memOk s) : memOk (bankStore s a bs p) := by
  unfold bankStore
  split
  · exact writeBytes960_memOk _ _ _ h
  · exact writeSectors_memOk _ _ _ h
/-- A bank write keeps the canonical form. -/
theorem bankWrite_memOk {s : State} (source : Nat) (l : Loc) (bs : List Byte) (p : Bool) (h : memOk s) : memOk (bankWrite s source l bs p) := by
  unfold bankWrite
  split
  · exact h
  · split
    · exact noteRetired_memOk _ _ h
    · exact bankStore_memOk _ _ _ h
theorem deferInline_memOk {s : State} (source : Nat) (l : Loc) (h : memOk s) : memOk (deferInline s source l) := by
  unfold deferInline
  dsimp only
  split
  · exact h
  · exact raiseTo_memOk _ _ _ _ h
theorem pieceRead_memOk {s : State} (source dpa n : Nat) (h : memOk s) : memOk (pieceRead s source dpa n).2 := by
  unfold pieceRead
  split
  · exact h
  · exact bankRead_memOk _ _ _ (deferInline_memOk _ _ h)
/-- A read by DPA keeps the canonical form. -/
theorem dpaRead_memOk (source fuel : Nat) {s : State} (dpa n : Nat) (h : memOk s) : memOk (dpaRead s source fuel dpa n).2 := by
  induction fuel generalizing s dpa n with
  | zero => exact h
  | succ k ih =>
    unfold dpaRead
    split
    · exact h
    · exact ih _ _ (pieceRead_memOk _ _ _ h)
/-- A write by DPA keeps the canonical form. -/
theorem dpaWrite_memOk (source : Nat) (p : Bool) (fuel : Nat) {s : State} (dpa : Nat) (bs : List Byte) (h : memOk s) :
    memOk (dpaWrite s source p fuel dpa bs) := by
  induction fuel generalizing s dpa bs with
  | zero => exact h
  | succ k ih =>
    unfold dpaWrite
    split
    · exact h
    · dsimp only
      refine ih _ _ ?_
      split
      · exact h
      · exact bankWrite_memOk _ _ _ _ (deferInline_memOk _ _ h)

/-! ### Contents lost or taken out -/

theorem loseDram_memOk (s : State) : memOk (loseDram s) := by simp [memOk, Mem.wf, loseDram, mcanon, msorted]
theorem setGroups_memOk {s : State} (p : Nat) (h : memOk s) : memOk (setGroups s p) := by
  unfold setGroups
  split
  · exact h
  · simp [memOk, Mem.wf, mcanon, msorted]
/-- Entries taken out of the memory keep the canonical form (what the reset of a faulted stack does). -/
theorem filter_memOk {s : State} (m : Mem) (pd : Nat × Byte → Bool) (pc : Nat × Nat → Bool) (hd : m.dram = s.mem.dram.filter pd)
    (hc : m.chk = s.mem.chk.filter pc) (h : memOk s) : memOk { s with mem := m } := by
  simp only [memOk, Mem.wf, Bool.and_eq_true] at h ⊢
  simp only [hd, hc]
  exact ⟨mcanon_filter h.1 pd, mcanon_filter h.2 pc⟩
theorem stackReset_memOk {s : State} (k : Nat) (h : memOk s) : memOk (stackReset s k) := by
  unfold stackReset
  split
  · refine modStack_memOk _ _ (modStack_memOk _ _ ?_)
    exact memOk_of (s := { s with mem := { s.mem with losses := s.mem.losses + 1, dram := _, chk := _ } }) rfl rfl
      (filter_memOk _ (fun x => !((locOf x.1).stack == k && !isRetired s (locOf x.1)))
        (fun x => !((locOf (x.1 * granuleBytes s.variant)).stack == k && !isRetired s (locOf (x.1 * granuleBytes s.variant)))) rfl rfl h)
  · exact h

/-- The memory after reset is in canonical form. -/
theorem resetOf_memOk (v : Variant) : memOk (State.resetOf v) := by cases v <;> decide

end Sys2Proof.Machine
end

