-- ==== Sys2Proof/Laws/Screed.lean ====
section
/-!
SUPPORT. The screed: every operation on lines, victims, held accesses and skim requests keeps the canonical form of the
stacks' memory.
-/
namespace Sys2Proof.Machine

theorem emit_memOk {s : State} (o : Out) (h : memOk s) : memOk (emit s o) := h
theorem setField_memOk {s : State} (a lo w v : Nat) (h : memOk s) : memOk (setField s a lo w v) := h
theorem bumpSlice_memOk {s : State} (f : Nat → Nat → Nat) (sl n : Nat) (h : memOk s) : memOk (bumpSlice s f sl n) := h
theorem putLine_memOk {s : State} (k : Nat) (ln : Line) (h : memOk s) : memOk (putLine s k ln) := h

/-! ### Writeback -/

theorem writebackWord_memOk {s : State} (dpa : Nat) (ln : Line) (w : Nat) (h : memOk s) : memOk (writebackWord s dpa ln w) := by
  unfold writebackWord
  dsimp only
  split
  · exact dpaWrite_memOk _ _ _ _ _ h
  · exact foldl_memOk _ (fun _ _ h => dpaWrite_memOk _ _ _ _ _ h) _ h
theorem writebackHalf_memOk {s : State} (dpa : Nat) (ln : Line) (w : Nat) (h : memOk s) : memOk (writebackHalf s dpa ln w) := by
  unfold writebackHalf
  dsimp only
  split
  · exact dpaWrite_memOk _ _ _ _ _ h
  · exact foldl_memOk _ (fun _ _ h => writebackWord_memOk _ _ _ h) _ h
theorem writebackLine_memOk {s : State} (dpa : Nat) (ln : Line) (h : memOk s) : memOk (writebackLine s dpa ln) :=
  bumpSlice_memOk _ _ _ (writebackHalf_memOk _ _ _ (writebackHalf_memOk _ _ _ h))
theorem finishVictim_memOk {s : State} (v : Victim) (h : memOk s) : memOk (finishVictim s v) := by
  unfold finishVictim
  split
  · exact h
  · exact writebackLine_memOk _ _ h
theorem settleVictim_memOk {s : State} (dpa : Nat) (h : memOk s) : memOk (settleVictim s dpa) :=
  foldl_memOk _ (fun _ _ h => finishVictim_memOk _ h) _ h
theorem joinHeld_memOk {s : State} (a : HeldAcc) (h : memOk s) : memOk (joinHeld s a) := by
  unfold joinHeld
  split
  · exact modStack_memOk _ _ h
  · exact h

/-! ### Lines -/

theorem allocate_memOk {s : State} (dpa : Nat) (h : memOk s) : memOk (allocate s dpa).2 := by
  unfold allocate
  dsimp only
  split
  · exact h
  · split <;> exact h
theorem touchLine_memOk {s : State} (k : Nat) (ln : Line) (keep : Bool) (h : memOk s) : memOk (touchLine s k ln keep) := by
  have h1 : ∀ t : State, memOk t → ∀ l, memOk (putLine { t with scr := { t.scr with stamp := t.scr.stamp + 1 } } k l) := fun _ h _ => h
  unfold touchLine
  dsimp only
  refine h1 _ ?_ _
  split
  · split <;> exact h
  · exact h
theorem discardLine_memOk {s : State} (k : Nat) (ln : Line) (h : memOk s) : memOk (discardLine s k ln) := by
  unfold discardLine
  dsimp only
  split
  · exact h
  · exact raiseIf_memOk _ _ _ _ (bumpSlice_memOk _ _ _ h)

/-! ### The skim path -/

theorem noteSkim_memOk {s : State} (sl : Nat) (w r p : Bool) (h : memOk s) : memOk (noteSkim s sl w r p) := by
  unfold noteSkim
  dsimp only
  split <;> split <;> exact h
theorem noteSkimPoison_memOk {s : State} (sl : Nat) (bs : List PByte) (h : memOk s) : memOk (noteSkimPoison s sl bs) := by
  unfold noteSkimPoison
  split <;> exact h
theorem noteFrontFull_memOk {s : State} (sl : Nat) (h : memOk s) : memOk (noteFrontFull s sl) := by
  unfold noteFrontFull
  dsimp only
  split
  · exact raiseIf_memOk _ _ _ _ h
  · exact h
theorem noteChan_memOk {s : State} (k ch n : Nat) (h : memOk s) : memOk (noteChan s k ch n) := by
  unfold noteChan
  dsimp only
  split <;> exact h
theorem passSkim_memOk {s : State} (sl dpa : Nat) (h : memOk s) : memOk (passSkim s sl dpa) := by
  unfold passSkim
  dsimp only
  have h1 : memOk (if 256 ≤ frontDepth s sl then noteFrontFull s sl else noteFront s sl (frontDepth s sl + 1)) := by
    split
    · exact noteFrontFull_memOk _ h
    · exact h
  split
  · exact noteChan_memOk _ _ _ h1
  · exact h1
theorem stackBytes_memOk {s : State} (source dpa n : Nat) (h : memOk s) : memOk (stackBytes s source dpa n).2 :=
  dpaRead_memOk _ _ _ _ h
theorem deliver_memOk {s : State} (who : Waiter) (issuer dpa : Nat) (bs : List PByte) (h : memOk s) : memOk (deliver s who issuer dpa bs) := by
  unfold deliver
  dsimp only
  split
  · exact h
  · exact h
  · split <;> exact h
  · exact h
  · exact h
theorem performSkim_memOk {s : State} (q : SkimReq) (h : memOk s) : memOk (performSkim s q) := by
  unfold performSkim
  dsimp only
  split
  · split
    · exact h
    · exact deliver_memOk _ _ _ _ (noteSkimPoison_memOk _ _ h)
  · split
    · exact joinHeld_memOk _ h
    · split
      · exact noteSkim_memOk _ _ _ _ (dpaWrite_memOk _ _ _ _ _ h)
      · refine deliver_memOk _ _ _ _ ?_
        split
        · exact discardLine_memOk _ _ (noteSkim_memOk _ _ _ _ (stackBytes_memOk _ _ _ h))
        · exact noteSkim_memOk _ _ _ _ (stackBytes_memOk _ _ _ h)
theorem settleSkim_memOk {s : State} (dpa : Nat) (h : memOk s) : memOk (settleSkim s dpa) := by
  unfold settleSkim
  extract_lets mine atBank k banked all
  split
  · exact h
  · exact foldl_memOk _ (fun _ _ h => performSkim_memOk _ h) _ (modStack_memOk _ _ h)

/-! ### Accesses within one line -/

theorem uncachedRead_memOk {s : State} (source dpa n : Nat) (h : memOk s) : memOk (uncachedRead s source dpa n).2 := by
  unfold uncachedRead
  dsimp only
  split
  · exact noteSkim_memOk _ _ _ _ (stackBytes_memOk _ _ _ (passSkim_memOk _ _ h))
  · exact stackBytes_memOk _ _ _ h
theorem uncachedWrite_memOk {s : State} (source dpa : Nat) (bs : List Byte) (p : Bool) (h : memOk s) :
    memOk (uncachedWrite s source dpa bs p) := by
  unfold uncachedWrite
  dsimp only
  split
  · exact noteSkim_memOk _ _ _ _ (dpaWrite_memOk _ _ _ _ _ (passSkim_memOk _ _ h))
  · split
    · exact bumpSlice_memOk _ _ _ (dpaWrite_memOk _ _ _ _ _ h)
    · exact dpaWrite_memOk _ _ _ _ _ h
/-- A read through the screed keeps the canonical form. -/
theorem lineRead_memOk {s : State} (source : Nat) (hint : Hint) (dpa n : Nat) (h : memOk s) : memOk (lineRead s source hint dpa n).2 := by
  have h0 := settleSkim_memOk dpa h
  have h1 := settleVictim_memOk dpa h0
  unfold lineRead
  extract_lets t sl o u need found hit s1 m r base ret f al a ln
  have h2 : memOk m := by
    unfold m
    split
    · exact h1
    · exact bumpSlice_memOk _ _ _ h1
  have h3 : memOk s1 := bumpSlice_memOk _ _ _ h1
  have hr : memOk r.2 := uncachedRead_memOk _ _ _ h2
  have hf : memOk f.2 := stackBytes_memOk _ _ _ h2
  have hal : memOk al.2 := allocate_memOk _ hf
  clear_value al ret f r s1 m hit found
  have ha : memOk a.2 := by
    unfold a
    split
    · exact hf
    · exact hal
  clear_value ln a
  split
  · exact h0
  · split
    · exact uncachedRead_memOk _ _ _ h0
    · split
      · split
        · exact h1
        · split
          · exact touchLine_memOk _ _ _ h3
          · exact touchLine_memOk _ _ _ h3
          · exact h3
          · exact discardLine_memOk _ _ h3
      · split
        · exact hr
        · dsimp only
          split
          · exact discardLine_memOk _ _ hr
          · exact hr
        · split
          · exact hf
          · exact touchLine_memOk _ _ _ ha
/-- A write through the screed keeps the canonical form. -/
theorem lineWriteBy_memOk {s : State} (source issuer tag : Nat) (hint : Hint) (dpa : Nat) (bs : List Byte) (p : Bool) (h : memOk s) :
    memOk (lineWriteBy s source issuer tag hint dpa bs p) := by
  have h0 := settleSkim_memOk dpa h
  have h1 := settleVictim_memOk dpa h0
  unfold lineWriteBy
  extract_lets t sl o ret through u s1 a
  have h3 : memOk s1 := bumpSlice_memOk _ _ _ h1
  have hm := bumpSlice_memOk Reg.SCD_MISS sl 1 h1
  split
  · exact h0
  · split
    · exact joinHeld_memOk _ h0
    · split
      · exact uncachedWrite_memOk _ _ _ _ h0
      · split
        · split
          · exact dpaWrite_memOk _ _ _ _ _ (putLine_memOk _ _ h3)
          · exact touchLine_memOk _ _ _ h3
        · split
          · exact uncachedWrite_memOk _ _ _ _ h1
          · split
            · exact dpaWrite_memOk _ _ _ _ _ hm
            · exact touchLine_memOk _ _ _ (allocate_memOk _ hm)
theorem lineWrite_memOk {s : State} (source issuer : Nat) (hint : Hint) (dpa : Nat) (bs : List Byte) (p : Bool) (h : memOk s) :
    memOk (lineWrite s source issuer hint dpa bs p) := lineWriteBy_memOk _ _ _ _ _ _ _ h
theorem memRead_memOk (source : Nat) (hint : Hint) (fuel : Nat) {s : State} (dpa n : Nat) (h : memOk s) :
    memOk (memRead s source hint fuel dpa n).2 := by
  induction fuel generalizing s dpa n with
  | zero => exact h
  | succ k ih =>
    unfold memRead
    split
    · exact h
    · exact ih _ _ (lineRead_memOk _ _ _ _ h)
theorem memWrite_memOk (source issuer : Nat) (hint : Hint) (fuel : Nat) {s : State} (dpa : Nat) (bs : List PByte) (h : memOk s) :
    memOk (memWrite s source issuer hint fuel dpa bs) := by
  induction fuel generalizing s dpa bs with
  | zero => exact h
  | succ k ih =>
    unfold memWrite
    split
    · exact h
    · exact ih _ _ (lineWrite_memOk _ _ _ _ _ _ h)
/-- A read of memory keeps the canonical form. -/
theorem readMem_memOk {s : State} (source : Nat) (hint : Hint) (dpa n : Nat) (h : memOk s) : memOk (readMem s source hint dpa n).2 :=
  memRead_memOk _ _ _ _ _ h
/-- A write of memory keeps the canonical form. -/
theorem writeMem_memOk {s : State} (source issuer : Nat) (hint : Hint) (dpa : Nat) (bs : List PByte) (h : memOk s) :
    memOk (writeMem s source issuer hint dpa bs) := memWrite_memOk _ _ _ _ _ _ h
theorem performHeld_memOk {s : State} (a : HeldAcc) (h : memOk s) : memOk (performHeld s a) := by
  unfold performHeld
  split
  · exact lineWriteBy_memOk _ _ _ _ _ _ _ h
  · exact deliver_memOk _ _ _ _ (lineRead_memOk _ _ _ _ h)
theorem releaseHeld_memOk {s : State} (k : Nat) (h : memOk s) : memOk (releaseHeld s k) :=
  foldl_memOk _ (fun _ _ h => performHeld_memOk _ h) _ (modStack_memOk _ _ h)
theorem performFill_memOk {s : State} (f : FillReq) (h : memOk s) : memOk (performFill s f) :=
  emit_memOk _ (lineRead_memOk _ _ _ _ h)

/-! ### Queues of a bank -/

theorem markHead_memOk {s : State} (k die bank : Nat) (h : memOk s) : memOk (markHead s k die bank) := by
  unfold markHead
  split
  · split
    · exact h
    · exact modStack_memOk _ _ h
  · exact h
theorem joinBank_memOk {s : State} (k : Nat) (r : BankReq) (h : memOk s) : memOk (joinBank s k r) :=
  markHead_memOk _ _ _ (modStack_memOk _ _ h)
theorem commitNotice_memOk {s : State} (dpa : Nat) (m : BitVec 64) (h : memOk s) : memOk (commitNotice s dpa m) := by
  unfold commitNotice
  dsimp only
  split <;> exact h

end Sys2Proof.Machine
end

