-- ==== Sys2Proof/Laws/Trowels.lean ====
section
/-!
SUPPORT. The trowels and their stacks: every operation keeps the canonical form of the stacks' memory.
-/
namespace Sys2Proof.Machine

/-! ### Operations that leave the memory alone -/

theorem setTrowel_memOk {s : State} (x : TSite) (t : Trowel) (h : memOk s) : memOk (setTrowel s x t) := h
theorem modCmd_memOk {s : State} (x : TSite) (f : TrwCmd → TrwCmd) (h : memOk s) : memOk (modCmd s x f) := h
theorem zeroRegs_memOk {s : State} (as : List Nat) (h : memOk s) : memOk (zeroRegs s as) := memOk_mem (zeroRegs_mem ..) h
theorem plainWrite_memOk {s : State} (a v : Nat) (h : memOk s) : memOk (plainWrite s a v) := by
  unfold plainWrite; split <;> exact h
theorem raiseEvent_memOk {s : State} (c i : Nat) (h : memOk s) : memOk (raiseEvent s c i) := memOk_mem (raiseEvent_mem ..) h
theorem raiseTrwDone_memOk {s : State} (x : TSite) (h : memOk s) : memOk (raiseTrwDone s x) := by
  unfold raiseTrwDone; split
  · exact raiseEvent_memOk _ _ h
  · exact h
theorem lostWork_memOk {s : State} (h : memOk s) : memOk (lostWork s) := by
  unfold lostWork
  extract_lets
  split <;> exact h
theorem itemDone_memOk {s : State} (i : Option Nat) (h : memOk s) : memOk (itemDone s i) := by
  unfold itemDone; split
  · exact h
  · split <;> exact h
theorem launchDone_memOk {s : State} (i : Option Nat) (h : memOk s) : memOk (launchDone s i) := by
  unfold launchDone
  split
  · split
    · split
      · exact h
      · exact itemDone_memOk _ h
    · exact itemDone_memOk _ h
  · exact itemDone_memOk _ h
theorem runFlags_memOk {s : State} (f : Flags) (p : Bool) (h : memOk s) : memOk (runFlags s f p) := h
theorem beginItem_memOk {s : State} (i : Item) (h : memOk s) : memOk (beginItem s i) := h
theorem setReducer_memOk {s : State} (k : Nat) (r : Reducer) (h : memOk s) : memOk (setReducer s k r) := h

/-! ### Commands that end -/

theorem setPostponed_memOk {s : State} (k b n : Nat) (h : memOk s) : memOk (setPostponed s k b n) :=
  raiseTo_memOk _ _ _ _ h
theorem lateRefresh_memOk {s : State} (k n : Nat) (h : memOk s) : memOk (lateRefresh s k n) := bump_memOk _ _ _ _ h
theorem noteDefer_memOk {s : State} (x : TSite) (n : Nat) (h : memOk s) : memOk (noteDefer s x n) := raiseTo_memOk _ _ _ _ h
theorem setServed_memOk {s : State} (k i : Nat) (h : memOk s) : memOk (setServed s k i) := h
theorem serveBank_memOk {s : State} (k : Nat) (r : BankReq) (h : memOk s) : memOk (serveBank s k r) := by
  unfold serveBank
  extract_lets l dpa
  split
  · split
    · split
      · exact joinHeld_memOk _ h
      · exact bankWrite_memOk _ _ _ _ h
    · exact emit_memOk _ (bankRead_memOk _ _ _ h)
  · exact performSkim_memOk _ h
  · exact performFill_memOk _ h
  · split
    · exact finishVictim_memOk _ h
    · exact h
  · exact h
theorem serveHead_memOk {s s1 : State} {k die bank c : Nat} (h : memOk s) (e : serveHead s k die bank c = some s1) : memOk s1 := by
  unfold serveHead at e
  split at e
  · cases e
  · rename_i r _
    have h1 := setServed_memOk (512 + bankKey k die bank) (rankOf r.issuer none) (modStack_memOk k (fun y => { y with bankq := y.bankq.erase r }) h)
    extract_lets x s1 s2 at e
    have h2 : memOk s2 := by
      unfold s2
      split
      · exact noteDefer_memOk _ _ h1
      · exact h1
    cases Option.some.inj e
    exact serveBank_memOk _ _ h2
theorem serveAll_memOk (fuel : Nat) {s : State} (k die bank c : Nat) (h : memOk s) : memOk (serveAll fuel s k die bank c) := by
  induction fuel generalizing s with
  | zero => exact h
  | succ n ih =>
    unfold serveAll
    split
    · exact ih (markHead_memOk _ _ _ (serveHead_memOk h ‹_›))
    · exact h
theorem serveBankEnd_memOk {s : State} (k die bank c : Nat) (h : memOk s) : memOk (serveBankEnd s k die bank c) := by
  have h1 := serveAll_memOk (bankEntries s k die bank).length k die bank c h
  unfold serveBankEnd
  extract_lets
  split
  · exact h1
  · exact lateRefresh_memOk _ _ (setPostponed_memOk _ _ _ h1)
theorem servePair_memOk {s : State} (x : TSite) (c : Nat) (h : memOk s) : memOk (servePair s x c) :=
  serveBankEnd_memOk _ _ _ _ (serveBankEnd_memOk _ _ _ _ h)
theorem endKilled_memOk {s : State} (x : TSite) (o : TrwOutcome) (h : memOk s) : memOk (endKilled s x o) := by
  unfold endKilled
  extract_lets t
  split
  · exact h
  · extract_lets now src again s1 s2 s3 s4
    have h2 : memOk s2 := bump_memOk _ _ _ _ (setTrowel_memOk _ _ h)
    have h3 : memOk s3 := by
      clear_value s2
      unfold s3
      split
      · exact setRegBit_memOk _ _ h2
      · exact setRegBit_memOk _ _ h2
      · exact h2
    have h4 : memOk s4 := raiseTrwDone_memOk _ h3
    clear_value s4
    split
    · exact h4
    · exact servePair_memOk _ _ h4
theorem endDrains_memOk {s : State} (h : memOk s) : memOk (endDrains s) := by
  refine foldl_memOk _ (fun s kv h => ?_) _ h
  split
  · exact h
  · exact servePair_memOk _ _ (setTrowel_memOk _ _ h)
theorem endDone_memOk {s : State} (x : TSite) (h : memOk s) : memOk (endDone s x) := by
  unfold endDone
  dsimp only
  split
  · exact h
  · refine servePair_memOk _ _ (raiseTrwDone_memOk _ ?_)
    split
    · exact runFlags_memOk _ _ (launchDone_memOk _ h)
    · exact h
theorem startCmd_memOk {s : State} (x : TSite) (c : TrwCmd) (h : memOk s) : memOk (startCmd s x c) := by
  unfold startCmd
  dsimp only
  split
  · exact endKilled_memOk _ _ h
  · exact h
theorem killCmd_memOk {s : State} (x : TSite) (h : memOk s) : memOk (killCmd s x) := by
  unfold killCmd
  split
  · exact endKilled_memOk _ _ h
  · exact endKilled_memOk _ _ h
  · exact h
theorem directLaunch_memOk {s : State} (x : TSite) (e : Nat) (h : memOk s) : memOk (directLaunch s x e) := by
  unfold directLaunch
  dsimp only
  split
  · exact startCmd_memOk _ _ h
  · exact setRegBit_memOk _ _ h
theorem writeTrwCtrl_memOk {s : State} (x : TSite) (v : Nat) (h : memOk s) : memOk (writeTrwCtrl s x v) := by
  unfold writeTrwCtrl
  extract_lets s1 s2
  have h1 : memOk s1 := plainWrite_memOk _ _ h
  have h2 : memOk s2 := by
    unfold s2
    split
    · exact setField_memOk _ _ _ _ (zeroRegs_memOk _ h1)
    · exact h1
  clear_value s2
  split
  · exact h
  · split
    · exact setRegBit_memOk _ _ h
    · split
      · exact killCmd_memOk _ h2
      · split
        · split
          · exact setTrowel_memOk _ _ h2
          · exact directLaunch_memOk _ _ h2
        · exact h2

/-! ### Slots -/

theorem takeRefresh_memOk {s s1 : State} {x : TSite} {b : Nat} (h : memOk s) (e : takeRefresh s x b = some s1) : memOk s1 := by
  unfold takeRefresh at e
  split at e
  · cases e
  · split at e
    · cases e
    · split at e
      · cases e
      · cases e; exact modCmd_memOk _ _ h
theorem retryRefresh_memOk {s : State} (x : TSite) (b : Nat) (h : memOk s) : memOk (retryRefresh s x b) := by
  unfold retryRefresh
  extract_lets
  split
  · exact h
  · split
    · exact lateRefresh_memOk _ _ (setPostponed_memOk _ _ _ (takeRefresh_memOk h ‹_›))
    · exact h
theorem advance_memOk {s : State} (x : TSite) (h : memOk s) : memOk (advance s x) := by
  unfold advance
  split
  · exact h
  · dsimp only
    split
    · exact endKilled_memOk _ _ h
    · exact retryRefresh_memOk _ _ (retryRefresh_memOk _ _ (modCmd_memOk _ _ h))
theorem commitX_memOk {s : State} (x : TSite) (w : Nat) (c : Option TrwCmd) (h : memOk s) : memOk (commitX s x w c) := by
  unfold commitX
  split
  · exact endKilled_memOk _ _ h
  · exact modCmd_memOk _ _ h
/-- An X-slot operation keeps the form where its own effect does. -/
theorem xStep_memOk {s : State} (x : TSite) (op : Nat) (act : TrwCmd → Nat → State) (h : memOk s) (ha : ∀ c w, memOk (act c w)) :
    memOk (xStep s x op act) := by
  unfold xStep
  dsimp only
  split
  · split
    · exact h
    · split
      · exact endKilled_memOk _ _ h
      · split
        · exact ha _ _
        · exact h
  · split
    · exact ha _ _
    · exact h
  · exact h
theorem simpleX_memOk {s : State} (x : TSite) (op : Nat) (f : TrwCmd → Nat → TrwCmd) (h : memOk s) : memOk (simpleX s x op f) :=
  xStep_memOk _ _ _ h fun _ _ => commitX_memOk _ _ _ h
theorem cStep_memOk {s : State} (x : TSite) (op : Nat) (f : TrwCmd → Nat → TrwCmd) (h : memOk s) : memOk (cStep s x op f) := by
  unfold cStep
  dsimp only
  split
  · exact h
  · split
    · exact h
    · exact advance_memOk _ (modCmd_memOk _ _ h)
theorem noteStall_memOk {s : State} (x : TSite) (n : Nat) (h : memOk s) : memOk (noteStall s x n) := bump_memOk _ _ _ _ h
theorem openRow_memOk {s : State} (x : TSite) (c : TrwCmd) (w : Nat) (h : memOk s) : memOk (openRow s x c w) := by
  unfold openRow
  dsimp only
  split
  · exact endKilled_memOk _ _ h
  · split
    · exact endKilled_memOk _ _ h
    · refine modCmd_memOk _ _ (noteStall_memOk _ _ (bankRead_memOk _ _ _ ?_))
      split
      · exact setRegBit_memOk _ _ h
      · split
        · exact setRegBit_memOk _ _ h
        · exact h
theorem streamBeat_memOk {s : State} (x : TSite) (c : TrwCmd) (w : Nat) (h : memOk s) : memOk (streamBeat s x c w) := by
  unfold streamBeat
  dsimp only
  split
  · exact endKilled_memOk _ _ h
  · exact commitX_memOk _ _ _ h
theorem loadQ_memOk {s : State} (x : TSite) (c : TrwCmd) (w : Nat) (h : memOk s) : memOk (loadQ s x c w) := by
  unfold loadQ
  dsimp only
  split
  · split
    · exact endKilled_memOk _ _ h
    · exact commitX_memOk _ _ _ h
  · split
    · exact endKilled_memOk _ _ h
    · split
      · exact endKilled_memOk _ _ h
      · exact commitX_memOk _ _ _ h
theorem storeLanes_memOk {s : State} (x : TSite) (c : TrwCmd) (w : Nat) (h : memOk s) : memOk (storeLanes s x c w) := by
  unfold storeLanes
  dsimp only
  split
  · exact endKilled_memOk _ _ h
  · split
    · exact endKilled_memOk _ _ h
    · exact commitX_memOk _ _ _ h
theorem loopOp_memOk {s : State} (x : TSite) (c : TrwCmd) (w : Nat) (h : memOk s) : memOk (loopOp s x c w) := by
  unfold loopOp
  dsimp only
  split
  · exact endKilled_memOk _ _ h
  · exact commitX_memOk _ _ _ h
theorem widenOp_memOk {s : State} (x : TSite) (h : memOk s) : memOk (widenOp s x) := by
  unfold widenOp
  dsimp only
  split
  · exact h
  · split
    · exact h
    · split
      · exact endKilled_memOk _ _ h
      · exact modCmd_memOk _ _ h

/-! ### COMMIT -/

theorem writeRow_memOk {s : State} (base : Nat) (bytes : List (Nat × Byte)) (pz : List Nat) (h : memOk s) : memOk (writeRow s base bytes pz) := by
  unfold writeRow
  split
  · exact foldl_memOk _ (fun _ _ h => writeGranule_memOk _ _ _ h) _ h
  · refine loopN_memOk _ _ (fun i s h => ?_) h
    dsimp only
    split
    · exact h
    · split
      · exact writeGranule_memOk _ _ _ (modStack_memOk _ _ h)
      · exact mergeWrite_memOk _ _ _ h
theorem rowNotices_memOk {s : State} (l : Loc) (t : Nat) (bytes : List (Nat × Byte)) (h : memOk s) : memOk (rowNotices s l t bytes) := by
  unfold rowNotices
  split
  · exact h
  · refine loopN_memOk _ _ (fun i s h => ?_) h
    dsimp only
    split
    · exact h
    · exact modStack_memOk _ _ h
theorem doCommit_memOk {s : State} (x : TSite) (c : TrwCmd) (w : Nat) (h : memOk s) : memOk (doCommit s x c w) := by
  unfold doCommit
  extract_lets pv t s0 r bs l
  have h0 : memOk s0 := setTrowel_memOk _ _ h
  clear_value s0
  split
  · exact setReducer_memOk _ _ h0
  · split
    · refine setRegBit_memOk _ _ ?_
      split
      · exact h0
      · exact noteRetired_memOk _ _ h0
    · split
      · exact h0
      · split
        · exact h0
        · exact rowNotices_memOk _ _ _ (writeRow_memOk _ _ _ h0)
theorem commitOp_memOk {s : State} (x : TSite) (c : TrwCmd) (w : Nat) (h : memOk s) : memOk (commitOp s x c w) := by
  unfold commitOp
  extract_lets
  split
  · exact endKilled_memOk _ _ h
  · split
    · exact endKilled_memOk _ _ h
    · extract_lets
      split
      · exact setTrowel_memOk _ _ (noteStall_memOk _ _ h)
      · exact doCommit_memOk _ _ _ (noteStall_memOk _ _ h)
theorem heldResume_memOk {s : State} (x : TSite) (h : memOk s) : memOk (heldResume s x) := by
  unfold heldResume
  dsimp only
  split
  · split
    · exact h
    · exact doCommit_memOk _ _ _ h
  · exact h
theorem launchPlan_memOk {s : State} (t : TSite) (i : Item) (l : TrwLaunch) (v : AttnPlan) (h : memOk s) : memOk (launchPlan s t i l v) := by
  unfold launchPlan
  extract_lets n s1
  have h1 : memOk s1 := by
    unfold s1
    split <;> exact h
  clear_value s1
  split
  · extract_lets
    split
    · exact setRegBit_memOk _ _ h
    · exact startCmd_memOk _ _ h1
  · exact itemDone_memOk _ h1
theorem disableTrowel_memOk {s : State} (x : TSite) (h : memOk s) : memOk (disableTrowel x s) := by
  unfold disableTrowel
  split
  · exact endKilled_memOk _ _ h
  · exact endKilled_memOk _ _ h
  · exact setTrowel_memOk _ _ h
  · exact h
theorem endStackCmds_memOk {s : State} (k : Nat) (o : TrwOutcome) (h : memOk s) : memOk (endStackCmds s k o) := by
  refine foldl_memOk _ (fun s kv h => ?_) _ h
  split
  · exact endKilled_memOk _ _ h
  · exact h
theorem scrubRow_memOk {s : State} (l : Loc) (h : memOk s) : memOk (scrubRow s l) :=
  foldl_memOk _ (fun _ _ h => noteCheck_memOk _ _ _ _ _ h) _ h
theorem scrubOne_memOk {s : State} (k : Nat) (h : memOk s) : memOk (scrubOne s k) := by
  unfold scrubOne
  extract_lets pos l s1 late s2 s3
  have h1 : memOk s1 := modStack_memOk _ _ (by split; exact h; exact scrubRow_memOk _ h)
  have h3 : memOk s3 := by
    show memOk (if _ then _ else _)
    split
    · exact setRegBit_memOk _ _ (modStack_memOk _ _ h1)
    · exact modStack_memOk _ _ h1
  split
  · exact modStack_memOk _ _ h1
  · exact raiseIf_memOk _ _ _ _ h3
theorem scrubDue_memOk (fuel : Nat) {s : State} (k : Nat) (h : memOk s) : memOk (scrubDue fuel s k) := by
  induction fuel generalizing s with
  | zero => exact h
  | succ n ih =>
    unfold scrubDue
    dsimp only
    split
    · exact h
    · exact ih (scrubOne_memOk _ h)
theorem planJob_memOk {s : State} (k : Nat) (h : memOk s) : memOk (planJob s k) := by
  unfold planJob
  dsimp only
  split
  · exact h
  · split
    · exact h
    · split <;> exact h

end Sys2Proof.Machine
end

