-- ==== Sys2Proof/Tests/Slice0.lean ====
section
/-!
SUPPORT. Tests of the model on small states: for every statement with hypotheses a state that meets them.
-/
namespace Sys2Proof.Tests
open Sys2Proof Sys2Proof.Machine

set_option Elab.async false

theorem test_reset_canonical : Mem.wf State.reset.mem = true := by decide


/-! ### WellFormed: a term that each check refuses, at the first value outside its range -/

theorem test_wf_operands :
    Packet.wf ⟨256, 0, 0, 0, 0, 0⟩ = false ∧ Packet.wf ⟨255, 0, 0, 0, 0, 0⟩ = true ∧
    Site.wf ⟨2, 0, 0, 0, []⟩ = false ∧ Site.wf ⟨0, 96, 0, 0, []⟩ = false ∧ Site.wf ⟨0, 0, 1024, 0, []⟩ = false ∧
    Site.wf ⟨1, 95, 1023, 0, []⟩ = true ∧
    TSite.wf ⟨12, 0⟩ = false ∧ TSite.wf ⟨0, 640⟩ = false ∧ TSite.wf ⟨11, 639⟩ = true ∧
    SmbTxn.wf ⟨3, none, []⟩ = false ∧ SmbTxn.wf ⟨2, none, []⟩ = true := by decide
theorem test_wf_access :
    Access.wf ⟨1292, none, false, .normal, 0, 1, [], false⟩ = false ∧ Access.wf ⟨0, none, false, .normal, 0, 0, [], false⟩ = false ∧
    Access.wf ⟨0, none, false, .normal, 63, 2, [], false⟩ = false ∧ Access.wf ⟨0, none, true, .normal, 0, 2, [0], false⟩ = false ∧
    Access.wf ⟨1291, none, true, .normal, 62, 2, [0, 0], false⟩ = true := by decide
theorem test_wf_structured :
    [Instr.deviceInit ⟨256, 0, 0, 0, 0, 0⟩ [], .nop ⟨2, 0, 0, 0, []⟩, .trwXNop ⟨12, 0⟩, .smbIdentity ⟨3, none, []⟩,
      .sliceAccess ⟨0, none, false, .normal, 63, 2, [], false⟩ .clean .clean, .channelWindow ⟨0, 0⟩ 2].all (fun c => !c.wf) = true := by decide
theorem test_wf_queues :
    [Instr.copy 32 0 [], .copy 0 65536 [], .completionTimeout 32 0, .completionTimeout 0 65536, .hubSqTail 65 0 0, .hubSqTail 0 256 0,
      .hubSqHalt 0 4 0, .registerWrite 65 0 [0] false, .registerWrite 0 0 [] false, .registerWrite 0 0 (List.replicate 9 0) false,
      .push 256 0 0 0, .dmaChanFeed 32 1 0, .dmaChanFeed 0 3 0].all (fun c => !c.wf) = true := by decide
theorem test_wf_arrays :
    [Instr.screedReturn 2 0 0 0, .screedReturn 0 96 0 0, .screedReturn 0 0 1024 0, .screedReturn 0 0 0 16, .tileEnd 2 0, .tileEnd 0 96,
      .prefetchDone 0 0 8, .clusterClockLoss 0 12, .aryClrCounters 2 0, .writebackDone 8, .commitNotice (2 ^ 40),
      .skimAccess 0 false (2 ^ 40) 0 false, .skimChannelService 12 0 [], .skimChannelService 0 32 [], .writeback 2].all (fun c => !c.wf) = true := by
  decide
theorem test_wf_stacks :
    [Instr.bankAccess 0 0 false 0 0 [] false [], .bankAccess 0 0 false 0 65 [] false [], .refresh 12 0 0, .refresh 0 20 0, .refresh 0 0 64,
      .scrubVisit 12 [], .trowelClusterDisable 12 0, .trowelClusterDisable 0 20, .controlSpaceAccess 0 false 0 5 0 false,
      .rdcSum 12 0].all (fun c => !c.wf) = true := by decide
theorem test_wf_ports :
    [Instr.frameTimeout 16, .arrivalRelease 65536, .sampleRow 8, .stencilRow 4, .adapterLoadDone 256, .flitReceive 16 (List.replicate 128 0) true 0,
      .flitReceive 0 [] true 0, .controlFlit 16 0 false 0 0, .controlFlit 0 4096 false 0 0, .controlFlit 0 0 false 6 0,
      .controlFlit 0 0 false 0 256].all (fun c => !c.wf) = true := by decide
theorem test_wf_host :
    [Instr.bar2Read 65 0 1, .flrVf 0, .flrVf 65, .vfEnable true 65, .vectorUnmask 65 0, .vectorUnmask 0 256, .sensorSample 281 0,
      .inputReturn 65536, .dieFault true 12, .hostLinkTrained 0 1 true, .hostLinkTrained 8 1 true, .hostLinkTrained 1 0 true,
      .hostLinkTrained 1 17 true, .bar2Resize 65 0, .bar2Resize 0 11].all (fun c => !c.wf) = true := by decide
/-- A recipe word whose only step has an operation, reads registers and writes register 8, for one context. -/
def stepWord (op : Nat) (kind : Nat) : BitVec 512 :=
  BitVec.ofNat 512 (0x1 * 2 ^ 496 + 1 * 2 ^ 480 + 1 * 2 ^ 448 + 1 * 2 ^ 428 + op * 2 ^ 90 + 8 * 2 ^ 85 + kind * 2 ^ 43)
/-- Array 0 with one context of cell 0 at that step. -/
def stepState (op : Nat) (kind : Nat) : State :=
  setArr .reset 0 { Arr.reset with state := .active, ramp := 8, ctxs := [(0, Ctx.fresh)],
                                   active := some ⟨7, 3, 0, [(0, stepWord op kind)], []⟩ }
/-- Its site. -/
def site0 : Site := ⟨0, 0, 0, 0, []⟩
/-- Its tile. -/
def tile0 (op kind : Nat) : Tile := ⟨7, 3, 0, [(0, stepWord op kind)], []⟩
/-- A register's zero as an operand. -/
def zero64 : Opnd := ⟨0, none, false⟩

theorem witness_LaneSteps :
    (∀ op ∈ [2, 3, 4, 5, 6], Issuing (stepState op 0) site0 op (tile0 op 0) Ctx.fresh zero64 zero64) := by
  intro op h
  fin_cases h <;> constructor <;> decide +kernel
theorem witness_UnarySteps :
    Issuing (stepState 0 0) site0 0 (tile0 0 0) Ctx.fresh .zero .zero ∧
    (∀ op ∈ [7, 8, 9], Issuing (stepState op 0) site0 op (tile0 op 0) Ctx.fresh zero64 .zero) ∧
    Issuing (stepState 10 0) site0 10 (tile0 10 0) Ctx.fresh ⟨0, some 0, false⟩ .zero := by
  refine ⟨by constructor <;> decide +kernel, fun op h => ?_, by constructor <;> decide +kernel⟩
  fin_cases h <;> constructor <;> decide +kernel

/-- Array 0 at a step with a given output format. -/
def fmtState (op fmt : Nat) : State :=
  let w := stepWord op 0 + BitVec.ofNat 512 ((fmt - 1) * 2 ^ 448)
  setArr .reset 0 { Arr.reset with state := .active, ramp := 8, ctxs := [(0, Ctx.fresh)], active := some ⟨7, 3, 0, [(0, w)], []⟩ }

theorem witness_ConvertSteps :
    Issuing (stepState 1 0) site0 1 (tile0 1 0) Ctx.fresh ⟨0, some 0, false⟩ ⟨0, some 0, false⟩ ∧
    (Issuing (stepState 11 0) site0 11 (tile0 11 0) Ctx.fresh zero64 .zero ∧
      ((fmtDecode (rFmtOut ((tile0 11 0).word 0))).any fun o => !isBlock o.code) = true) ∧
    (let w := stepWord 12 0 + BitVec.ofNat 512 (13 * 2 ^ 448)
     Issuing (fmtState 12 0x0E) site0 12 ⟨7, 3, 0, [(0, w)], []⟩ Ctx.fresh .zero .zero ∧
      ((fmtDecode (rFmtOut w)).any fun o => isBlock o.code) = true) := by
  refine ⟨by constructor <;> decide +kernel, ⟨by constructor <;> decide +kernel, by decide +kernel⟩,
    by constructor <;> decide +kernel, by decide +kernel⟩

/-- An atomic of array 0 on the word at DPA 0. -/
def atom0 : AtomReq :=
  { slice := 0, issuer := 0, slot := none, aop := 0, dpa := 0, x := 0, y := 0, keep := false, poison := false, who := .ctx 0 0 0 }
/-- The same with the atomic queue of its home slice full. -/
def fullState : State := let s := stepState 20 0; { s with scr := { s.scr with atoms := List.replicate 256 atom0 } }
/-- A store step's array whose DRAIN copy of that range is pending. -/
def drainState : State := modArr (stepState 17 0) 0 fun a => { a with drains := [⟨3, 0, BitVec.ofNat 256 (2 ^ 120)⟩] }

theorem witness_MemorySteps :
    (∀ op ∈ [16, 17, 18, 19, 20, 24], Issuing (stepState op 0) site0 op (tile0 op 0) Ctx.fresh .zero .zero) ∧
    (Issuing drainState site0 17 (tile0 17 0) Ctx.fresh .zero .zero ∧ drainPending (arrAt drainState 0) 0 = true) ∧
    (enqueueAtomic (issueState (stepState 20 0) site0 20 (tile0 20 0) Ctx.fresh .zero .zero) atom0).isSome = true ∧
    (Issuing fullState site0 20 (tile0 20 0) Ctx.fresh .zero .zero ∧
      enqueueAtomic (issueState fullState site0 20 (tile0 20 0) Ctx.fresh .zero .zero) atom0 = none) := by
  refine ⟨fun op h => ?_, ⟨by constructor <;> decide +kernel, by decide +kernel⟩, by decide +kernel,
    by constructor <;> decide +kernel, by decide +kernel⟩
  fin_cases h <;> constructor <;> decide +kernel
/-- Array 0 with one context that waits. -/
def waitState (w : Await) : State :=
  modArr (stepState 0 0) 0 fun a => { a with ctxs := [(0, { Ctx.fresh with state := .wait, await := some w })] }
/-- Array 0 whose one context is done. -/
def doneState : State := modArr (stepState 0 0) 0 fun a => { a with ctxs := [(0, { Ctx.fresh with state := .done })] }
/-- Array 0 with a shadow buffer in a given state. -/
def shadowState (z : Shadow) : State :=
  modArr .reset 0 fun a => { a with state := .switching, shadowState := z, shadow := some (tile0 0 0) }

theorem witness_ArraySteps :
    (arrAt (waitState (.load 1 ⟨5, false⟩)) 0).active = some (tile0 0 0) ∧
    mget (arrAt (waitState (.load 1 ⟨5, false⟩)) 0).ctxs 0 = some { Ctx.fresh with state := .wait, await := some (.load 1 ⟨5, false⟩) } ∧
    mget (arrAt (waitState (.fence 0 [])) 0).ctxs 0 = some { Ctx.fresh with state := .wait, await := some (.fence 0 []) } ∧
    fenceMet (waitState (.fence 0 [])) 0 0 [] = true ∧
    ((arrAt doneState 0).state = .active ∧ (arrAt doneState 0).active = some (tile0 0 0) ∧
      ∀ kv ∈ (arrAt doneState 0).ctxs, kv.2.state = .done) ∧
    ((arrAt (modArr (stepState 0 0) 0 fun a => { a with ramp := 7 }) 0).state = .active ∧
      (arrAt (modArr (stepState 0 0) 0 fun a => { a with ramp := 7 }) 0).ramp < 8 ∧
      (arrAt (modArr (stepState 0 0) 0 fun a => { a with ramp := 7 }) 0).frozen = []) ∧
    ((arrAt (shadowState .loading) 0).shadowState = .loading ∧ (arrAt (shadowState .loading) 0).shadow = some (tile0 0 0)) := by
  decide +kernel

theorem witness_ArrayStrobe :
    let s := shadowState .ready
    let s0 := modArr (settleItem (shadowReady s 0) 0) 0 fun b => { b with past96 := true }
    ((arrAt s0 0).state = .switching ∨ (arrAt s0 0).state = .idle) ∧ (arrAt s0 0).shadowState = .ready ∧
      (arrAt s0 0).shadow = some (tile0 0 0) ∧ tileStart s0 (tile0 0 0) = true := by
  decide +kernel

/-- Array 0 with a shadow in PREFETCH and one binding pending. -/
def prefetchState : State := modArr (shadowState .prefetch) 0 fun a => { a with bindPending := 0x80 }

theorem witness_ArrayEvents :
    ((arrAt prefetchState 0).shadowState = .prefetch ∧ (arrAt prefetchState 0).shadow = some (tile0 0 0) ∧
      (arrAt prefetchState 0).bindPending.getLsbD 7 = true ∧ tileDeps prefetchState (tile0 0 0) = true ∧
      (arrAt prefetchState 0).drains = []) ∧
    (arrAt drainState 0).drains = [⟨3, 0, BitVec.ofNat 256 (2 ^ 120)⟩] ∧
    ((arrAt (stepState 0 0) 0).state = .active ∧ (arrAt (shadowState .empty) 0).state = .switching ∧
      (arrAt (shadowState .empty) 0).past96 = false ∧
      (arrAt (modArr .reset 0 fun a => { a with shadowState := .ready }) 0).state = .idle) ∧
    (arrAt (modArr .reset 0 fun a => { a with state := .held }) 0).state = .held ∧
    ((arrAt (stepState 0 0) 0).active = some (tile0 0 0) ∧ ∃ kv ∈ (arrAt (stepState 0 0) 0).ctxs, kv.2.state ≠ .done) ∧
    (0x80 : W64).getLsbD 7 = true := by
  decide +kernel
/-- State after reset with its stacks active. -/
def awake : State := wakeStacks .reset
/-- A dirty line of slice 0 in the victim buffer. -/
def victim0 : Victim := ⟨0, 0, { Line.empty 0 with valid := 1, dirty := 1 }⟩

/-- A state whose line fill, victim and queued atomic wait. -/
def busyScreed : State := { awake with scr := { awake.scr with fills := [⟨0, 8, 1, false⟩], victims := [victim0], atoms := [atom0] } }
/-- The same with a command on the trowel of the bank of DPA 0. -/
def busyBank : State := setTrowel busyScreed ⟨0, 0⟩ { Trowel.reset with state := .run }

theorem witness_ScreedAccess :
    (regionOf awake 0 = .interleaved ∧ sliceFault awake (homeSlice awake 0) = false ∧ findLine awake 0 = none) ∧
    (isNarrow awake .stream 0 8 = true ∧ isNarrow awake .normal 0 8 = false ∧ waitsHeld awake 1 0 false false 0 = false) ∧
    (let s := modStack busyScreed 0 fun k => { k with state := .writeHold }
     waitsHeld s 1 0 false false 0 = true ∧ sliceFault s (homeSlice s 0) = false) ∧
    ((busyScreed.scr.fills.find? fun f => !waitsHeld busyScreed f.issuer 0 false false f.dpa) = some ⟨0, 8, 1, false⟩ ∧
      bankBusy busyScreed 0 = false) ∧
    (bankBusy busyBank 0 = true ∧ (bankReqAt busyBank 0 1 1 false (.fill ⟨0, 8, 1, false⟩)).isSome = true ∧
      (bankReqAt busyBank 0 1 255 true (.victim victim0)).isSome = true) ∧
    (busyScreed.scr.victims.find? fun v => v.slice = 0 && !dpaHeld busyScreed v.dpa) = some victim0 ∧
    nextAtomic busyScreed 0 = some (atom0, rankOf 0 none) ∧
    (let s := modStack awake 0 fun k => { k with notices := [⟨0, 0, 1⟩] }
     ∃ l, locateS s 0 = some l ∧ ((stackAt s l.stack).notices.find? fun n => n.dpa / 64 == 0 / 64) = some ⟨0, 0, 1⟩) := by
  refine ⟨by decide +kernel, by decide +kernel, by decide +kernel, by decide +kernel, by decide +kernel, by decide +kernel,
    by decide +kernel, ⟨0, 0, 0, 0, 0⟩, by decide +kernel, by decide +kernel⟩

/-- A state whose line at DPA 0 is wholly valid. -/
def lineState : State := putLine awake (wayKey 0 0 0) { Line.empty 0 with valid := BitVec.allOnes 64 }
/-- A queued skim read. -/
def skim0 : SkimReq := ⟨0, 0, 0, 7, none, false, false, 0, 0, false, .ext⟩
/-- A state whose skim front queue of slice 0 is full. -/
def frontFull : State := { awake with scr := { awake.scr with front := List.replicate 256 skim0 } }

theorem witness_SkimAccess :
    ((locateS awake 0).isSome = true ∧ sliceFault awake 0 = false ∧ findLine (settleVictim awake 0) 0 = none ∧
      waitsHeld awake 7 0 true true 0 = false) ∧ (locateS awake (2 ^ 40) = none) ∧
    (sliceFault (faultSlice awake 0) (homeSlice (faultSlice awake 0) 0) = true) ∧
    ((findLine (settleVictim lineState 0) 0).isSome = true ∧ regionOf (settleVictim lineState 0) 0 = .interleaved) ∧
    (frontDepth (settleVictim frontFull 0) 0 = 256) ∧
    (waitsHeld (modStack awake 0 fun k => { k with state := .writeHold }) 7 0 true true 0 = true) ∧
    nextInRound (servedAt awake 16) [rankOf skim0.issuer skim0.slot] = some (rankOf skim0.issuer skim0.slot) ∧
    bankBusy awake 0 = false ∧ bankBusy busyBank 0 = true ∧ (bankReqAt busyBank 0 3 7 false (.skim skim0)).isSome = true := by
  decide +kernel

theorem witness_ScreedMaintenance :
    (¬ ∃ m ∈ State.reset.scr.maint, m.die = 1) ∧
    (let s := { State.reset with scr := { State.reset.scr with maint := [⟨1, 2, 0⟩] } }
     (∃ m ∈ s.scr.maint, m.die = 1) ∧ (s.scr.maint.find? fun m => m.die = 1) = some ⟨1, 2, 0⟩ ∧ maintHeld s 1 2 0 = false) := by
  decide +kernel
/-- A stack that holds writes. -/
def holdState : State := modStack awake 0 fun k => { k with state := .writeHold }
/-- A trowel command at a program counter and slot. -/
def cmdAt (pc slot : Nat) : TrwCmd := { launchCmd pc 1 1 1 0 0 0 100 (List.replicate 16 0) none none with slot := slot }
/-- Trowel 0 of stack 0. -/
def trowel0 : TSite := ⟨0, 0⟩
/-- Trowel 0 with a command in a state, its instruction word w at index 0. -/
def trwState (z : TrwState) (c : TrwCmd) (w : Nat) : State :=
  let s := setTrowel awake trowel0 { Trowel.reset with state := z, cmd := some c }
  { s with ustore := [(0, BitVec.ofNat 64 w), (1, BitVec.ofNat 64 (6 * 2 ^ 58))] }

theorem witness_StackService :
    (locateS awake 0 = some ⟨0, 0, 0, 0, 0⟩ ∧ stackHolds holdState 0 = true ∧ stackHolds awake 0 = false ∧
      trowelBusy awake (trowelOf 0 0 0) = false) ∧
    (trowelBusy (trwState .run (cmdAt 0 0) 0) (trowelOf 0 0 0) = true ∧ (trowelAt (trwState .run (cmdAt 0 0) 0) trowel0).cmd = some (cmdAt 0 0)) ∧
    (5 < stackCount awake ∧ refreshes awake 5 = true ∧ awake.itn.run ≠ .running ∧ trowelBusy awake (trowelOf 5 19 63) = false) ∧
    (let e : MergeEnt := ⟨0, [], false, 0⟩
     (stackAt (modStack awake 0 fun k => { k with merge := [e] }) 0).merge = [e] ∧ (stackAt awake 0).state = .active) ∧
    (let s := setRegBit awake (Reg.STK_SCRUB_CTRL 0) 8
     let u := modStack s 0 fun k => { k with scrubLag := k.scrubLag + 1 }
     stackServes s 0 = true ∧ regBit s (Reg.STK_SCRUB_CTRL 0) 8 = true ∧ (stackAt u 0).scrubLag = 1 ∧ scrubWaits u 0 0 0 = false) ∧
    (let s := setRegBit (trwState .run (cmdAt 0 0) 0) (Reg.STK_SCRUB_CTRL 0) 8
     scrubWaits (modStack s 0 fun k => { k with scrubLag := k.scrubLag + 1 }) 0 0 0 = true) ∧
    (let s := setRegBit (modStack awake 0 fun k => { k with scrubPos := 32768 * 20 * 64 - 1 }) (Reg.STK_SCRUB_CTRL 0) 8
     let u := modStack s 0 fun k => { k with scrubLag := k.scrubLag + 1 }
     (stackAt u 0).scrubPos + 1 = 32768 * 20 * 64 ∧ (stackAt u 0).scrubLag = 1 ∧ scrubWaits u 0 19 63 = false) := by
  decide +kernel

theorem witness_StackControl : 11 < stackCount .reset ∧ (0x80 : W64).getLsbD 7 = true := by decide +kernel
/-- An instruction word of an X-slot operation with an argument, and of a C-slot operation. -/
def microWord (xop xarg cop : Nat) : Nat := xop * 2 ^ 58 + xarg * 2 ^ 40 + cop * 2 ^ 27

theorem witness_TrowelSimple :
    (∀ op ∈ [0, 2, 6, 8, 9, 10], AtX (trwState .run (cmdAt 0 0) (microWord op 0 0)) trowel0 op (cmdAt 0 0) (microWord op 0 0)) ∧
    (charge (cmdAt 0 0) 0 1 0).isSome = true ∧
    (charge { cmdAt 0 0 with count := 100 } 0 1 0 = none) ∧
    (let c := { cmdAt 0 0 with l0 := some [] }
     AtX (trwState .run c (microWord 2 0 0)) trowel0 2 c (microWord 2 0 0) ∧ (c.latch 0).isSome = true) ∧
    (let s := trwState .commit (cmdAt 1 0) 0
     (trowelAt s trowel0).state = .commit ∧ (trowelAt s trowel0).cmd = some (cmdAt 1 0) ∧ uXop (fetchMicro s trowel0 (cmdAt 1 0)) = 6 ∧
      ((stackAt s 0).notices.any fun n => n.trowel == 0) = false) := by
  refine ⟨fun op h => ?_, by decide +kernel, by decide +kernel,
    ⟨by constructor <;> decide +kernel, by decide +kernel⟩, by decide +kernel⟩
  fin_cases h <;> constructor <;> decide +kernel

/-- A command at slot 0 whose commit stores to a row, and the word of its commit. -/
def commitWord : Nat := microWord 5 0 0

theorem witness_TrowelBanks :
    (AtX (flipBits (trwState .run (cmdAt 0 0) (microWord 1 0 0)) []) trowel0 1 (cmdAt 0 0) (microWord 1 0 0)) ∧
    (let w := microWord 3 0x20000 0
     AtX (trwState .run (cmdAt 0 0) w) trowel0 3 (cmdAt 0 0) w ∧ uX w 16 2 = 2 ∧ (charge (cmdAt 0 0) 0 (loadqCycles 1) 0).isSome = true) ∧
    (let c := { cmdAt 0 0 with l0 := some [], ptr := (List.replicate 16 28) }
     let w := microWord 3 0 0
     AtX (trwState .run c w) trowel0 3 c w ∧ c.p 0 + loadqCycles 1 = 32 ∧ (c.latch 0).isSome = true ∧ (charge c 0 (loadqCycles 1) 0).isSome = true) ∧
    (let w := microWord 4 0x3F0 0
     AtX (trwState .run (cmdAt 0 0) w) trowel0 4 (cmdAt 0 0) w ∧ (fmtDecode 1).isSome = true ∧ (charge (cmdAt 0 0) 0 1 0).isSome = true) ∧
    (AtX (trwState .run (cmdAt 0 0) commitWord) trowel0 5 (cmdAt 0 0) commitWord ∧
      uXop (fetchMicro (trwState .run (cmdAt 0 0) commitWord) trowel0 { cmdAt 0 0 with pc := (nextIndex (cmdAt 0 0)).1 }) = 6 ∧
      (charge (cmdAt 0 0) (bankIssue trowel0 (cmdAt 0 0) 0 36).1 1 (bankIssue trowel0 (cmdAt 0 0) 0 36).2).isSome = true) ∧
    (let w := microWord 5 0x20000 0
     AtX (trwState .run (cmdAt 0 0) w) trowel0 5 (cmdAt 0 0) w ∧ uX w 17 1 = 1 ∧ reducerSlotOk 1 = true) := by
  refine ⟨by constructor <;> decide +kernel, ⟨by constructor <;> decide +kernel, by decide +kernel, by decide +kernel⟩,
    ⟨by constructor <;> decide +kernel, by decide +kernel, by decide +kernel, by decide +kernel⟩,
    ⟨by constructor <;> decide +kernel, by decide +kernel, by decide +kernel⟩,
    ⟨by constructor <;> decide +kernel, by decide +kernel, by decide +kernel⟩, by constructor <;> decide +kernel, by decide +kernel, by decide +kernel⟩

theorem witness_TrowelCompute :
    ((let c := { cmdAt 0 1 with wfmt := 3 }
      (trowelAt (trwState .run c 0) trowel0).state = .run ∧ (trowelAt (trwState .run c 0) trowel0).cmd = some c ∧ partOk (bitsOf c.wfmt 0 5) 0 = true)) ∧
    (∀ op ∈ [0, 1, 2, 3, 4, 5, 6, 7, 8], AtC (trwState .run (cmdAt 0 2) (microWord 0 0 op)) trowel0 op (cmdAt 0 2) (microWord 0 0 op)) := by
  refine ⟨by decide +kernel, fun op h => ?_⟩
  fin_cases h <;> exact ⟨.inl (by decide +kernel), by decide +kernel, by decide +kernel, by decide +kernel, by decide +kernel⟩
/-- An image with given items and a waystation table of one entry. -/
def image0 (is : List Item) : ItinImage :=
  { magic := 0, version := 0, flags := 0, ordering := 0, groups := 0, dmax := 0, members := 1, variants := 1, seed := 0, mbells := 0,
    length := 100, mapHash := 0, clean := true, ways := [[⟨2, 0, 50, 1, []⟩]], shapes := [], slot := 0, phases := [], programs := [], items := is }
/-- The module with a run in progress since bell 0 over given items. -/
def runState (is : List Item) : State :=
  { awake with itn := { awake.itn with run := .running, image := some (image0 is), startAt := some 0 } }
/-- An item of number 1, due at once, with a work. -/
def item0 (w : ItemWork) : Item := ⟨1, 0, 0, 0, [], w⟩
/-- A launch at trowel 0. -/
def launch0 : TrwLaunch := ⟨0, 0, 0, 100, 3, 1, 3, 0, []⟩

/-- The plan of a K command whose row and beat go to parameters 0 and 1 and its count of valid tokens to parameter 2. -/
def attn0 : AttnPlan :=
  { layer := 0, values := false, row0 := some 0, beat0 := some 1, row1 := none, beat1 := none, count0 := none, count1 := none, total := some 2 }

theorem witness_TrowelLaunches :
    (trowelExists awake trowel0 = true ∧ itinLoaded awake = false ∧ retireHolds awake trowel0 = false ∧ (trowelAt awake trowel0).state = .idle) ∧
    itinLoaded (runState []) = true ∧
    ((1 : W32).getLsbD 0 = true ∧ (3 : W32).getLsbD 1 = true ∧ (4 : W32).getLsbD 2 = true) ∧
    (trowelAt (setTrowel awake trowel0 { Trowel.reset with rerun := some (cmdAt 0 0) }) trowel0).rerun = some (cmdAt 0 0) ∧
    (itinItems (runState [item0 (.trowel launch0)])).find? (launchDue (runState [item0 (.trowel launch0)]) trowel0) = some (item0 (.trowel launch0)) ∧
    (itinItems (runState [item0 (.attn launch0 attn0)])).find? (launchDue (runState [item0 (.attn launch0 attn0)]) trowel0)
      = some (item0 (.attn launch0 attn0)) := by
  decide +kernel

theorem witness_TrowelEvents :
    (let s := trwState .run (cmdAt 0 0) 0
     (trowelAt s trowel0).state = .run ∧ (trowelAt s trowel0).cmd = some (cmdAt 0 0)) ∧
    (let s := trwState .held (cmdAt 0 0) commitWord
     (trowelAt s trowel0).state = .held ∧ commitHeld s trowel0 (cmdAt 0 0) (fetchMicro s trowel0 (cmdAt 0 0)) = false) ∧
    (let r : BankReq := ⟨0, 1, 0, 0, 0, 1, false, 8, [], false, .access, some 0⟩
     let s := modStack (trwState .run (cmdAt 0 0) 0) 0 fun k => { k with bankq := [r] }
     trowelBusy s trowel0 = true ∧ bankHead s 0 (tDie trowel0) (tBank trowel0 (3 % 2)) = some r ∧
      bankHead s 0 (tDie trowel0) (tBank trowel0 0) = none) ∧
    (0 < stackCount awake ∧ itinItems awake = []) ∧
    dieOwed (runState [item0 (.trowel launch0)]) 0 0 = true := by
  decide +kernel
theorem witness_ReducerJobs :
    (0 < stackCount .reset ∧ ∀ k ∈ [1, 2, 3, 4, 5, 6], (BitVec.ofNat 64 (k * 2 ^ 60) : W64).toNat / 2 ^ 60 = k) ∧
    (let s := setReducer awake 0 { Reducer.reset with jobs := [⟨1, none⟩] }
     (reducerAt (planJob s 0) 0).running = none ∧ (reducerAt (planJob s 0) 0).jobs = [⟨1, none⟩]) ∧
    (reducerAt (setReducer awake 0 { Reducer.reset with running := some ⟨1, none⟩ }) 0).running = some ⟨1, none⟩ := by
  decide +kernel
/-- Member 1 of a caravan of two, with member 0 on port 5. -/
def caravan1 : Caravan :=
  { members := 2, index := 1, depth := 1, dmax := 1, ports := [5], parentPort := some 5, childPorts := [], ids := [7, 9], parents := [0, 0],
    mapHash := 0, links := [] }
/-- The module as that member. -/
def memberState : State := { awake with itn := { awake.itn with caravan := some caravan1 } }
/-- A packet of SQ 0 with nothing set. -/
def packet0 : Packet := ⟨0, 0, 0, 0, 0, 0⟩
/-- A command in progress. -/
def prog0 (op : Nat) : InProg := { op := op, pkt := packet0, fn := 0, window := none, args := [], reply := none }

theorem witness_Bells :
    (let v := (frameBits 1 0 0 0 true true true)
     v % 8 = crc3 v ∧ (v + 1) % 8 ≠ crc3 (v + 1) ∧ v / 2 ^ 16 = 1 ∧ memberState.bell = 0) ∧
    (5 ∈ memberPorts memberState ∧ 4 ∉ memberPorts memberState ∧ forming memberState = none ∧
      (frameBits 0 0 0 0 true true true) / 2 ^ 16 = memberState.bell ∧ (frameBits 0 0 0 0 true true true) % 8 = crc3 (frameBits 0 0 0 0 true true true)) ∧
    forming { memberState with cmd := { memberState.cmd with inProg := [prog0 0x304] } } = some (prog0 0x304) ∧
    ({ memberState with itn := { memberState.itn with epochDue := true } }).itn.epochDue = true := by
  decide +kernel
/-- A run over two waystations, an ARRIVAL of member 0 and a CHECKPOINT, at a bell. -/
def wayState (z : RunState) (bell way : Nat) : State :=
  let g := { image0 [] with ways := [[⟨1, 0, 50, 1, [3]⟩, ⟨4, 0, 60, 1, []⟩]] }
  { awake with bell := bell, itn := { awake.itn with run := z, image := some g, startAt := some 0, way := way, phase := 1 } }

theorem witness_Waystations :
    (runAdmitted (wayState .waitStart 0 0) = true ∧ (wayState .waitStart 0 0).itn.stopPoint ≠ some 0) ∧
    (let s := wayState .running 60 1
     let s := { s with itn := { s.itn with downAt := some 60 } }
     60 + dMax s ≤ s.bell ∧ s.itn.way < (ways s).length) ∧
    (let s := wayState .running 50 1
     (wayAt s 0).kind = 1 ∧ (wayAt s 0).owner = memberIndex s ∧ 0 ∉ s.itn.arrivals ∧ (wayAt s 0).release ≤ ibell s ∧ (wayAt s 0).list = [3] ∧
       (∀ m ∈ [3], (0, m, 49) ∈ ({ s with itn := { s.itn with tagged := [(0, 3, 49)] } }).itn.tagged ∧ 49 < s.bell)) ∧
    (let s := wayState .running 52 1
     0 < (ways s).length ∧ (wayAt s 0).release + (wayAt s 0).slack < ibell s ∧ (wayAt s 0).owner = memberIndex s) ∧
    (let s := wayState .running 62 1
     (wayAt s 1).release + (wayAt s 1).slack < ibell s ∧ (wayAt s 1).wide = true ∧ s.itn.stopPoint ≠ some 1) ∧
    ((wayState .aborting 0 1).mem.losses = 0 ∧ (let s := wayState .aborting 65536 1
      let s := { s with itn := { s.itn with runAborts := 1 } }
      runActive s = true ∧ s.itn.ckptBell ≤ s.itn.abortBell ∧ s.itn.abortBell + 65536 ≤ s.bell)) := by
  decide +kernel

/-- A loaded model and a step not yet admitted. -/
def model0 : Model :=
  { vocab := 1000, p := 16, layout := 1, d := 128, verify := false, autoIndex := false, wide := false, lkv := 1, hm := 1, glog2 := 0, f := 1,
    kfmt := 3, vfmt := 3, qfmt := 3, salt := [], store := 0, maxRank := 0, hash := [] }
/-- A step in progress with no entry. -/
def step0 : StepRun :=
  { index := 0, entries := [], res := [], admitted := false, pinned := [], copies := [], inserts := [], smpq := [], stnq := [], smpN := 0, stnN := 0 }
/-- The module with that model and step. -/
def stepRunState : State := { awake with srv := { awake.srv with model := some model0, core := { awake.srv.core with run := some step0 } } }
/-- A member whose fabric brought a record. -/
def treeState (flags : Nat) : State :=
  { memberState with itn := { memberState.itn with image := some { image0 [] with flags := flags } }, srv := { memberState.srv with model := some model0 },
                     fab := { memberState.fab with tree := [[1, 0, 0, 0]] } }

theorem witness_PlanSlots :
    (let s := runState [item0 (.sched 0)]
     let u := runState [item0 (.osend 0 0)]
     (itemReady s (item0 (.sched 0)) && slotTurn s (item0 (.sched 0)) 0) = true ∧ itinItems s = [item0 (.sched 0)] ∧
     (itemReady u (item0 (.osend 0 0)) && slotTurn u (item0 (.osend 0 0)) 0) = true ∧ itinItems u = [item0 (.osend 0 0)] ∧
     itinItems awake = [] ∧ runActive s = true) ∧
    runActive awake = false ∧ (0x80 : W64).getLsbD 7 = true ∧
    (stepRunState.srv.core.run = some step0 ∧ stepRunState.srv.model = some model0 ∧ isLead stepRunState = true) ∧
    ((treeState 0).srv.core.run = none ∧ isLead (treeState 0) = false ∧ (treeState 0).itn.image.isSome = true ∧
      (treeState 2).itn.image = some { image0 [] with flags := 2 } ∧ (treeState 2).srv.model = some model0) := by
  decide +kernel
/-- A model of four tokens without format-dependent areas. -/
def model4 : Model := { model0 with vocab := 4 }
/-- An entry whose manifest words are zero but `w0`, over every token. -/
def entry0 (w0 : Nat) : MEntry := ⟨w0 :: List.replicate 15 0, [], [], []⟩
/-- A step of one entry with a row at lane 0 of each engine, its logits at DPA `dpa`. -/
def rowState (dpa : Nat) : State :=
  let row : LRow := ⟨0, 0, 0, dpa, 0⟩
  let r := { step0 with entries := [entry0 0], res := [SRes.fresh 0 true], smpq := [row], stnq := [row] }
  { runState [item0 (.hub 1 [0, 0, 0, 1, 0])] with
    srv := { awake.srv with model := some model4, core := { awake.srv.core with run := some r } } }
/-- The same over a hub list of code 2. -/
def recodeState : State :=
  { rowState 0 with itn := (runState [item0 (.hub 2 [0, 0, 0, 1, 0])]).itn }

theorem witness_ServingActions :
    (nextAction (rowState 0) 1).isSome = true ∧ waitingEmit (rowState 0) = none ∧ rowRoom (rowState 0) false = true ∧
    (let s := rowState 0
     let r := { step0 with smpq := List.replicate 4096 ⟨0, 0, 0, 0, 0⟩ }
     rowRoom { s with srv := { s.srv with core := { s.srv.core with run := some r } } } false = false) ∧
    (entry0 0).emits = false ∧ (entry0 (2 ^ 26)).emits = true ∧ (rowState 0).srv.core.run.isSome = true ∧
    (nextAction recodeState 2).isSome = true ∧ recodeState.srv.model = some model4 ∧
    (rowLogits (rowState 0) model4 ⟨0, 0, 0, 0, 0⟩ 4).2.2.1 = false ∧
    allowedSet (rowState 0) model4 (entry0 0) = [] ∧
    (choose .greedy [0, 0, 0, 0] 0).isSome = true ∧
    (let s := setAdapter awake 3 { adapterAt awake 3 with load := some (1, 2) }
     (adapterAt s 3).load = some (1, 2) ∧ storeHeld s 2 = false ∧
       (let m := { model4 with store := 64 }
        let u := { s with srv := { s.srv with model := some m } }
        storeHeld (modStack u 0 fun k => { k with held := [⟨0, 0, 0, true, .stream, storeDpa u m 2, 1, [], false, .none⟩] }) 2 = true)) := by
  decide +kernel

theorem witness_ServingRegisters : (0x80 : W64).getLsbD 7 = true := by decide

/-- The awake module with a port in some state, whole lanes and its starting tolls, and an own fabric ID of 5 in an
ACTIVE fabric. -/
def portState (z : Nat) : State :=
  let s := setField (setField awake Reg.FAB_SELF 0 12 0x805) Reg.FAB_STATUS 12 4 2
  setPort s 3 { FPort.reset with state := z, lanes := 255, tolls := startTolls, peerId := 9, schedOk := true }

theorem witness_FabricPorts :
    (∀ z ∈ [0, 1, 2, 3, 4, 5, 6, 7, 8], (portAt (portState z) 3).state = z) ∧
    (∀ z ∈ [0, 1, 7, 8], (portAt (plainWrite (portState z) (Reg.FAB_PORT_CFG 3) 1) 3).state = z) ∧
    regBit (plainWrite (portState 0) (Reg.FAB_PORT_CFG 3) 1) (Reg.FAB_PORT_CFG 3) 0 = true ∧
    (1 : W64).getLsbD 0 = true ∧ (0 : W64).getLsbD 0 = false ∧ lanesInUse 0x1F = 0x0F := by
  decide +kernel

/-- A whole one-flit packet of a kind and class from fabric ID 9 to fabric ID 5 in the inbox of port 3, with `dest` its
destination. -/
def pktState (dest kind cls dpa op len : Nat) (payload : List Byte) : State :=
  let s := portState 7
  { s with fab := { s.fab with inbox := [⟨3, 1, mkHeader dest kind 9 cls 0xFFFF 1 0 dpa op len ++ payload, [], 1⟩] } }
/-- A flit of a lane with a sequence of 0 and an empty body. -/
def flit0 (lane : Nat) : List Byte := mkFlit lane true true false 0 0 0 []
/-- The awake module with one waiting packet for fabric ID 7 and one request. -/
def waitPktState (kind tries : Nat) : State :=
  let s := portState 1
  { s with fab := { s.fab with waiting := [⟨1, mkHeader 7 0x01 5 1 0xFFFF 1 0 0 0 0, none⟩], reqs := [⟨1, kind, 7, [], tries, 0⟩] } }

theorem witness_FabricFlits :
    (∀ lane ∈ [0, 1, 5, 6], (flit0 lane).length = 128 ∧ fieldAt (flit0 lane) 124 4 = crc32 ((flit0 lane).take 124) ∧
      fieldAt (flit0 lane) 0 4 / 2 ^ 29 % 8 = lane) ∧
    6 ≤ (portAt (portState 7) 3).state ∧ (portState 7).flt.fault = none ∧
    regField (portState 7) Reg.PWR_STATE 5 3 < 3 ∧
    ((pktState 7 0x01 1 0 0 8 []).fab.inbox.find? fun q => q.port == 3 && !forMe (pktState 7 0x01 1 0 0 8 []) q && !tollBound (pktState 7 0x01 1 0 0 8 []) q).isSome = true ∧
    (let s := waitPktState 1 0
     (s.fab.waiting.find? fun w => w.lane == 1 && (pkSrc w.bytes == selfId s || classOpen s (pkClass w.bytes))).isSome = true ∧
     ∀ w ∈ s.fab.waiting, pkSrc w.bytes = selfId s ∧
       (let e := reg s (Reg.FAB_ROUTE (pkDest w.bytes))
        (∀ n ∈ candidates e, portUp s n = false) ∧ portUp s (e / 2 ^ 7 % 16) = false)) ∧
    (∀ k ∈ [(1, 0), (3, 2), (1, 3), (5, 0)], (waitPktState k.1 k.2).fab.reqs.find? (fun r => r.id = 1) = some ⟨1, k.1, 7, [], k.2, 0⟩) := by
  decide +kernel

/-- `pktState` with every sender permitted and one request outstanding. -/
def peerState (kind cls dpa op len : Nat) (payload : List Byte) : State :=
  let s := setReg (pktState 5 kind cls dpa op len payload) (Reg.FAB_PERMIT 0) (2 ^ 9)
  { s with fab := { s.fab with reqs := [⟨1, 0x01, 9, [], 0, 0⟩] } }
/-- `peerState` at a member of the caravan of fabric IDs 5 and 9. -/
def memberPeer (kind cls : Nat) (payload : List Byte) : State :=
  let s := peerState kind cls 0 0 8 payload
  { s with itn := { s.itn with caravan := some { caravan1 with ids := [5, 9], index := 0 } } }

/-- Whether a value is there and satisfies a condition. -/
def holds {α : Type} (o : Option α) (p : α → Bool) : Bool := match o with | some x => p x | none => false

theorem witness_FabricPackets :
    ((holds (myWrite (peerState 0x01 1 0 0 8 (List.replicate 8 1)) 3 0x01) fun x => let q := x.1; let t := x.2; decide ( pkClass q.bytes = 1 ∧ permitted t (pkSrc q.bytes) = true ∧ remoteRefused t (pkDpa q.bytes) (pkPayload q.bytes).length = false)) = true) ∧
    ((holds (myWrite (peerState 0x01 0 0 0 8 (List.replicate 8 1)) 3 0x01) fun x => let q := x.1; let t := x.2; decide ( pkClass q.bytes = 0 ∧ remoteRefused t (pkDpa q.bytes) (pkPayload q.bytes).length = false)) = true) ∧
    ((holds (myWrite (peerState 0x01 0 (2 ^ 40 - 4) 0 8 (List.replicate 8 1)) 3 0x01) fun x => let q := x.1; let t := x.2; decide ( remoteRefused t (pkDpa q.bytes) (pkPayload q.bytes).length = true)) = true) ∧
    ((holds (myWrite (pktState 5 0x01 1 0 0 8 []) 3 0x01) fun x => let q := x.1; let t := x.2; decide ( pkClass q.bytes = 1 ∧ permitted t (pkSrc q.bytes) = false)) = true) ∧
    (∀ c ∈ [0, 1], (holds (myPkt (peerState 0x02 c 0 0 0 []) 3 0x02) fun x => let q := x.1; let t := x.2; decide ( pkClass q.bytes = c ∧ (t.fab.reqs.find? fun r => r.id = pkId q.bytes).isSome = true)) = true) ∧
    ((holds (myPkt (peerState 0x03 1 0 0 4096 []) 3 0x03) fun x => let q := x.1; let t := x.2; decide ( permitted t (pkSrc q.bytes) = true ∧ remoteRefused t (pkDpa q.bytes) (min (pkLen q.bytes) 4096) = false)) = true) ∧
    (∀ k ∈ [0x04, 0x06], (myPkt (peerState k 1 0 0 8 []) 3 k).isSome = true) ∧
    (let s := peerState 0x05 1 0 1 16 (List.replicate 16 0)
     let full := { s with scr := { s.scr with atoms := List.replicate 256 atom0 } }
     let q := (s.fab.inbox.find? fun q => q.port == 3 && pkKind q.bytes == 0x05 && forMe s q && inTurn s q)
     holds q (fun q => pkSrc q.bytes == 9 && aopOk (pkOp q.bytes)) = true ∧ permitted s 9 = true ∧ remoteRefused s 0 8 = false ∧
       (enqueueAtomic s { atom0 with slice := homeSlice s 0 }).isSome = true ∧ atom0.slice = homeSlice s 0 ∧ enqueueAtomic full atom0 = none) ∧
    ((holds (myWrite (memberPeer 0x08 0 (List.replicate 8 1)) 3 0x08) fun x => let q := x.1; let t := x.2; decide ( childPorts t = [] ∧ fromMember t (pkSrc q.bytes) = true ∧ remoteRefused t (pkDpa q.bytes) (pkPayload q.bytes).length = false ∧ ofManifest t q.bytes = false)) = true) ∧
    ((holds (myPkt (peerState 0x16 2 0 0 0 []) 3 0x16) fun x => let q := x.1; let t := x.2; decide ( portUp t q.port = true)) = true) := by
  decide +kernel

theorem witness_FabricManagement :
    (let s := peerState 0x10 2 0 0 64 (List.replicate 64 0)
     let t := setPort s 3 { portAt s 3 with state := 6 }
     (holds (myPkt t 3 0x10) fun x => let q := x.1; let u := x.2; decide ( (portAt u 3).state = 6 ∧ bitAt (fieldAt (pkPayload q.bytes) 11 1) 1 = false)) = true) ∧
    (myPkt (peerState 0x11 2 0 0 8 []) 3 0x11).isSome = true ∧
    (let s := setReg (peerState 0x12 2 0 0 16 (leBytes 8 0x10 ++ leBytes 8 3)) Reg.FAB_MANAGER (2 ^ 11 + 9)
     (holds (myPkt s 3 0x12) fun x => let q := x.1; let t := x.2; decide ( regBit t Reg.FAB_MANAGER 11 = true ∧ pkSrc q.bytes = regField t Reg.FAB_MANAGER 0 10 ∧
         (pkPayload q.bytes).length / 16 = 1 ∧ mgmtWritable (fieldAt (pkPayload q.bytes) 0 8) = true)) = true) ∧
    ((holds (myPkt (peerState 0x13 2 0 0 8 []) 3 0x13) fun x => let q := x.1; let t := x.2; decide ( (t.fab.reqs.find? fun r => r.id = pkId q.bytes).isSome = true)) = true) ∧
    (∀ c ∈ [0xE2, 0xE3, 0x50], (holds (myPkt (memberPeer 0x14 2 (leBytes 8 c ++ leBytes 8 7)) 3 0x14) fun x => let q := x.1; let t := x.2; decide ( holds t.itn.caravan (fun v => v.index == 0) = true ∧ fieldAt (pkPayload q.bytes) 0 8 = c)) = true) ∧
    ((holds (myPkt (peerState 0x15 2 0 0 16 (leBytes 8 1 ++ leBytes 8 7)) 3 0x15) fun x => let q := x.1; let t := x.2; decide ( regBit t Reg.FAB_MANAGER 11 = false)) = true) := by
  decide +kernel

theorem witness_HostAccesses :
    mustWait awake 0 = false ∧ bootStage awake ≠ 0xE ∧ linkDown awake = false ∧ bar2Served awake 0 = true ∧
    (match bar2Pieces awake 0 0x1000 8 false with | (some [.mem 0x1000 8], _) => true | _ => false) = true ∧
    bar2Busy awake 0 0x1000 8 = none ∧ 0 ∉ awake.pci.granted ∧ (stackAt busyBank 0).bankq = [] ∧
    (bar2Busy busyBank 0 (dpaOf 12 busyBank.mem.p ⟨0, 0, 0, 0, 0⟩) 8).isSome = true ∧
    (match bar2Pieces awake 0 0x1000 8 true with | (some [.mem 0x1000 8], t) => regionOf t 0x1000 == .interleaved
        && (enqueueAtomic t ⟨homeSlice t 0x1000, 224, none, 0x01, 0x1000, 0, 0, false, false, .host 0⟩).isSome &&
        (enqueueAtomic { t with scr := { t.scr with atoms := List.replicate 256 { atom0 with slice := homeSlice t 0x1000 } } }
          ⟨homeSlice t 0x1000, 224, none, 0x01, 0x1000, 0, 0, false, false, .host 0⟩).isNone | _ => false) = true ∧
    (bar2Pieces awake 0 (2 ^ 50) 8 false).1 = none ∧ (bar2Pieces awake 0 (2 ^ 50) 1 true).1 = none ∧
    (let s := setRegBit awake Reg.PCI_ERR 3
     bar2Served s 0 = true ∧ linkDown s = false ∧ (match bar2Pieces s 0 0x1000 1 true with | (some [.mem 0x1000 1], _) => true | _ => false) = true) ∧
    memServed awake 0 = true ∧ memServed awake 5 = true ∧
    mustWait { awake with pci := { awake.pci with waits := [(0, .bar2Read 0 0 8)] } } 0 = true := by
  decide +kernel

theorem witness_LinkEvents :
    awake.pwr.perst = false ∧ 16 + 64 * regField awake Reg.PCI_VF_CFG 0 4 ≤ 256 ∧
    256 < 16 + 64 * regField (setField awake Reg.PCI_VF_CFG 0 4 15) Reg.PCI_VF_CFG 0 4 ∧
    0 ∉ awake.pci.msixPend := by
  decide +kernel

/-- The awake module with channel 3 accumulating and n writes in its feed queue. -/
def feedState (n : Nat) : State := setFeed (setField awake (Reg.DMA_CHAN_CFG 3) 0 2 1) 3 (List.replicate n [1])

theorem witness_LinkRegisters :
    mustWait awake 0 = false ∧ mustWait (waitHost awake 0 (.pciBar2Base 0)) 0 = true ∧
    awake.pci.vfEnable = false ∧
    (let s := { awake with pci := { awake.pci with vfEnable := true } }
     (2 : W64).toNat % 16 ≠ 0 ∧ (2 : W64).toNat % 16 ≠ regField s Reg.PCI_VF_CFG 0 4) ∧
    chanFree awake 3 = true ∧ chanFree awake 31 = false ∧ chanAcc awake 3 = false ∧
    (chanAcc (feedState 63) 3 = true ∧ (feedOf (feedState 63) 3).length < 64 ∧ 64 ≤ (feedOf (feedState 64) 3).length ∧ chanAcc (feedState 64) 3 = true) := by
  decide +kernel

/-- Queue 16 with a list of one descriptor of an operation, all fields zero but its source space. -/
def descState (op ssp : Nat) : State :=
  setRun awake 16 { fn := 0, descs := [BitVec.ofNat 512 (op + ssp * 2 ^ 8)], done := [], waiting := [], retired := false, poison := false, flags := .none, failed := none }
/-- The awake module in a run with one DMA item at queue 2. -/
def descItem (op : Nat) : State := runState [item0 (.dma 2 (BitVec.ofNat 512 op))]

theorem witness_DmaDescriptors :
    (∀ op ∈ [1, 2, 3, 4, 6, 7, 8], (match queueDesc (descState op 0) 16 0 with
       | some d => dOp d == op && descReady (descState op 0) 16 0 d && !descHeld (descState op 0) 16 [] false d && !descHeld (descItem op) 2 [] false d && !(sidePieces (descState op 0) 0 [] false d false).1.any (·.isFab) | none => false) = true ∧
      ((runAt (descState op 0) 16).waiting.find? fun w => w.1 = 0) = none ∧
      (match queueDesc (descItem op) 2 1 with | some d => dOp d == op && descReady (descItem op) 2 1 d | none => false) = true ∧
      ((itinItems (descItem op)).find? fun x => x.id = 1).isSome = true) ∧
    (match queueDesc (descState 1 1) 16 0 with | some d => dSsp d == 1 && dOp d == 1 && !descHeld (descState 1 1) 16 [] true d | none => false) = true ∧
    (match queueDesc (descState (1 + 2 ^ 18 + 64 * 2 ^ 192) 0) 16 0 with
     | some d => descHeld { awake with mem := { awake.mem with stks := awake.mem.stks.map fun k => { k with state := .writeHold } } } 16 [] false d
     | none => false) = true := by
  decide +kernel

/-- The awake module with its flash window open. -/
def flashState : State := setField awake Reg.THM_STATUS 12 1 1

theorem witness_PowerInputs :
    awake.pwr.losing = false ∧ powerState awake ≠ 4 ∧ powerState (setPower awake 4 0) = 4 ∧
    flashOpen flashState = true ∧ hubRuns flashState = true ∧ flashState.pwr.retention.bits = 0 ∧ flashState.mem.retPending = [] ∧ flashState.sec.deferred = false ∧
    (let s := { flashState with pwr := { flashState.pwr with retention := itemsNow flashState } }
     s.pwr.retention.bits ≠ 0 ∧ flashOpen s = true ∧ hubRuns s = true) ∧
    (let s := { flashState with sec := { flashState.sec with deferred := true } }
     s.sec.deferred = true ∧ flashOpen s = true ∧ hubRuns s = true) := by
  decide +kernel

theorem witness_Watchman :
    (let s := { runState [] with pwr := { awake.pwr with samples := List.replicate 9 (9000, 0, 0, 0), quiet := 10000 } }
     runActive s = true ∧ regBit s Reg.PWR_BUDGET 0 = false ∧
       sustainedLimit s < average { s with pwr := { s.pwr with samples := ((9000, 0, 0, 0) :: s.pwr.samples).take 100 } } 10 (·.1)) ∧
    runActive awake = false ∧ (0x80 : W64).getLsbD 7 = true ∧ (∀ i ∈ [0, 24, 264, 276, 277, 278, 279, 280], sensorPresent awake.variant i = true) ∧
    (let s := { awake with pwr := { awake.pwr with flowBad := 20 } }; 20 ≤ s.pwr.flowBad ∧ s.pwr.lowFlow = false) := by
  decide +kernel

/-- The awake module with one cell in queue 0x10, its parity right or wrong, and that queue selected. -/
def cellState (good : Bool) : State :=
  let s := setReg awake Reg.DEP_QSEL 0x10
  let c := mkCell 5 false
  setQueue s 0x10 { queueAt s 0x10 with cells := [{ c with parity := c.parity == good }] }

theorem witness_DepotQueues :
    (0 ≠ 1 ∧ (queueAt awake 0x10).epoch = 0 ∧ awake.dep.fault = false ∧ (queueAt awake 0x10).cells.length < (queueAt awake 0x10).limit ∧
      queuePolicy 0x10 ≠ 3 ∧ queuePolicy 0x20 = 3 ∧ (queueAt awake 0x20).cells.length < (queueAt awake 0x20).limit) ∧
    (∀ g ∈ [true, false], ∃ c ∈ (queueAt (cellState g) 0x10).cells, (c.parity = cellParity c.word c.valid c.poison) = (g = true)) ∧
    (queueAt awake 0x10).cells = [] ∧ (0 : W64).getLsbD 31 = false ∧ (0x80000000 : W64).getLsbD 31 = true ∧
    (regField (cellState true) Reg.DEP_QSEL 0 8 = 0x10 ∧ limitOk (cellState true) 0x10 1024 = true ∧ limitOk (cellState true) 0x10 15 = false) ∧
    ((0x80 : W64).getLsbD 7 = true ∧ (0x80 : W64).toNat &&& 0xBF = (0x80 : W64).toNat) := by
  decide +kernel

theorem witness_Collectors :
    (let s := raiseAlarm awake 2 0
     s.dep.latch = [⟨2, 0, 0, 0⟩] ∧ s.dep.fault = false ∧ (queueAt s 0).cells.length + 4 ≤ (queueAt s 0).limit) ∧
    (let s := setReg awake Reg.DEP_CNT_CFG 10
     regField s Reg.DEP_CNT_CFG 0 21 ≠ 0 ∧ 10 ∣ s.bell ∧ powerState s < 3 ∧ booted s = true) ∧
    (∀ x ∈ [((0x100 : Nat), (5 : Int))], x.1 / 256 ≠ 2 ∧ x.1 / 256 ≠ 4) := by
  decide +kernel

theorem witness_FaultEntries : awake.flt.fault = none ∧ (enterFault awake 5 3).flt.fault = some ⟨5, 3, 5⟩ := by
  decide +kernel

/-- The module with its input present at a boot stage. -/
def stageState (n : Nat) : State := setStage { awake with pwr := { awake.pwr with input := true } } n

theorem witness_BootStages :
    (∀ n ∈ [0, 1, 2, 3, 4, 5, 0xE], bootStage (stageState n) = n) ∧
    ((stageState 0).pwr.input = true ∧ (stageState 0).pwr.perst = false ∧ (stageState 0).pwr.losing = false ∧ 3 ∉ (stageState 0).pwr.trips ∧
      powerState (stageState 0) < 3 ∧ (stageState 0).pwr.commanded = false) ∧
    (∀ p ∈ [3, 4], powerState (setPower (stageState 0) p 0) = p ∧ bootStage (setPower (stageState 0) p 0) = 0) ∧
    (flashOpen (stageState 2) = false ∧ flashOpen (setField (stageState 2) Reg.THM_STATUS 12 1 1) = true ∧ (stageState 2).pwr.waking = false) ∧
    ((stageState 3).sec.marker = none ∧ blobOk (stageState 3).sec.flashBlob = false) ∧
    (imageCause (stageState 4).sec.blob (stageState 4).sec.flashImage ≠ 0) ∧
    (rcvKind (stageState 0xE) = 1 ∧ (1 : W64).toNat / 2 ^ 32 ≤ 67108864 ∧ (1 : W64).toNat % 4 = 1 ∧ imageCause (stageState 0xE).sec.blob (placed (stageState 0xE) 0) ≠ 0) ∧
    (rcvKind (setField (stageState 0xE) Reg.SEC_STATUS 8 4 7) = 2 ∧ (2 : W64).toNat % 4 = 2) := by
  decide +kernel

theorem witness_Attestation :
    hubRuns awake = true ∧ linkDown awake = false ∧ awake.sec.reqs = [] ∧
    (∀ k ∈ [1, 2, 3, 4, 0, 5], (BitVec.ofNat 32 k).toNat % 256 = k) ∧
    (let s := { awake with sec := { awake.sec with tree := 0, next := 2 ^ 20 - 5, nextTree := false } }
     hubRuns s = true ∧ linkDown s = false ∧ (s.sec.tree + 1) * 2 ^ 20 - s.sec.next < 262144) ∧
    (match (sign [] 0 { flashState with sec := { flashState.sec with next := 0, rend := 4096, tree := 0, owed := false } }).1 with | .signed _ => true | _ => false) = true ∧
    (match (sign [] 0 { flashState with sec := { flashState.sec with next := 2 ^ 40 } }).1 with | .refused _ => true | _ => false) = true ∧
    (match (sign [] 0 { flashState with sec := { flashState.sec with next := 2 ^ 20, rend := 2 ^ 20 + 4096, tree := 0, owed := false } }).1 with | .waits => true | _ => false) = true := by
  decide +kernel

theorem witness_ManagementBus :
    (let s := { awake with pwr := { awake.pwr with input := true } }
     smbAnswers s = true ∧ regBit (setField s Reg.MOD_SMB 1 2 1) Reg.MOD_SMB 0 = false ∧ (setField s Reg.MOD_SMB 1 2 1).pwr.perst = false) ∧
    (let s := setPower { awake with pwr := { awake.pwr with input := true, commanded := true } } 3 0
     smbAnswers s = true ∧ 3 ≤ powerState (setField s Reg.MOD_SMB 1 2 1)) ∧
    (let s := setField { awake with pwr := { awake.pwr with input := true } } Reg.MOD_SMB 0 1 1
     smbAnswers s = true ∧ regBit (setField s Reg.MOD_SMB 1 2 1) Reg.MOD_SMB 0 = true) ∧
    ofLe ([0x18, 0x01] : List Byte) = 280 ∧ ofLe ([0x19, 0x01] : List Byte) = 281 ∧ ofLe ([0x5A, 0xA5] : List Byte) = 0xA55A := by
  decide +kernel

/-- The awake module with the admin pair of n + 1 entries. -/
def adminState (n : Nat) : State :=
  let s := setReg awake Reg.HUB_AQ_SIZE (n * 2 ^ 16 + n)
  match exec (.hubCmdCtrlEnable 1) s with | .next t => t | _ => s

theorem witness_CommandQueues :
    (memServed (adminState 15) 0 = true ∧ mustWait (adminState 15) 0 = false ∧ (adminState 15).cmd.ready = true) ∧
    (match sqAt (adminState 15) 0, cqAt (adminState 15) 0 with | some q, some c => q.fn == 0 && q.size == 16 && c.fn == 0 && c.size == 16 | _, _ => false) = true ∧
    mustWait { adminState 15 with pci := { awake.pci with waits := [(0, .hotReset)] } } 0 = true ∧
    memServed { adminState 15 with pci := { awake.pci with waits := [(0, .hotReset)] } } 0 = true ∧
    sqAt (adminState 15) 1 = none ∧ cqAt (adminState 15) 1 = none ∧
    (match sqAt (haltSq (adminState 15) 0) 0 with | some q => q.halted | none => false) = true ∧
    (reg awake Reg.HUB_AQ_SIZE % 2 ^ 12 = 0 ∧ reg (adminState 15) Reg.HUB_AQ_SIZE % 2 ^ 12 ≠ 0 ∧ reg (adminState 15) Reg.HUB_AQ_SIZE / 2 ^ 16 % 2 ^ 12 ≠ 0) ∧
    hubRuns awake = true ∧ badHead awake = none ∧ stalledOn (noteBlocked awake) = none := by
  decide +kernel

/-- A packet at the admin SQ with its parameters as one number. -/
def pkt (params : Nat) : Packet := { sq := 0, flags := 0, tag := 7, ctxWord := 0, deadline := 0, params := BitVec.ofNat 352 params }
/-- The admin pair on the awake module in a work state. -/
def workState (w : Work) : State := { adminState 15 with cmd := { (adminState 15).cmd with work := w } }
/-- Whether a packet begins and passes the checks of R459, into a state and from a queue of which `k` holds. -/
def beginsB (s : State) (op : Nat) (p : Packet) (c : Instr) (k : State → SQueue → Bool) : Bool :=
  match sqAt s p.sq with
  | none => false
  | some q =>
    let t := setSq (dropDeferred s ⟨op, p, c⟩) p.sq (q.taking ⟨op, p⟩)
    canStart s ⟨op, p, c⟩ q && !reservedSet op p && ctxOwned t q.fn (pktCtx p) && (!pfOnly op || q.fn == 0) && stateAllows t op && k t q
theorem begins_of {s : State} {op : Nat} {p : Packet} {c : Instr} {k : State → SQueue → Bool} (h : beginsB s op p c k = true) :
    ∃ t q, Begins s t op p c q ∧ k t q = true := by
  unfold beginsB at h
  cases hq : sqAt s p.sq with
  | none => simp [hq] at h
  | some q =>
    rw [hq] at h
    simp only [Bool.and_eq_true, Bool.not_eq_true', Bool.or_eq_true, beq_iff_eq] at h
    obtain ⟨⟨⟨⟨⟨a, b⟩, d⟩, e⟩, f⟩, g⟩ := h
    exact ⟨_, q, ⟨hq, a, rfl, b, d, fun hp => e.resolve_left (by simp [hp]), f⟩, g⟩

theorem witness_DeviceCommands :
    (∃ t q, Begins (workState .cold) t 0x0101 (pkt 0) (.deviceIdentify (pkt 0) []) q ∧ (allocWindow t q.fn 256).isSome = true) ∧
    (∃ t q, Begins (workState .cold) t 0x0102 (pkt 0) (.deviceInit (pkt 0) []) q ∧ true = true) ∧
    (∃ t q, Begins (workState .loaded) t 0x0103 (pkt 0) (.deviceQuiesce (pkt 0) []) q ∧ decide (t.cmd.inProg = []) = true) ∧
    (∃ t q, Begins (workState .quiesced) t 0x0104 (pkt 0) (.deviceResume (pkt 0) []) q ∧ true = true) ∧
    (∃ t q, Begins (workState .quiesced) t 0x0107 (pkt 0) (.maintEnter (pkt 0) []) q ∧ true = true) ∧
    (∃ t q, Begins (workState .maintenance) t 0x0108 (pkt 0) (.maintExit (pkt 0) []) q ∧ true = true) ∧
    (∃ t q, Begins (workState .loaded) t 0x0105 (pkt 2) (.deviceReset (pkt 2) []) q ∧
      decide (prm (pkt 2) 0 0 4 = 2 ∧ t.flt.fault = none ∧ anyRun t = false ∧ uncooled t = none) = true) ∧
    (∃ t q, Begins (workState .loaded) t 0x0105 (pkt 1) (.deviceReset (pkt 1) []) q ∧ decide (prm (pkt 1) 0 0 4 < 2) = true) ∧
    (∃ t q, Begins (workState .loaded) t 0x0106 (pkt 0) (.powerSet (pkt 0) []) q ∧
      decide (prm (pkt 0) 0 0 4 = 0 ∧ depthOf 0 (prm (pkt 0) 4 0 32) = some 0 ∧ t.cmd.role = .none ∧ t.cmd.inProg = [] ∧ powerReady t 0 0 = true) = true) ∧
    (∃ t q, Begins (workState .loaded) t 0x0106 (pkt 3) (.powerSet (pkt 3) []) q ∧
      decide (prm (pkt 3) 0 0 4 = 3 ∧ depthOf 3 (prm (pkt 3) 4 0 32) = none) = true) := by
  refine ⟨?_, ?_, ?_, ?_, ?_, ?_, ?_, ?_, ?_, ?_⟩ <;> exact begins_of (by decide +kernel)
theorem witness_DeviceCommands_depth : depthOf 3 250000 = some 0 ∧ depthOf 3 249999 = none := by decide +kernel

/-- A parameter packet: a QUEUE_CREATE of SQ 3 on CQ 0 with 4 entries at 4096. -/
def mkSq : Nat := 3 * 2 ^ 8 + 3 * 2 ^ 16 + 4096 * 2 ^ 64
def mkCq : Nat := 1 + 3 * 2 ^ 8 + 3 * 2 ^ 16 + 4096 * 2 ^ 64
/-- The state after a command, a fault apart. -/
def ranTo (s : State) (i : Instr) : State := match exec i s with | .next t => t | _ => s
/-- A state with SQ 3 and CQ 3. -/
def queuesState : State :=
  ranTo (ranTo (workState .loaded) (.queueCreate (pkt mkSq) [])) (.queueCreate (pkt mkCq) [])
/-- A state with one finished and one unfinished window. -/
def windowsState : State :=
  { workState .loaded with cmd := { (workState .loaded).cmd with windows := [⟨0, 1, 0, true, []⟩, ⟨1, 1, 0, false, []⟩, ⟨2, 1, 5, true, []⟩] } }

/-- A finished window of two words, one poisoned, and one that is not finished. -/
def shownState : State := { workState .loaded with cmd := { (workState .loaded).cmd with windows := [⟨0, 1, 0, true, [(7, false), (9, true)]⟩, ⟨1, 1, 0, false, [(7, false)]⟩] } }
/-- Its own function reads word and valid, the poison too; an unfinished window, another function, the place past the result
and a granule without a window read zero. -/
theorem witness_QueueCommands_view : bar4Word shownState 0 0 = 2 ^ 32 + 7 ∧ bar4Word shownState 0 8 = 2 ^ 33 + 2 ^ 32 + 9
    ∧ bar4Word shownState 0 16 = 0 ∧ bar4Word shownState 0 8192 = 0 ∧ bar4Word shownState 5 0 = 0 ∧ bar4Word shownState 0 16384 = 0
    ∧ (shownState.cmd.windows.find? (·.shows 0 0)).isSome = true ∧ (shownState.cmd.windows.find? (·.shows 0 8192)).isSome = true := by decide
theorem witness_QueueCommands :
    (∃ t q, Begins (workState .loaded) t 0x0109 (pkt mkSq) (.queueCreate (pkt mkSq) []) q ∧
      decide (queueCreateOk t (pkt mkSq) q.fn = true ∧ prm (pkt mkSq) 0 0 1 = 0) = true) ∧
    (∃ t q, Begins (workState .loaded) t 0x0109 (pkt mkCq) (.queueCreate (pkt mkCq) []) q ∧
      decide (queueCreateOk t (pkt mkCq) q.fn = true ∧ prm (pkt mkCq) 0 0 1 ≠ 0) = true) ∧
    (∃ t q, Begins (workState .loaded) t 0x0109 (pkt 0) (.queueCreate (pkt 0) []) q ∧ (!queueCreateOk t (pkt 0) q.fn) = true) ∧
    (∃ t q, Begins queuesState t 0x010A (pkt (3 * 2 ^ 8)) (.queueDelete (pkt (3 * 2 ^ 8)) []) q ∧
      decide (prm (pkt (3 * 2 ^ 8)) 0 0 1 = 0 ∧ prm (pkt (3 * 2 ^ 8)) 0 8 8 = 3 ∧ (sqAt t 3).map (·.fn) = some 0 ∧ q.fn = 0) = true) ∧
    (∃ t q, Begins queuesState t 0x010A (pkt (1 + 3 * 2 ^ 8)) (.queueDelete (pkt (1 + 3 * 2 ^ 8)) []) q ∧
      decide (prm (pkt (1 + 3 * 2 ^ 8)) 0 0 1 = 1 ∧ prm (pkt (1 + 3 * 2 ^ 8)) 0 8 8 = 3 ∧ (cqAt t 3).map (·.fn) = some 0 ∧ q.fn = 0
        ∧ (t.cmd.sqs.all fun x => decide (x.2.cq ≠ 3)) = true) = true) ∧
    (∃ t q, Begins queuesState t 0x010A (pkt (5 * 2 ^ 8)) (.queueDelete (pkt (5 * 2 ^ 8)) []) q ∧ (sqAt t 5).isNone = true) ∧
    (∃ t q, Begins windowsState t 0x0208 (pkt 0) (.release (pkt 0) []) q ∧
      ((t.cmd.windows.find? fun w => w.start * 8192 = prm (pkt 0) 0 0 64).any fun w => w.fn == q.fn && w.done) = true) ∧
    (∃ t q, Begins windowsState t 0x0208 (pkt 8192) (.release (pkt 8192) []) q ∧
      ((t.cmd.windows.find? fun w => w.start * 8192 = prm (pkt 8192) 0 0 64).any fun w => w.fn == q.fn && !w.done) = true) ∧
    (∃ t q, Begins windowsState t 0x0208 (pkt 16384) (.release (pkt 16384) []) q ∧
      ((t.cmd.windows.find? fun w => w.start * 8192 = prm (pkt 16384) 0 0 64).any fun w => w.fn != q.fn) = true) := by
  refine ⟨?_, ?_, ?_, ?_, ?_, ?_, ?_, ?_, ?_⟩ <;> exact begins_of (by decide +kernel)

/-- A state with contexts 1 (resident) and 2 (swapped out) of the PF, and 3 of VF 1. -/
def ctxsState : State :=
  { workState .loaded with cmd := { (workState .loaded).cmd with ctxs := [(1, ⟨0, 0, true, false, 0, false⟩), (2, ⟨0, 0, false, false, 0, false⟩), (3, ⟨1, 0, true, false, 0, false⟩)] } }
/-- The same with context 1's run in progress on the engine. -/
def ctxRun (r : RunState) : State :=
  { ctxsState with cmd := { ctxsState.cmd with holder := some 1 }, itn := { ctxsState.itn with run := r } }

theorem witness_ContextCommands :
    (∃ t q, Begins ctxsState t 0x010B (pkt 0) (.contextCreate (pkt 0) []) q ∧
      decide ((((List.range 256).drop 1).find? fun c => (mget t.cmd.ctxs c).isNone) = some 4 ∧ q.fn = 0 ∧ (reserve t 1028 4672).isSome = true) = true) ∧
    (∃ t q, Begins ctxsState t 0x010C (pkt 1) (.contextDestroy (pkt 1) []) q ∧
      decide (q.fn = 0 ∧ (mget t.cmd.ctxs 1).any (·.fn == 0) = true ∧ (imageOf t 1).isSome = false ∧ t.cmd.inProg = []) = true) ∧
    (∃ t q, Begins ctxsState t 0x010C (pkt 9) (.contextDestroy (pkt 9) []) q ∧ (mget t.cmd.ctxs 9).isNone = true) ∧
    (∃ t q, Begins ctxsState t 0x010D (pkt 0x103) (.contextPolicy (pkt 0x103) []) q ∧ true = true) ∧
    (∃ t q, Begins (ctxRun .running) t 0x010E (pkt 1) (.contextPreempt (pkt 1) []) q ∧ decide (runOf t 1 = .running ∧ (mget t.cmd.ctxs 1).isSome = true) = true) ∧
    (∃ t q, Begins (ctxRun .running) t 0x010E (pkt 2) (.contextPreempt (pkt 2) []) q ∧ decide (runOf t 2 = .none ∧ (mget t.cmd.ctxs 2).isSome = true) = true) ∧
    (∃ t q, Begins (ctxRun .running) t 0x010E (pkt (1 + 2 ^ 32)) (.contextPreempt (pkt (1 + 2 ^ 32)) []) q ∧
      decide (prm (pkt (1 + 2 ^ 32)) 4 0 1 = 1 ∧ decidedOf t 1 ≠ 1) = true) ∧
    (∃ t q, Begins (ctxRun .stoppedPreempt) t 0x010F (pkt 1) (.contextResume (pkt 1) []) q ∧
      decide (runOf t 1 = .stoppedPreempt ∧ (mget t.cmd.ctxs 1).any (·.resident) = true) = true) ∧
    (∃ t q, Begins ctxsState t 0x010F (pkt 2) (.contextResume (pkt 2) []) q ∧
      decide (runOf t 2 ≠ .stoppedPreempt ∧ (mget t.cmd.ctxs 2).any (fun x => !x.resident) = true ∧ residents t < 16) = true) ∧
    (∃ t q, Begins ctxsState t 0x0110 (pkt (1 + 2 * 2 ^ 32)) (.contextSwap (pkt (1 + 2 * 2 ^ 32)) []) q ∧
      decide ((mget t.cmd.ctxs 1).any (·.resident) = true ∧ (mget t.cmd.ctxs 2).any (fun x => !x.resident) = true ∧ movable t 1 = true) = true) ∧
    (∃ t q, Begins (ctxRun .running) t 0x0110 (pkt (1 + 2 * 2 ^ 32)) (.contextSwap (pkt (1 + 2 * 2 ^ 32)) []) q ∧ (!movable t 1) = true) := by
  refine ⟨?_, ?_, ?_, ?_, ?_, ?_, ?_, ?_, ?_, ?_, ?_⟩ <;> exact begins_of (by decide +kernel)
/-- A context of a VF is named at the PF's queue; from the VF's own queue another's is refused. -/
theorem witness_ContextCommands_foreign : (mget ctxsState.cmd.ctxs 3).any (fun x => x.fn != 2) = true := by decide +kernel
/-- Sixteen idle resident contexts and a runnable one outside, with or without the AUTO policy of group 0. -/
def stalledState (auto : Bool) : State :=
  let s := workState .loaded
  let f : Fetched := ⟨0x0701, { pkt 0 with ctxWord := 17 }⟩
  { s with cmd := { s.cmd with ctxs := (List.range 17).map fun i => (i + 1, ⟨0, 0, decide (i < 16), false, 0, false⟩)
                               sqs := s.cmd.sqs.map fun kv => (kv.1, { kv.2 with fetched := [f] })
                               auto := if auto then 1 else 0 } }
/-- A fetched packet of an undefined opcode, and a CARAVAN_FORM in progress. -/
def badState : State :=
  let s := workState .loaded
  { s with cmd := { s.cmd with sqs := s.cmd.sqs.map fun kv => (kv.1, { kv.2 with fetched := [⟨0xFFFF, pkt 0⟩] })
                               inProg := [{ op := 0x0304, pkt := { pkt 0 with sq := 1 }, fn := 0, window := none, args := [], reply := none }] }
           itn := { s.itn with caravan := some caravan1 } }

/-- The clauses of `CommandQueues` on a stalled device, an undefined opcode and a waiting CARAVAN_FORM. -/
theorem witness_CommandQueues_waits :
    (∀ a ∈ [true, false],
      let s0 := noteBlocked (stalledState a)
      (stalledOn s0).any (fun x => x.1 == 17) = true ∧ s0.cmd.stalled = false ∧ s0.cmd.auto.getLsbD 0 = a ∧
      (s0.cmd.ctxs.filter fun kv => kv.2.resident && movable s0 kv.1).length = 16) ∧
    hubRuns badState = true ∧ (badHead badState).isSome = true ∧ (forming badState).isSome = true ∧ badState.itn.caravan.isSome = true := by
  decide +kernel
/-- A host with 64 bytes of zeros at 0 and a descriptor FENCE at 64. -/
def hostView : HostView := [⟨0, List.replicate 64 0 ++ 8 :: 1 :: List.replicate 62 0, .ok⟩]
/-- MEM_FILL of 64 bytes at 0 with pattern 5. -/
def fillPrm : Nat := 64 * 2 ^ 64 + 5 * 2 ^ 128
/-- SCREED_MAINT of an operation over granule 0. -/
def maintPrm (op : Nat) : Nat := op + 2 ^ 104
/-- RELOAD_RANGE of granule 0 from host address 0. -/
def reloadPrm : Nat := 65536 * 2 ^ 64

/-- The state MODEL_LOADED with the walker of die 0 busy. -/
def maintBusy : State := { workState .loaded with scr := { (workState .loaded).scr with maint := [⟨0, 1, 0⟩] } }

theorem witness_MoveCommands :
    (∃ t q, Begins (workState .loaded) t 0x0201 (pkt (64 + 2 ^ 64)) (.dmaSubmit (pkt (64 + 2 ^ 64)) hostView) q ∧
      ((hostImage hostView 64 64 64).any fun bs => (idleQueue t).isSome && (listOk t q.fn false [BitVec.ofNat 512 (fieldAt bs 0 64)]).1) = true) ∧
    (∃ t q, Begins (workState .loaded) t 0x0201 (pkt (2 ^ 64)) (.dmaSubmit (pkt (2 ^ 64)) hostView) q ∧
      ((hostImage hostView 0 64 64).any fun bs => (idleQueue t).isSome && !(listOk t q.fn false [BitVec.ofNat 512 (fieldAt bs 0 64)]).1) = true) ∧
    (∃ t q, Begins (workState .loaded) t 0x0202 (pkt fillPrm) (.memFill (pkt fillPrm) []) q ∧
      ((fnRange t q.fn (prm (pkt fillPrm) 0 0 64) (prm (pkt fillPrm) 8 0 64) true).1.any fun ps =>
        prm (pkt fillPrm) 8 0 64 == 64 && ps.all fun x => memRange t x.1 x.2) = true) ∧
    (∃ t q, Begins (workState .loaded) t 0x0203 (pkt (maintPrm 1)) (.screedMaint (pkt (maintPrm 1)) []) q ∧
      ((maintRanges t q.fn (prm (pkt (maintPrm 1)) 8 0 64)).1.any fun rs => prm (pkt (maintPrm 1)) 0 0 4 == 1 && rs.all (fun x => maintFree t 1 x && maintMapped t x)) = true) ∧
    (∃ t q, Begins maintBusy t 0x0203 (pkt (maintPrm 1)) (.screedMaint (pkt (maintPrm 1)) []) q ∧
      ((maintRanges t q.fn (prm (pkt (maintPrm 1)) 8 0 64)).1.any fun rs => rs.all (fun x => maintMapped t x) && rs.any fun x => !maintFree t 1 x) = true) ∧
    (∃ t q, Begins (workState .loaded) t 0x0201 (pkt 64) (.dmaSubmit (pkt 64) hostView) q ∧
      ((hostImage hostView 64 0 64).any fun _ => (idleQueue t).isSome && (listOk t q.fn false []).1) = true) ∧
    (∃ t q, Begins (workState .loaded) t 0x0202 (pkt (2 ^ 64)) (.memFill (pkt (2 ^ 64)) []) q ∧
      ((fnRange t q.fn 0 1 true).1.isSome && prm (pkt (2 ^ 64)) 8 0 64 == 1) = true) ∧
    (∃ t q, Begins (workState .loaded) t 0x0203 (pkt (maintPrm 4)) (.screedMaint (pkt (maintPrm 4)) []) q ∧ decide (3 < prm (pkt (maintPrm 4)) 0 0 4) = true) ∧
    (∃ t q, Begins (workState .loaded) t 0x0207 (pkt reloadPrm) (.reloadRange (pkt reloadPrm) []) q ∧
      decide (prm (pkt reloadPrm) 0 0 64 = 0 ∧ prm (pkt reloadPrm) 8 0 64 = 65536 ∧ 65536 ≤ interTop (stackCount t) t.mem.p) = true) ∧
    (∃ t q, Begins (workState .loaded) t 0x0207 (pkt 64) (.reloadRange (pkt 64) []) q ∧ decide (prm (pkt 64) 0 0 64 % 65536 ≠ 0) = true) := by
  refine ⟨?_, ?_, ?_, ?_, ?_, ?_, ?_, ?_, ?_, ?_⟩ <;> exact begins_of (by decide +kernel)

/-- RETIRE of the bank of stack 1, die 2, bank 3, page 4 in physical form; a full-list form too. -/
def retirePrm : Nat := 2 + (1 + 2 * 2 ^ 4 + 3 * 2 ^ 9 + 4 * 2 ^ 15) * 2 ^ 64
/-- A loaded state with the flash window open. -/
def flashWindow (w : Work) : State := setRegBit (workState w) Reg.THM_STATUS 12

theorem witness_RecordCommands :
    (∃ t q, Begins (workState .loaded) t 0x0204 (pkt retirePrm) (.retire (pkt retirePrm) []) q ∧
      ((retireTarget t (pkt retirePrm)).any fun r => t.mem.retired.isEmpty && (allocWindow t q.fn 256).any fun x => retireReady x.2 r) = true) ∧
    (∃ t q, Begins (workState .loaded) t 0x0204 (pkt (3 + 2 ^ 100)) (.retire (pkt (3 + 2 ^ 100)) []) q ∧ (retireTarget t (pkt (3 + 2 ^ 100))).isNone = true) ∧
    (∃ t q, Begins (workState .loaded) t 0x0205 (pkt 0) (.retireList (pkt 0) []) q ∧ (allocWindow t q.fn (8 * t.mem.retired.length)).isSome = true) ∧
    (∃ t q, Begins (flashWindow .maintenance) t 0x0206 (pkt 0) (.retireClear (pkt 0) []) q ∧ flashOpen t = true) ∧
    (∃ t q, Begins (workState .maintenance) t 0x0206 (pkt 0) (.retireClear (pkt 0) []) q ∧ (!flashOpen t) = true) ∧
    (∃ t q, Begins (workState .loaded) t 0x0701 (pkt 0) (.eventWait (pkt 0) []) q ∧ decide (t.cmd.inProg = []) = true) ∧
    (∃ t q, Begins (workState .loaded) t 0x0702 (pkt (2 ^ 32)) (.logDrain (pkt (2 ^ 32)) []) q ∧
      decide (prm (pkt (2 ^ 32)) 0 0 8 = 0 ∧ prm (pkt (2 ^ 32)) 4 0 32 = 1 ∧ (allocWindow t q.fn 0).isSome = true ∧ (queueAt t 0).cells = []) = true) ∧
    (∃ t q, Begins (workState .loaded) t 0x0702 (pkt (8 + 2 ^ 32)) (.logDrain (pkt (8 + 2 ^ 32)) []) q ∧ decide (prm (pkt (8 + 2 ^ 32)) 0 0 8 = 8) = true) ∧
    (∃ t q, Begins (workState .loaded) t 0x0703 (pkt (3 + 2 ^ 16)) (.telemetryRead (pkt (3 + 2 ^ 16)) []) q ∧
      ((telemetry t 3).any fun x => prm (pkt (3 + 2 ^ 16)) 0 0 16 == 3 && prm (pkt (3 + 2 ^ 16)) 0 16 1 == 1 && !x.2.1
        && (allocWindow t q.fn x.1.length).isSome && (allocWindow (releaseRing x.2.2) q.fn x.1.length).isSome) = true) ∧
    (∃ t q, Begins (workState .loaded) t 0x0703 (pkt 99) (.telemetryRead (pkt 99) []) q ∧ (telemetry t 99).isNone = true) := by
  refine ⟨?_, ?_, ?_, ?_, ?_, ?_, ?_, ?_, ?_, ?_⟩ <;> exact begins_of (by decide +kernel)

/-- The image of one item that waits for nothing, as a load names it. -/
def loneImage : ItinImage := { image0 [] with flags := 0 }
/-- The loaded state with a lone image in the device context. -/
def loadedState (g : ItinImage) (r : RunState) : State :=
  { workState .loaded with cmd := { (workState .loaded).cmd with holder := some 256 }, itn := { (workState .loaded).itn with image := some g, run := r } }
/-- The smallest image that passes: one variant, one waystation of kind 4 at bell 0, one phase of no power. -/
def goodImage (p : Nat) : List Byte :=
  leBytes 4 0x4E54495A ++ leBytes 2 1 ++ leBytes 2 0 ++ leBytes 2 0x0960 ++ leBytes 1 p ++ leBytes 1 0 ++ leBytes 2 1 ++ leBytes 2 1
    ++ leBytes 8 0 ++ leBytes 2 1 ++ leBytes 2 0 ++ leBytes 4 1 ++ leBytes 8 0x80 ++ leBytes 8 0x90 ++ leBytes 8 0 ++ leBytes 8 192
    ++ List.replicate 64 0 ++ leBytes 8 (4 * 2 ^ 60) ++ leBytes 8 (2 ^ 48) ++ leBytes 8 1 ++ List.replicate 40 0
/-- The host holds it. -/
def imageView (p : Nat) : HostView := [⟨0, goodImage p, .ok⟩]

theorem witness_ItineraryCommands_load :
    ∃ t q, Begins (workState .loaded) t 0x0301 (pkt 0) (.itinLoad (pkt 0) (imageView (workState .loaded).mem.p) { image0 [] with slot := 0 }) q ∧
      (match hostItin (imageView t.mem.p) (prm (pkt 0) 0 0 64) with
       | .inl b => imageOk t (withBytes { image0 [] with slot := 0 } b) && (imageOf t (ctxKey q.fn (pktCtx (pkt 0)))).isNone
           && (listOk t q.fn true (imageDescs (withBytes { image0 [] with slot := 0 } b))).1
           && (reserve (listOk t q.fn true (imageDescs (withBytes { image0 [] with slot := 0 } b))).2 (256 + ctxKey q.fn (pktCtx (pkt 0))) 1).any fun v => (areaOf v (256 + ctxKey q.fn (pktCtx (pkt 0)))).isSome
       | .inr _ => false) = true := by
  exact begins_of (by decide +kernel)
theorem witness_ItineraryCommands :
    (∃ t q, Begins (workState .loaded) t 0x0301 (pkt 1) (.itinLoad (pkt 1) [] loneImage) q ∧ (hostItin [] (prm (pkt 1) 0 0 64)).isRight = true) ∧
    (∃ t q, Begins (workState .loaded) t 0x0301 (pkt (2 ^ 64)) (.itinLoad (pkt (2 ^ 64)) [] loneImage) q ∧ (dpaItin t q.fn 0).1.isRight = true) ∧
    (∃ t q, Begins (loadedState loneImage .loaded) t 0x0302 (pkt 0) (.itinUnload (pkt 0) []) q ∧
      decide ((imageOf t (ctxKey q.fn (pktCtx (pkt 0)))).isSome = true ∧ (runOf t (ctxKey q.fn (pktCtx (pkt 0)))).active = false) = true) ∧
    (∃ t q, Begins (loadedState loneImage .running) t 0x0302 (pkt 0) (.itinUnload (pkt 0) []) q ∧
      decide ((imageOf t (ctxKey q.fn (pktCtx (pkt 0)))).isSome = true ∧ (runOf t (ctxKey q.fn (pktCtx (pkt 0)))).active = true) = true) ∧
    (∃ t q, Begins (workState .loaded) t 0x0303 (pkt 0) (.itinRun (pkt 0) []) q ∧ (imageOf t (ctxKey q.fn (pktCtx (pkt 0)))).isNone = true) ∧
    (∃ t q, Begins (loadedState loneImage .loaded) t 0x0303 (pkt 0) (.itinRun (pkt 0) []) q ∧
      decide (((imageOf t (ctxKey q.fn (pktCtx (pkt 0)))).any fun g => !bitAt g.flags 1 && g.members ≤ 1) = true
        ∧ (runOf t (ctxKey q.fn (pktCtx (pkt 0)))).active = false ∧ quarantined t = none) = true) ∧
    (∃ t q, Begins (loadedState { loneImage with members := 2 } .loaded) t 0x0303 (pkt 0) (.itinRun (pkt 0) []) q ∧
      ((imageOf t (ctxKey q.fn (pktCtx (pkt 0)))).any fun g => !bitAt g.flags 1 && g.members == 2) = true) := by
  refine ⟨?_, ?_, ?_, ?_, ?_, ?_, ?_⟩ <;> exact begins_of (by decide +kernel)

/-- A locked member of a caravan. -/
def lockedState : State :=
  { workState .caravanLocked with cmd := { (workState .caravanLocked).cmd with role := .member }, itn := { (workState .caravanLocked).itn with caravan := some caravan1 } }

/-- The map of a lone member of number 0. -/
def loneMap : List Byte := [1, 0, 0, 0, 0, 0, 0xFF, 0xFF, 0x60, 9]
/-- The module with a number of its own. -/
def numbered : State := setRegBit (workState .loaded) Reg.FAB_SELF 11

theorem witness_CaravanCommands :
    (∃ t q, Begins numbered t 0x0304 (pkt (10 * 2 ^ 32)) (.caravanForm (pkt (10 * 2 ^ 32)) [⟨0, loneMap, .ok⟩] []) q ∧
      (match (hostImage [⟨0, loneMap, .ok⟩] 0 10 4).bind readMap with
       | some m => t.cmd.role == .none && decide (0 < m.members.length) && formFails t m 0 == none && differs t m [] == none && m.members.length == 1
       | none => false) = true) ∧
    (∃ t q, Begins (workState .loaded) t 0x0304 (pkt (10 * 2 ^ 32)) (.caravanForm (pkt (10 * 2 ^ 32)) [⟨0, loneMap, .ok⟩] []) q ∧
      (match (hostImage [⟨0, loneMap, .ok⟩] 0 10 4).bind readMap with | some m => formFails t m 0 == some 0 | none => false) = true) ∧
    (∃ t q, Begins (workState .loaded) t 0x0304 (pkt 0) (.caravanForm (pkt 0) [] []) q ∧ decide (t.cmd.role = .none) = true) ∧
    (∃ t q, Begins (workState .loaded) t 0x0305 (pkt 0) (.caravanDisband (pkt 0) []) q ∧ decide (t.cmd.role = .none) = true) ∧
    (∃ t q, Begins lockedState t 0x0305 (pkt 0) (.caravanDisband (pkt 0) []) q ∧ decide (t.cmd.role ≠ .none ∧ anyRun t = false) = true) := by
  refine ⟨?_, ?_, ?_, ?_, ?_⟩ <;> exact begins_of (by decide +kernel)

/-- The module with the claim of its own host or firmware. -/
def claimState : State := setReg (workState .loaded) Reg.FAB_MANAGER (2 ^ 32 + 2 ^ 11 + selfId (workState .loaded))
/-- FABRIC_MGMT of a kind with no payload parameter but an address and a length. -/
def mgmtPrm (kind n : Nat) : Nat := kind + n * 2 ^ 192

theorem witness_FabricCommands :
    (∃ t q, Begins (workState .loaded) t 0x0601 (pkt 1) (.fabricManage (pkt 1) [] [] []) q ∧ decide (reg t Reg.FAB_MANAGER / 2 ^ 11 % 2 = 0) = true) ∧
    (∃ t q, Begins claimState t 0x0601 (pkt 0) (.fabricManage (pkt 0) [] [] []) q ∧
      decide (reg t Reg.FAB_MANAGER / 2 ^ 11 % 2 = 1 ∧ reg t Reg.FAB_MANAGER / 2 ^ 32 % 2 ^ 32 = 1 ∧ prm (pkt 0) 0 0 32 = 0) = true) ∧
    (∃ t q, Begins claimState t 0x0602 (pkt 0) (.fabricRelease (pkt 0) []) q ∧ ownsClaim t = true) ∧
    (∃ t q, Begins (workState .loaded) t 0x0602 (pkt 0) (.fabricRelease (pkt 0) []) q ∧ (!ownsClaim t) = true) ∧
    (∃ t q, Begins (workState .loaded) t 0x0603 (pkt 0x1FFFFFFF) (.fabricWrite (pkt 0x1FFFFFFF) []) q ∧ (!mgmtWritable (prm (pkt 0x1FFFFFFF) 0 0 32)) = true) ∧
    (∃ t q, Begins (workState .loaded) t 0x0604 (pkt (mgmtPrm 0x11 8)) (.fabricMgmt (pkt (mgmtPrm 0x11 8)) []) q ∧
      decide (prm (pkt (mgmtPrm 0x11 8)) 0 0 6 = 0x11 ∧ prm (pkt (mgmtPrm 0x11 8)) 24 0 13 = 8 ∧ (allocWindow t q.fn 4096).isSome = true) = true) ∧
    (∃ t q, Begins (workState .loaded) t 0x0604 (pkt (mgmtPrm 0x13 8)) (.fabricMgmt (pkt (mgmtPrm 0x13 8)) hostView) q ∧
      decide (prm (pkt (mgmtPrm 0x13 8)) 0 0 6 = 0x13 ∧ prm (pkt (mgmtPrm 0x13 8)) 24 0 13 = 8 ∧ (hostImage hostView 0 8 1).isSome = true) = true) ∧
    (∃ t q, Begins (workState .loaded) t 0x0604 (pkt 0) (.fabricMgmt (pkt 0) []) q ∧ decide (prm (pkt 0) 0 0 6 = 0) = true) := by
  refine ⟨?_, ?_, ?_, ?_, ?_, ?_, ?_, ?_⟩ <;> exact begins_of (by decide +kernel)
theorem witness_FabricCommands_write : ((List.range 4096).find? mgmtWritable).isSome = true := by decide +kernel

/-- The state MODEL_LOADED with a model in a work state. -/
def modelWork (w : Work) : State := { workState w with srv := { (workState w).srv with model := some model4 } }
/-- The same in SERVING at the lead of a caravan. -/
def leadState : State := { modelWork .serving with cmd := { (modelWork .serving).cmd with role := .lead } }
/-- One block of token 0 to 15 at host address 0, n blocks named. -/
def prefixPrm (n : Nat) : Nat := n
/-- PAGE_ALLOC of n blocks to slot 0 at block 0. -/
def allocPrm (n : Nat) : Nat := n

theorem witness_PrefixCommands :
    (∃ t q, Begins (workState .loaded) t 0x0402 (pkt 1) (.prefixHash (pkt 1) hostView) q ∧ t.srv.model.isNone = true) ∧
    (∃ t q, Begins (modelWork .loaded) t 0x0402 (pkt 1) (.prefixHash (pkt 1) hostView) q ∧
      ((hostTokens hostView 0 1).any fun ts => tokensOk model4 ts && (allocWindow t q.fn 32).isSome && t.srv.model == some model4) = true) ∧
    (∃ t q, Begins (modelWork .loaded) t 0x0402 (pkt 2) (.prefixHash (pkt 2) hostView) q ∧
      ((hostTokens hostView 0 2).any fun ts => !tokensOk model4 ts) = true) ∧
    (∃ t q, Begins (modelWork .loaded) t 0x0403 (pkt 1) (.prefixLookup (pkt 1) hostView) q ∧
      ((hostTokens hostView 0 1).any fun ts => tokensOk model4 ts && (allocWindow t q.fn 4).any fun x =>
        (applyLookup x.2 (pkt 1) model4 false ts).2.1.status == stDone) = true) ∧
    (∃ t q, Begins leadState t 0x0403 (pkt (1 + 2 ^ 32)) (.prefixLookup (pkt (1 + 2 ^ 32)) hostView) q ∧
      decide (prm (pkt (1 + 2 ^ 32)) 0 0 17 = 1 ∧ prm (pkt (1 + 2 ^ 32)) 4 0 1 = 1 ∧ t.cmd.role = .lead ∧ (allocWindow t q.fn 4).isSome = true) = true) ∧
    (∃ t q, Begins (modelWork .serving) t 0x0404 (pkt 1) (.pageAlloc (pkt 1) []) q ∧ (allocWindow t q.fn 4).isSome = true) ∧
    (∃ t q, Begins leadState t 0x0404 (pkt 1) (.pageAlloc (pkt 1) []) q ∧ ((allocWindow t q.fn 4).any fun x => x.2.cmd.role == .lead) = true) ∧
    (∃ t q, Begins (modelWork .serving) t 0x0404 (pkt 0) (.pageAlloc (pkt 0) []) q ∧ decide (prm (pkt 0) 0 0 13 = 0) = true) ∧
    (∃ t q, Begins (modelWork .serving) t 0x0405 (pkt 1) (.pageRef (pkt 1) hostView) q ∧ ((blockList (pkt 1) hostView).any fun bs => bs.length == 1) = true) ∧
    (∃ t q, Begins leadState t 0x0406 (pkt 1) (.pageFree (pkt 1) hostView) q ∧ ((blockList (pkt 1) hostView).any fun bs => bs.length == 1 && t.cmd.role == .lead) = true) ∧
    (∃ t q, Begins (modelWork .serving) t 0x0405 (pkt (2 ^ 64 + 1)) (.pageRef (pkt (2 ^ 64 + 1)) []) q ∧ (blockList (pkt (2 ^ 64 + 1)) []).isNone = true) := by
  refine ⟨?_, ?_, ?_, ?_, ?_, ?_, ?_, ?_, ?_, ?_, ?_⟩ <;> exact begins_of (by decide +kernel)

/-- Block 0 in use, placed and owned by one reference. -/
def pagedState : State :=
  setEntry { modelWork .serving with srv := { (modelWork .serving).srv with model := some { model4 with lkv := 1, kfmt := 3, vfmt := 3 } } } 0
    { entryAt (modelWork .serving) 0 with state := .owned, refcount := 1, placed := true, kfmt := 3, vfmt := 3, fill := 16 }

theorem witness_PageCommands :
    (∃ t q, Begins (modelWork .serving) t 0x0407 (pkt 0) (.pageRead (pkt 0) []) q ∧ decide (t.srv.model = some model4 ∧ (entryAt t 0).inUse = false) = true) ∧
    (∃ t q, Begins pagedState t 0x0407 (pkt 0) (.pageRead (pkt 0) []) q ∧
      (t.srv.model.any fun m => (entryAt t 0).inUse && (entryAt t 0).state != .retired && (entryAt t 0).placed && m.lkv == 1 && (takePin t 0).isSome) = true) ∧
    (∃ t q, Begins pagedState t 0x0408 (pkt (3 * 2 ^ 128 + 3 * 2 ^ 136)) (.pageWrite (pkt (3 * 2 ^ 128 + 3 * 2 ^ 136)) []) q ∧
      decide ((entryAt t 0).state = .owned ∧ (entryAt t 0).refcount = 1 ∧ prm (pkt (3 * 2 ^ 128 + 3 * 2 ^ 136)) 16 0 6 = (entryAt t 0).kfmt
        ∧ prm (pkt (3 * 2 ^ 128 + 3 * 2 ^ 136)) 16 8 6 = (entryAt t 0).vfmt ∧ (takePin t 0).isSome = true) = true) ∧
    (∃ t q, Begins pagedState t 0x0408 (pkt 0) (.pageWrite (pkt 0) []) q ∧
      decide (prm (pkt 0) 16 0 6 ≠ (entryAt t 0).kfmt ∧ (t.srv.model.any fun m => !fitsArea m.d (headBytes m.d m.kfmt) 0) = true) = true) ∧
    (∃ t q, Begins (workState .loaded) t 0x0407 (pkt 0) (.pageRead (pkt 0) []) q ∧ t.srv.model.isNone = true) ∧
    (∃ t q, Begins (modelWork .serving) t 0x0409 (pkt (2 ^ 64)) (.blockTableRead (pkt (2 ^ 64)) []) q ∧
      decide (prm (pkt (2 ^ 64)) 8 0 17 = 1 ∧ (allocWindow t q.fn 4).isSome = true) = true) ∧
    (∃ t q, Begins (modelWork .serving) t 0x0409 (pkt 0) (.blockTableRead (pkt 0) []) q ∧ decide (prm (pkt 0) 8 0 17 = 0) = true) := by
  refine ⟨?_, ?_, ?_, ?_, ?_, ?_, ?_⟩ <;> exact begins_of (by decide +kernel)

/-- A model descriptor that passes. -/
def goodModel : List Byte :=
  leBytes 4 4 ++ [1, 1, 0, 0] ++ leBytes 2 1 ++ [1, 0] ++ leBytes 2 1 ++ leBytes 2 3 ++ leBytes 2 3 ++ leBytes 2 3 ++ List.replicate 16 0
    ++ leBytes 4 65536 ++ leBytes 2 1 ++ List.replicate 22 0
/-- A grammar of one state and one mask for 4 tokens. -/
def goodGrammar : List Byte := leBytes 4 1 ++ leBytes 4 1 ++ leBytes 4 4 ++ List.replicate 180 0
/-- A loaded model with adapter stores, and adapter slot 1 in a condition. -/
def adapterWork (x : AdSlot) : State :=
  { modelWork .loaded with srv := { (modelWork .loaded).srv with model := some { model4 with store := 65536, maxRank := 1 }, adapters := [(1, x)] } }
/-- ADAPTER_LOAD of generation 9 in slot 1, 64 bytes at 0. -/
def adapterPrm : Nat := 1 + 9 * 2 ^ 16 + 64 * 2 ^ 128
/-- GRAMMAR_LOAD of grammar 0, 192 bytes at 0. -/
def grammarPrm : Nat := 192 * 2 ^ 128

theorem witness_ServingCommands :
    (∃ t q, Begins (workState .configured) t 0x0501 (pkt 0) (.modelLoad (pkt 0) [⟨0, goodModel, .ok⟩]) q ∧
      (((hostImage [⟨0, goodModel, .ok⟩] 0 64 64).bind readModel).any fun m => (reserveModel (setGroups t m.p) m).isSome) = true) ∧
    (∃ t q, Begins (workState .configured) t 0x0501 (pkt 0) (.modelLoad (pkt 0) []) q ∧ ((hostImage [] 0 64 64).bind readModel).isNone = true) ∧
    (∃ t q, Begins (modelWork .loaded) t 0x0502 (pkt 0) (.modelUnload (pkt 0) []) q ∧ true = true) ∧
    (∃ t q, Begins (modelWork .loaded) t 0x040A (pkt 0x300) (.tenantSet (pkt 0x300) []) q ∧ decide (t.srv.core.slots = []) = true) ∧
    (∃ t q, Begins (workState .loaded) t 0x0503 (pkt 0) (.adapterLoad (pkt 0) []) q ∧ t.srv.model.isNone = true) ∧
    (∃ t q, Begins (workState .loaded) t 0x0505 (pkt 0) (.grammarLoad (pkt 0) []) q ∧ t.srv.model.isNone = true) := by
  refine ⟨?_, ?_, ?_, ?_, ?_, ?_⟩ <;> exact begins_of (by decide +kernel)
theorem witness_ServingCommands_adapters :
    (∃ t q, Begins (adapterWork ⟨none, none, none, 0, 0⟩) t 0x0503 (pkt adapterPrm) (.adapterLoad (pkt adapterPrm) hostView) q ∧
      (t.srv.model.any fun m => prm (pkt adapterPrm) 0 16 16 == 9 && prm (pkt adapterPrm) 16 0 64 == 64 && m.store == 65536
        && (adapterAt t 1).load == none && (hostImage hostView 0 64 64).isSome && firstBelow 256 (fun i => !(usedStores t).contains i) == some 0) = true) ∧
    (∃ t q, Begins (adapterWork ⟨some (9, 0), none, none, 0, 0⟩) t 0x0503 (pkt adapterPrm) (.adapterLoad (pkt adapterPrm) hostView) q ∧
      decide ((adapterAt t 1).cur.map (·.1) = some (prm (pkt adapterPrm) 0 16 16)) = true) ∧
    (∃ t q, Begins (adapterWork ⟨none, none, some (8, 0), 0, 0⟩) t 0x0503 (pkt adapterPrm) (.adapterLoad (pkt adapterPrm) hostView) q ∧
      (adapterAt t 1).load.isSome = true) ∧
    (∃ t q, Begins (adapterWork ⟨none, none, none, 0, 0⟩) t 0x0504 (pkt 1) (.adapterFree (pkt 1) []) q ∧ (adapterAt t 1).cur.isNone = true) ∧
    (∃ t q, Begins (adapterWork ⟨some (9, 0), none, none, 0, 0⟩) t 0x0504 (pkt 1) (.adapterFree (pkt 1) []) q ∧
      decide ((adapterAt t 1).cur = some (9, 0) ∧ (adapterAt t 1).curUse = 0) = true) ∧
    (∃ t q, Begins (adapterWork ⟨some (9, 0), none, none, 2, 0⟩) t 0x0504 (pkt 1) (.adapterFree (pkt 1) []) q ∧
      decide ((adapterAt t 1).cur = some (9, 0) ∧ (adapterAt t 1).curUse = 2) = true) := by
  refine ⟨?_, ?_, ?_, ?_, ?_, ?_⟩ <;> exact begins_of (by decide +kernel)
/-- Every store in use, and slot 1's own idle. -/
theorem witness_ServingCommands_stores :
    let s : State := { adapterWork ⟨some (8, 0), none, none, 0, 0⟩ with srv := { (adapterWork ⟨some (8, 0), none, none, 0, 0⟩).srv with
      adapters := (List.range 256).map fun i => (i + 1, ⟨some (8, i), none, none, 0, 0⟩) } }
    firstBelow 256 (fun i => !(usedStores s).contains i) = none ∧ (adapterAt s 1).cur = some (8, 0) ∧ (adapterAt s 1).curUse = 0 := by
  decide +kernel
theorem witness_ServingCommands_grammars :
    (∃ t q, Begins (modelWork .loaded) t 0x0505 (pkt grammarPrm) (.grammarLoad (pkt grammarPrm) [⟨0, goodGrammar, .ok⟩]) q ∧
      (((hostImage [⟨0, goodGrammar, .ok⟩] 0 192 64).bind (readGrammar model4)).any fun g =>
        g.maskOf.length == 1 && g.masks.length == 1 && !grammarNamed t 0 && t.srv.model == some model4 && t.srv.grammars.isEmpty) = true) ∧
    (∃ t q, Begins (modelWork .loaded) t 0x0505 (pkt grammarPrm) (.grammarLoad (pkt grammarPrm) [⟨0, List.replicate 192 0, .ok⟩]) q ∧
      ((hostImage [⟨0, List.replicate 192 0, .ok⟩] 0 192 64).any fun b => (readGrammar model4 b).isNone) = true) ∧
    (∃ t q, Begins (modelWork .loaded) t 0x0506 (pkt 0) (.grammarFree (pkt 0) []) q ∧ (!grammarNamed t 0) = true) := by
  refine ⟨?_, ?_, ?_⟩ <;> exact begins_of (by decide +kernel)

/-- The device context of the PF holds a serving image with one variant whose shape bounds are generous, and a model. -/
def servingState (flags : Nat) : State :=
  { modelWork .serving with cmd := { (modelWork .serving).cmd with holder := some 256 },
                            itn := { (modelWork .serving).itn with image := some { image0 [] with flags := flags, shapes := [List.replicate 18 9], slot := BitVec.ofNat 384 (4096 * 2 ^ 272) }, run := .loaded } }
/-- A manifest image of one entry of slot 0: LEAVE (2) or CONTINUE (0). -/
def manifestView (action : Nat) : HostView := [⟨0, leBytes 4 1 ++ leBytes 4 80 ++ List.replicate 24 0 ++ leBytes 4 (action * 2 ^ 30) ++ List.replicate 44 0, .ok⟩]
/-- The entries that a STEP reads and what it checks them against. -/
def stepOf (t : State) (q : SQueue) (hv : HostView) : Option (State × Model × ItinImage × Nat × List MEntry) :=
  let u := takeEngine t (ctxKey q.fn (pktCtx (pkt 0)))
  match u.srv.model, u.itn.image with
  | some m, some g => (fetchManifest hv 0 (slotF g.slot 34 0 32)).map fun x => (u, m, g, x.2.1, (vfParams q.fn t x.2.2).1)
  | _, _ => none
/-- Tenant 0 enabled and unconstrained. -/
def tenantState : State := { servingState 2 with srv := { (servingState 2).srv with tenants := [(0, (false, true))] } }

theorem witness_StepCommand :
    (∃ t q, Begins (workState .serving) t 0x0401 (pkt 0) (.step (pkt 0) []) q ∧ (takeEngine t (ctxKey q.fn (pktCtx (pkt 0)))).srv.model.isNone = true) ∧
    (∃ t q, Begins (servingState 0) t 0x0401 (pkt 0) (.step (pkt 0) []) q ∧
      ((takeEngine t (ctxKey q.fn (pktCtx (pkt 0)))).itn.image.any fun g => g.flags / 2 % 2 == 0) = true) ∧
    (∃ t q, Begins (servingState 2) t 0x0401 (pkt 0) (.step (pkt 0) []) q ∧
      ((takeEngine t (ctxKey q.fn (pktCtx (pkt 0)))).itn.image.any fun g => g.flags / 2 % 2 == 1 && (fetchManifest [] 0 (slotF g.slot 34 0 32)).isNone
        && quarantined t == none) = true) ∧
    (∃ t q, Begins (servingState 2) t 0x0401 (pkt 0) (.step (pkt 0) (manifestView 0)) q ∧
      ((stepOf t q (manifestView 0)).any fun x => x.2.2.2.2.length == 1 && entryFails x.1 x.2.1 x.2.2.1.seed (nth x.2.2.2.2 0 ⟨[], [], [], []⟩) == some false && !paramPoison x.1 (nth x.2.2.2.2 0 ⟨[], [], [], []⟩)) = true) ∧
    (∃ t q, Begins tenantState t 0x0401 (pkt 0) (.step (pkt 0) (manifestView 2)) q ∧
      ((stepOf t q (manifestView 2)).any fun x =>
        let kept := x.2.2.2.2.map fun e => (triage x.1 x.1.bell e).1
        x.2.2.2.2.length == 1 && x.2.2.2.1 == 1 && entryFails x.1 x.2.1 x.2.2.1.seed (nth x.2.2.2.2 0 ⟨[], [], [], []⟩) == none && !paramPoison x.1 (nth x.2.2.2.2 0 ⟨[], [], [], []⟩)
          && unreadable x.1 x.2.1 x.2.2.2.2 == none && (allocWindow x.1 q.fn (resultBytes kept)).isSome
          && (pickVariant x.2.2.1 (shapeOf x.1 kept)).isLeft
          && (admitStep (passOne x.1) x.2.1 (StepRun.fresh 0 kept (kept.map fun e => SRes.fresh 0 e.runs))).isSome) = true) := by
  refine ⟨?_, ?_, ?_, ?_, ?_⟩ <;> exact begins_of (by decide +kernel)

/-- MAINTENANCE with the flash window open and a staged image of kind 1. -/
def stagedState : State := { flashWindow .maintenance with sec := { (flashWindow .maintenance).sec with staged := [(1, [1])] } }

theorem witness_SecurityCommands :
    (∃ t q, Begins (workState .loaded) t 0x0801 (pkt 1) (.attest (pkt 1) [] 0) q ∧ (hostImage [] (prm (pkt 1) 0 0 64) 32 4).isNone = true) ∧
    (∃ t q, Begins (workState .maintenance) t 0x0802 (pkt 0) (.fwStage (pkt 0) []) q ∧ decide (prm (pkt 0) 16 0 2 = 0) = true) ∧
    (∃ t q, Begins (workState .maintenance) t 0x0802 (pkt (64 * 2 ^ 64 + 2 ^ 128)) (.fwStage (pkt (64 * 2 ^ 64 + 2 ^ 128)) hostView) q ∧
      decide (prm (pkt (64 * 2 ^ 64 + 2 ^ 128)) 16 0 2 = 1 ∧ prm (pkt (64 * 2 ^ 64 + 2 ^ 128)) 8 0 27 = 64 ∧ (hostImage hostView 0 64 64).isSome = true) = true) ∧
    (∃ t q, Begins stagedState t 0x0803 (pkt 1) (.fwActivate (pkt 1) [] 0) q ∧ decide ((mget t.sec.staged 1).isSome = true ∧ flashOpen t = true) = true) ∧
    (∃ t q, Begins stagedState t 0x0803 (pkt 2) (.fwActivate (pkt 2) [] 0) q ∧ (mget t.sec.staged 2).isNone = true) ∧
    (∃ t q, Begins (workState .loaded) t 0x0804 (pkt 0) (.signStatus (pkt 0) []) q ∧ true = true) := by
  refine ⟨?_, ?_, ?_, ?_, ?_, ?_⟩ <;> exact begins_of (by decide +kernel)

/-- A loaded state with a condition of the signer. -/
def signerState (next tree : Nat) : State :=
  { flashWindow .loaded with sec := { (flashWindow .loaded).sec with next := next, rend := next + 4096, tree := tree, owed := false } }
/-- A request that waits. -/
def waitingState : State := { signerState 0 0 with sec := { (signerState 0 0).sec with reqs := [{ pkt := none, window := 0, body := [] }] } }
theorem witness_SecurityCommands_attest :
    (∃ t q, Begins waitingState t 0x0801 (pkt 0) (.attest (pkt 0) hostView 0) q ∧
      decide (t.sec.reqs ≠ [] ∧ (hostImage hostView 0 32 4).isSome = true ∧ (allocWindow t q.fn 6000).isSome = true) = true) ∧
    (∃ t q, Begins (signerState (2 ^ 20) 0) t 0x0801 (pkt 0) (.attest (pkt 0) hostView 0) q ∧ decide (t.sec.reqs = [] ∧ (sign [] 0 t).1 = .waits) = true) ∧
    (∃ t q, Begins (signerState (2 ^ 40) 0) t 0x0801 (pkt 0) (.attest (pkt 0) hostView 0) q ∧ decide (t.sec.reqs = [] ∧ (sign [] 0 t).1 = .refused stSignExhausted) = true) ∧
    (∃ t q, Begins (signerState 0 0) t 0x0801 (pkt 0) (.attest (pkt 0) hostView 0) q ∧
      (t.sec.reqs.isEmpty && (match (sign [] 0 t).1 with | .signed _ => true | _ => false) && (allocWindow (sign [] 0 t).2 q.fn 6000).isSome) = true) := by
  refine ⟨?_, ?_, ?_, ?_⟩ <;> exact begins_of (by decide +kernel)
/-- A signed measurement is 5,716 bytes longer than its body. -/
theorem witness_SecurityCommands_length (body sig : List Byte) : (signedBytes body (padTo 5716 sig)).length = body.length + 5716 := by
  simp [signedBytes, clean, padTo]; omega

theorem witness_QueueFront : (State.reset.withCommand .bell).pending = .bell :: [] ∧ State.reset.pending = [] := by decide

/-- Whether a packet is the row's, stands first and may begin, into a state and from a queue of which `k` holds. -/
def startsB (s : State) (op : Nat) (p : Packet) (c : Instr) (k : State → SQueue → Bool) : Bool :=
  match sqAt s p.sq with
  | none => false
  | some q =>
    canStart s ⟨op, p, c⟩ q && decide (packetOp c = some (op, p)) && k (setSq (dropDeferred s ⟨op, p, c⟩) p.sq (q.taking ⟨op, p⟩)) q
theorem starts_of {s : State} {op : Nat} {p : Packet} {c : Instr} {k : State → SQueue → Bool} (h : startsB s op p c k = true) :
    ∃ t q, Starts s t op p c q ∧ k t q = true := by
  unfold startsB at h
  cases hq : sqAt s p.sq with
  | none => simp [hq] at h
  | some q =>
    rw [hq] at h
    simp only [Bool.and_eq_true, decide_eq_true_eq] at h
    exact ⟨_, q, ⟨h.1.2, hq, h.1.1, rfl⟩, h.2⟩
/-- A DEVICE_RESUME of the admin queue. -/
def resumeP (p : Packet) : Instr := .deviceResume p []
/-- A MEM_FILL. -/
def fillP (p : Packet) : Instr := .memFill p []
/-- A packet with a reserved flag bit set, and one of context 9. -/
def badFlag : Packet := { pkt 0 with flags := 1 }
def foreignCtx : Packet := { pkt 0 with ctxWord := 9 }
/-- The admin queue owned by VF 1. -/
def vfQueue (s : State) : State := { s with cmd := { s.cmd with sqs := s.cmd.sqs.map fun kv => (kv.1, { kv.2 with fn := 1 }) } }

theorem witness_PacketChecks :
    (∃ t q, Starts (workState .quiesced) t 0x0104 (pkt 0) (resumeP (pkt 0)) q ∧
      decide (reservedSet 0x0104 (pkt 0) = false ∧ ctxOwned t q.fn (pktCtx (pkt 0)) = true ∧ q.fn = 0 ∧ t.cmd.work = .quiesced ∧
        t.cmd.role ≠ .lead ∧ powerState t = 0) = true) ∧
    (∃ t q, Starts (workState .quiesced) t 0x0104 badFlag (resumeP badFlag) q ∧ reservedSet 0x0104 badFlag = true) ∧
    (∃ t q, Starts (workState .quiesced) t 0x0104 foreignCtx (resumeP foreignCtx) q ∧
      decide (reservedSet 0x0104 foreignCtx = false ∧ ctxOwned t q.fn (pktCtx foreignCtx) = false) = true) ∧
    (∃ t q, Starts (vfQueue (workState .quiesced)) t 0x0104 (pkt 0) (resumeP (pkt 0)) q ∧
      decide (reservedSet 0x0104 (pkt 0) = false ∧ pfOnly 0x0104 = true ∧ q.fn ≠ 0) = true) ∧
    (∃ t q, Starts (workState .loaded) t 0x0104 (pkt 0) (resumeP (pkt 0)) q ∧
      decide (reservedSet 0x0104 (pkt 0) = false ∧ q.fn = 0 ∧ t.cmd.work = .loaded) = true) ∧
    (∃ t q, Starts (workState .quiesced) t 0x0202 (pkt 0) (fillP (pkt 0)) q ∧ decide (t.cmd.work = .quiesced) = true) ∧
    (∃ t q, Starts { workState .loaded with cmd := { (workState .loaded).cmd with role := .lead } } t 0x0103 (pkt 0) (.deviceQuiesce (pkt 0) []) q ∧
      decide (t.cmd.role = .lead) = true) ∧
    (∃ t q, Starts (setField (workState .loaded) Reg.PWR_STATE 5 3 1) t 0x0202 (pkt 0) (fillP (pkt 0)) q ∧ decide (powerState t ≠ 0) = true) := by
  refine ⟨?_, ?_, ?_, ?_, ?_, ?_, ?_, ?_⟩ <;> exact starts_of (by decide +kernel)

theorem witness_ReplyLayout :
    ∃ q, cqAt (workState .loaded) 0 = some q ∧ q.failed = false ∧ q.waiting = [] ∧ cqFull q = false := by
  refine ⟨(cqAt (workState .loaded) 0).getD (CQueue.fresh 0 0 0 0), ?_, ?_, ?_, ?_⟩ <;> decide +kernel

/-- A packet with a deadline of 2^48 and DL_HOST clear. -/
def longDeadline : Packet := { pkt 0 with deadline := 0x1000000000000 }
/-- The host memory with that packet in the first entry of a queue at 4096. -/
def packetView : HostView := [⟨4096, packetBytes 0x0104 longDeadline, .ok⟩]
/-- The admin queue at 4096 with one packet waiting. -/
def fetchQueue : SQueue := { SQueue.fresh 0 4096 4 0 with tail := 1 }

theorem witness_PacketRoundTrip :
    (packetBytes 0x0104 longDeadline).length = 64 ∧ (0x0104 : Nat) < 2 ^ 16 ∧
    (∃ t q, Starts (workState .quiesced) t 0x0104 longDeadline (resumeP longDeadline) q ∧
      decide (bitAt longDeadline.flags.toNat 14 = false ∧ 2 ^ 48 ≤ longDeadline.deadline.toNat ∧ longDeadline.deadline ≠ 0) = true) ∧
    sqAt (setSq (workState .quiesced) 0 fetchQueue) 0 = some fetchQueue ∧ fetchQueue.halted = false ∧ fetchQueue.head ≠ fetchQueue.tail ∧
    longDeadline.sq = 0 ∧ cqStuck (setSq (workState .quiesced) 0 fetchQueue) fetchQueue.cq = false ∧
    hostOk packetView (fetchQueue.base + 64 * fetchQueue.head) 64 = true ∧
    hostBytes packetView (fetchQueue.base + 64 * fetchQueue.head) 64 = packetBytes 0x0104 longDeadline := by
  refine ⟨by decide +kernel, by decide, starts_of (by decide +kernel), ?_, ?_, ?_, ?_, ?_, ?_, ?_⟩ <;> decide +kernel

theorem witness_StepFrame :
    site0.wf = true ∧ (∃ t, exec (.add site0) (stepState 2 0) = .next t) ∧ (∃ t, exec (.st site0) (stepState 0x11 0) = .next t) ∧
    (nextStep (stepState 0x11 0) site0).isSome = true ∧
    Issuing (stepState 0x11 0) site0 0x11 (tile0 0x11 0) Ctx.fresh .zero .zero := by
  refine ⟨by decide, ⟨_, rfl⟩, ⟨after (.st site0) (stepState 0x11 0), ?_⟩, by decide +kernel, by constructor <;> decide +kernel⟩
  show execSt site0 (stepState 0x11 0) = .next (after (.st site0) (stepState 0x11 0))
  obtain ⟨t, ht⟩ : ∃ t, execSt site0 (stepState 0x11 0) = .next t := by
    unfold execSt
    extract_lets
    split
    · split <;> exact ⟨_, rfl⟩
    · exact ⟨_, rfl⟩
  have e : exec (.st site0) (stepState 0x11 0) = execSt site0 (stepState 0x11 0) := rfl
  unfold after
  rw [e, ht]

theorem witness_BankStoreFrame :
    (locateS awake 0 = some ⟨0, 0, 0, 0, 0⟩ ∧ trowelBusy awake (trowelOf 0 0 0) = false ∧ stackHolds awake 0 = false ∧
      stackServes awake 0 = true ∧ isRetired awake ⟨0, 0, 0, 0, 0⟩ = false ∧ awake.variant = .pm960 ∧ chkDiff awake 0 = 0) ∧
    (let s := { awake with variant := .pm480, mem := { awake.mem with stks := awake.mem.stks.take 6 } }
     locateS s 0 = some ⟨0, 0, 0, 0, 0⟩ ∧ trowelBusy s (trowelOf 0 0 0) = false ∧ stackHolds s 0 = false ∧ stackServes s 0 = true ∧
      isRetired s ⟨0, 0, 0, 0, 0⟩ = false ∧ physOf ⟨0, 0, 0, 0, 0⟩ % 32 = 0 ∧ ((List.replicate 32 (1 : Byte)).take 256).length = 32) := by
  decide +kernel

theorem witness_MemoryCanonical :
    ∃ t, (awake.withCommand (.trwXNop trowel0)).pending = [.trwXNop trowel0] ∧ (Instr.trwXNop trowel0).wf = true ∧ nearMemory (.trwXNop trowel0) = true ∧
      (awake.withCommand (.trwXNop trowel0)).mem.wf = true ∧ steps (awake.withCommand (.trwXNop trowel0)) t :=
  ⟨_, by decide +kernel, rfl, rfl, by decide +kernel, rfl⟩
theorem witness_AccessCodes :
    (((regAt Reg.PCI_ERR).map fun d => d.fields.any fun f => decide (f.acc = .w1c)) = some true) ∧ (regAt 0x10ff8).isNone = true ∧
    (Reg.PCI_ERR % 8 = 0 ∧ 0x10000 ≤ Reg.PCI_ERR ∧ Reg.PCI_ERR < 0x20000 ∧ Reg.PCI_ERR ∉ [Reg.PCI_BAR2_BASE, Reg.PCI_VF_CFG, Reg.PCI_HOST_TIME] ∧
      Reg.PCI_ERR < Reg.PCI_VF_XLAT 1 ∧ linkDown awake = false ∧ bootStage awake ≠ 0xE ∧ memServed awake 0 = true ∧ mustWait awake 0 = false) := by
  decide +kernel

theorem witness_ResetState :
    ((regAt Reg.PCI_ERR).isSome = true ∧ Reg.PCI_ERR < 0xF000000000 ∧ Reg.PCI_ERR ∉ [Reg.ARY_ID 1, Reg.SCD_ID 1, Reg.SKM_ID 1, Reg.PWR_PRESENT] ∧
      ¬(0x21000 ≤ Reg.PCI_ERR ∧ Reg.PCI_ERR < 0x21400 ∧ (Reg.PCI_ERR - 0x21000) % 0x20 = 8)) := by decide +kernel

end Sys2Proof.Tests
end

section
/-!
SUPPORT. Byte strings as numbers: a field of a string is a run of bits of the number that the string spells, so fields of
fields, bits of bytes and a string put together again from its fields follow.
-/
namespace Sys2Proof.Machine

/-- Dropping low bytes divides the number spelled. -/
theorem ofLe_drop (bs : List Byte) (o : Nat) : ofLe (bs.drop o) = ofLe bs / 256 ^ o := by
  induction o generalizing bs with
  | zero => simp
  | succ o ih =>
    cases bs with
    | nil => simp [ofLe]
    | cons b bs =>
      have hb : b.toNat < 256 := b.isLt
      rw [List.drop_succ_cons, ih, ofLe, Nat.pow_succ', ← Nat.div_div_eq_div_mul,
        show (b.toNat + 256 * ofLe bs) / 256 = ofLe bs by omega]

/-- Keeping low bytes reduces the number spelled. -/
theorem ofLe_take (bs : List Byte) (n : Nat) : ofLe (bs.take n) = ofLe bs % 256 ^ n := by
  induction n generalizing bs with
  | zero => simp [ofLe, Nat.mod_one]
  | succ n ih =>
    cases bs with
    | nil => simp [ofLe]
    | cons b bs =>
      have hb : b.toNat < 256 := b.isLt
      rw [List.take_succ_cons, ofLe, ofLe, ih, Nat.pow_succ', Nat.mod_mul,
        show (b.toNat + 256 * ofLe bs) / 256 = ofLe bs by omega, show (b.toNat + 256 * ofLe bs) % 256 = b.toNat by omega]

/-- A field is a run of bits of the number that the string spells. -/
theorem fieldAt_eq_bitsOf (bs : List Byte) (o n : Nat) : fieldAt bs o n = bitsOf (ofLe bs) (8 * o) (8 * n) := by
  rw [fieldAt, ofLe_take, ofLe_drop, bitsOf_eq, Nat.pow_mul, Nat.pow_mul]

/-- A run of bits within a run of bits. -/
theorem bitsOf_bitsOf (v lo w : Nat) {lo2 w2 : Nat} (h : lo2 + w2 ≤ w) : bitsOf (bitsOf v lo w) lo2 w2 = bitsOf v (lo + lo2) w2 := by
  apply Nat.eq_of_testBit_eq
  intro i
  simp only [bitsOf, Nat.testBit_mod_two_pow, Nat.testBit_shiftRight, Nat.add_assoc]
  by_cases hi : i < w2
  · simp [hi, show lo2 + i < w by omega]
  · simp [hi]

theorem testBit_bitsOf (v lo : Nat) {w i : Nat} (h : i < w) : (bitsOf v lo w).testBit i = v.testBit (lo + i) := by
  simp [bitsOf, Nat.testBit_mod_two_pow, Nat.testBit_shiftRight, h]

/-- Whole bytes within a field are a field. -/
theorem bitsOf_fieldAt (bs : List Byte) (o : Nat) {n j w : Nat} (h : j + w ≤ n) :
    bitsOf (fieldAt bs o n) (8 * j) (8 * w) = fieldAt bs (o + j) w := by
  rw [fieldAt_eq_bitsOf, fieldAt_eq_bitsOf, bitsOf_bitsOf _ _ _ (by omega), Nat.mul_add]

/-- A field of one byte is that byte. -/
theorem fieldAt_one (bs : List Byte) (o : Nat) : fieldAt bs o 1 = (nth bs o 0).toNat := by
  induction o generalizing bs with
  | zero => cases bs <;> simp [fieldAt, ofLe, nth]
  | succ o ih =>
    cases bs with
    | nil => simp [fieldAt, ofLe, nth]
    | cons b bs => simpa [fieldAt, nth] using ih bs

/-- A bit of a field is a bit of one of its bytes. -/
theorem bitAt_fieldAt (bs : List Byte) (o : Nat) {n j i : Nat} (hj : j < n) (hi : i < 8) :
    bitAt (fieldAt bs o n) (8 * j + i) = (nth bs (o + j) 0).getLsbD i := by
  calc bitAt (fieldAt bs o n) (8 * j + i) = (bitsOf (fieldAt bs o n) (8 * j) (8 * 1)).testBit i :=
        (testBit_bitsOf _ _ (by omega)).symm
    _ = (fieldAt bs (o + j) 1).testBit i := by rw [bitsOf_fieldAt bs o (by omega)]
    _ = (nth bs (o + j) 0).getLsbD i := by rw [fieldAt_one, BitVec.testBit_toNat]

/-- The bytes of a field follow what stands before it. -/
theorem take_append_leBytes_fieldAt (bs : List Byte) {o n : Nat} (h : o + n ≤ bs.length) :
    bs.take o ++ leBytes n (fieldAt bs o n) = bs.take (o + n) := by
  have hl : ((bs.drop o).take n).length = n := by rw [List.length_take, List.length_drop]; omega
  have hf : leBytes n (fieldAt bs o n) = (bs.drop o).take n := by
    simpa only [fieldAt, hl] using leBytes_ofLe ((bs.drop o).take n)
  rw [hf, List.take_add]

/-- A word's number fits in the bytes of its width. -/
theorem toNat_mod_bytes {w n : Nat} (x : BitVec w) (h : w = 8 * n) : x.toNat % 256 ^ n = x.toNat := by
  subst h
  exact Nat.mod_eq_of_lt (by simpa only [Nat.pow_mul] using x.isLt)

/-- A word takes a field of its own width whole. -/
theorem toNat_ofNat_fieldAt (bs : List Byte) (o : Nat) {n w : Nat} (h : w = 8 * n) :
    (BitVec.ofNat w (fieldAt bs o n)).toNat = fieldAt bs o n := by
  subst h
  rw [BitVec.toNat_ofNat, Nat.mod_eq_of_lt]
  simpa only [Nat.pow_mul] using fieldAt_lt bs o n

end Sys2Proof.Machine
end

section
/-!
SUPPORT. The checks of a packet that begins (R459), legality by work state (Table 12.6), and what the check of reserved
fields looks at (R457).
-/
namespace Sys2Proof.Machine

section
variable {s t : State} {op : Nat} {p : Packet} {c : Instr} {q : SQueue}

theorem exec_badParam_of_reserved (h : Starts s t op p c q) (hr : reservedSet op p = true) :
    exec c s = .next (afterPacket c (complete t p (reject p stBadParam))) := by
  obtain ⟨body, hb⟩ := exec_starts h
  rw [hb, judge_reserved hr]

theorem exec_notPermitted_of_owner (h : Starts s t op p c q) (hr : reservedSet op p = false)
    (ho : ctxOwned t q.fn (pktCtx p) = false ∨ (pfOnly op = true ∧ q.fn ≠ 0)) :
    exec c s = .next (afterPacket c (complete t p (reject p stNotPermitted))) := by
  obtain ⟨body, hb⟩ := exec_starts h
  rw [hb, judge_owner hr ho]

theorem exec_wrongState_of_not_allowed (h : Starts s t op p c q) (hr : reservedSet op p = false) (ho : ctxOwned t q.fn (pktCtx p) = true)
    (hp : pfOnly op = true → q.fn = 0) (ha : stateAllows t op = false) :
    exec c s = .next (afterPacket c (complete t p (reject p stWrongState))) := by
  obtain ⟨body, hb⟩ := exec_starts h
  rw [hb, judge_state hr ho hp ha]

end

/-- Every packet row has its row in Table 12.6. -/
theorem legalTable_of_packetOp {c : Instr} {op : Nat} {p : Packet} (h : packetOp c = some (op, p)) : ∃ row ∈ legalTable, op ∈ row.1 := by
  cases c
  all_goals simp only [packetOp, Option.some.injEq, Prod.mk.injEq, reduceCtorEq] at h
  all_goals obtain ⟨rfl, -⟩ := h
  all_goals decide

/-- A row of Table 12.6 ticks the work states that the mask of each of its opcodes holds. -/
theorem bitAt_legalStates {row : List Nat × List Work} (hrow : row ∈ legalTable) {op : Nat} (hop : op ∈ row.1) (w : Work) :
    bitAt (legalStates op) (workCode w) = decide (w ∈ row.2) := by
  have table : ∀ row ∈ legalTable, ∀ op ∈ row.1,
      ∀ w ∈ [Work.cold, .configured, .loaded, .serving, .caravanLocked, .quiesced, .maintenance, .fault],
        bitAt (legalStates op) (workCode w) = decide (w ∈ row.2) := by decide
  exact table row hrow op hop w (by cases w <;> decide)

/-- Step 4 of R459 by the row of Table 12.6, the role (R471) and the power state (R474). -/
theorem stateAllows_iff {row : List Nat × List Work} (hrow : row ∈ legalTable) {op : Nat} (hop : op ∈ row.1) (s : State) :
    stateAllows s op = true ↔
      s.cmd.work ∈ row.2 ∧ (s.cmd.role ≠ .lead ∨ op ∉ [0x0103, 0x0501, 0x0502, 0x0601, 0x0602, 0x0603]) ∧
      (powerState s = 0 ∨ op ∈ [0x0101, 0x0105, 0x0106, 0x0109, 0x010A, 0x0208, 0x0701, 0x0702, 0x0703, 0x0804]) := by
  simp only [stateAllows, bitAt_legalStates hrow hop, legalAsleep, Bool.and_eq_true, Bool.or_eq_true, Bool.not_eq_true', bne_iff_ne,
    beq_iff_eq, decide_eq_true_eq, List.contains_iff_mem, ← Bool.not_eq_true, and_assoc]

/-- Bits that a mask does not hold, as the check of the parameters finds them. -/
theorem lor_xor_eq_zero_iff (v m : Nat) : Nat.xor (Nat.lor v m) m = 0 ↔ ∀ i, v.testBit i = true → m.testBit i = true := by
  have bit : ∀ i, (Nat.xor (Nat.lor v m) m).testBit i = (v.testBit i && !m.testBit i) := by
    intro i
    change ((v ||| m) ^^^ m).testBit i = (v.testBit i && !m.testBit i)
    rw [Nat.testBit_xor, Nat.testBit_or]
    cases v.testBit i <;> cases m.testBit i <;> rfl
  constructor
  · intro h i hv
    have hb := bit i
    rw [h, Nat.zero_testBit, hv] at hb
    simpa using hb
  · intro h
    apply Nat.eq_of_testBit_eq
    intro i
    rw [bit, Nat.zero_testBit]
    cases hv : v.testBit i with
    | false => rfl
    | true => simp [h i hv]

/-- What step 2 of R459 looks at. -/
theorem reservedSet_eq_false_iff (op : Nat) (p : Packet) : reservedSet op p = false ↔
    (p.flags.toNat % 2 ^ 13 = 0 ∧ p.ctxWord.toNat < 2 ^ 8 ∧ (bitAt p.flags.toNat 14 = false → p.deadline.toNat < 2 ^ 48) ∧
      ∀ i, p.params.getLsbD i = true → (usedParams op p).testBit i = true) := by
  simp only [reservedSet, Bool.or_eq_false_iff, Bool.and_eq_false_imp, bne_eq_false_iff_eq, Bool.not_eq_true', lor_xor_eq_zero_iff,
    BitVec.testBit_toNat, Nat.div_eq_zero_iff_lt (Nat.two_pow_pos _), and_assoc]

/-- A bell count of more than 48 bits sets a reserved field (R457). -/
theorem reservedSet_of_long_deadline (op : Nat) {p : Packet} (hf : bitAt p.flags.toNat 14 = false) (hd : 2 ^ 48 ≤ p.deadline.toNat) :
    reservedSet op p = true := by
  by_contra h
  obtain ⟨-, -, hshort, -⟩ := (reservedSet_eq_false_iff op p).mp (by simpa using h)
  exact absurd (hshort hf) (by omega)

/-- A deadline other than zero counts in host time or in bells (R457, R458). -/
theorem pastDeadline_of_ne_zero (s : State) {p : Packet} (h : p.deadline ≠ 0) :
    pastDeadline s p = if bitAt p.flags.toNat 14 then decide (p.deadline.toNat < reg s Reg.PCI_HOST_TIME)
      else decide (p.deadline.toNat < s.bell) := by
  have hd : p.deadline.toNat ≠ 0 := fun h0 => h (BitVec.eq_of_toNat_eq h0)
  simp [pastDeadline, hd]

/-- Settles O53: the order of checks is that of `judge`, and Table 12.6 is the mask of `legalStates`. -/
theorem packetChecks : Obligations.PacketChecks := by
  intro s t op p c q h
  refine ⟨legalTable_of_packetOp h.row, exec_badParam_of_reserved h, exec_notPermitted_of_owner h, fun hr ho hp => ?_⟩
  obtain ⟨row, hrow, hop⟩ := legalTable_of_packetOp h.row
  have wrong : stateAllows t op ≠ true → exec c s = .next (afterPacket c (complete t p (reject p stWrongState))) :=
    fun ha => exec_wrongState_of_not_allowed h hr ho hp (by simpa using ha)
  refine ⟨?_, ?_, ?_, ?_⟩
  · intro row hrow hop hw
    exact wrong fun ha => hw ((stateAllows_iff hrow hop t).mp ha).1
  · intro hlead hbar
    refine wrong fun ha => ?_
    obtain ⟨-, hrole, -⟩ := (stateAllows_iff hrow hop t).mp ha
    exact hrole.elim (· hlead) (· hbar)
  · intro hpow hsleep
    refine wrong fun ha => ?_
    obtain ⟨-, -, hrun⟩ := (stateAllows_iff hrow hop t).mp ha
    exact hrun.elim hpow hsleep
  · intro row hrow hop hw hrole hrun
    exact ⟨h.queue, h.ready, h.taken, hr, ho, hp, (stateAllows_iff hrow hop t).mpr ⟨hw, hrole, hrun⟩⟩

end Sys2Proof.Machine
end

section
/-!
SUPPORT. The layout of a command packet (R457, Table 12.1): its bytes read back as the packet, and any 64 bytes are those of
the packet that they spell.
-/
namespace Sys2Proof.Machine

theorem length_packetBytes (op : Nat) (p : Packet) : (packetBytes op p).length = 64 := by
  simp [packetBytes]

/-- Where Table 12.1 puts each field of a packet. -/
theorem fieldAt_packetBytes (op : Nat) (p : Packet) :
    fieldAt (packetBytes op p) 0 2 = op % 256 ^ 2 ∧ fieldAt (packetBytes op p) 2 2 = p.flags.toNat % 256 ^ 2 ∧
    fieldAt (packetBytes op p) 4 4 = p.tag.toNat % 256 ^ 4 ∧ fieldAt (packetBytes op p) 8 4 = p.ctxWord.toNat % 256 ^ 4 ∧
    fieldAt (packetBytes op p) 12 8 = p.deadline.toNat % 256 ^ 8 ∧ fieldAt (packetBytes op p) 20 44 = p.params.toNat % 256 ^ 44 := by
  refine ⟨?_, ?_, ?_, ?_, ?_, ?_⟩ <;>
    simp (disch := simp) [packetBytes, List.append_assoc, fieldAt_append_left, fieldAt_append_right, fieldAt_leBytes]

/-- A word from its own number, cut to whole bytes that hold it. -/
theorem ofNat_toNat_mod {w n : Nat} (x : BitVec w) (h : w = 8 * n) : BitVec.ofNat w (x.toNat % 256 ^ n) = x := by
  rw [toNat_mod_bytes x h, BitVec.ofNat_toNat, BitVec.setWidth_eq]

/-- Reading a packet's bytes gives the packet. -/
theorem packetOf_packetBytes {op : Nat} (p : Packet) (h : op < 2 ^ 16) : packetOf p.sq (packetBytes op p) = ⟨op, p⟩ := by
  obtain ⟨hop, hflags, htag, hctx, hdl, hprm⟩ := fieldAt_packetBytes op p
  rw [packetOf, hop, hflags, htag, hctx, hdl, hprm, Nat.mod_eq_of_lt (by omega), ofNat_toNat_mod (n := 2) _ rfl,
    ofNat_toNat_mod (n := 4) _ rfl, ofNat_toNat_mod (n := 4) _ rfl, ofNat_toNat_mod (n := 8) _ rfl, ofNat_toNat_mod (n := 44) _ rfl]

section
variable (n : Nat) (bs : List Byte)

theorem packetOf_flags : (packetOf n bs).pkt.flags.toNat = fieldAt bs 2 2 := toNat_ofNat_fieldAt bs 2 rfl
theorem packetOf_tag : (packetOf n bs).pkt.tag.toNat = fieldAt bs 4 4 := toNat_ofNat_fieldAt bs 4 rfl
theorem packetOf_ctxWord : (packetOf n bs).pkt.ctxWord.toNat = fieldAt bs 8 4 := toNat_ofNat_fieldAt bs 8 rfl
theorem packetOf_deadline : (packetOf n bs).pkt.deadline.toNat = fieldAt bs 12 8 := toNat_ofNat_fieldAt bs 12 rfl
theorem packetOf_params : (packetOf n bs).pkt.params.toNat = fieldAt bs 20 44 := toNat_ofNat_fieldAt bs 20 rfl

/-- The flags are bits of byte 3. -/
theorem bitAt_packetOf_flags {i : Nat} (h : i < 8) : bitAt (packetOf n bs).pkt.flags.toNat (8 + i) = (nth bs 3 0).getLsbD i := by
  rw [packetOf_flags]
  exact bitAt_fieldAt bs 2 (j := 1) (by omega) h

/-- The context is byte 8. -/
theorem pktCtx_packetOf : pktCtx (packetOf n bs).pkt = (nth bs 8 0).toNat := by
  rw [pktCtx, packetOf_ctxWord, ← fieldAt_one]
  exact bitsOf_fieldAt bs 8 (j := 0) (w := 1) (by omega)

/-- A parameter of whole bytes is the field at its offset from byte 20. -/
theorem prm_packetOf {o w : Nat} (h : o + w ≤ 44) : prm (packetOf n bs).pkt o 0 (8 * w) = fieldAt bs (20 + o) w := by
  rw [prm, packetOf_params, Nat.add_zero, bitsOf_fieldAt bs 20 h]

/-- Any 64 bytes are those of the packet that they spell. -/
theorem packetBytes_packetOf (h : bs.length = 64) : packetBytes (packetOf n bs).op (packetOf n bs).pkt = bs := by
  have whole : ∀ o k, o + k ≤ 64 → bs.take o ++ leBytes k (fieldAt bs o k) = bs.take (o + k) :=
    fun o k hk => take_append_leBytes_fieldAt bs (h ▸ hk)
  have first : leBytes 2 (fieldAt bs 0 2) = bs.take 2 := by simpa using whole 0 2 (by omega)
  rw [packetBytes, packetOf_flags, packetOf_tag, packetOf_ctxWord, packetOf_deadline, packetOf_params, packetOf, first,
    whole 2 2 (by omega), whole 4 4 (by omega), whole 8 4 (by omega), whole 12 8 (by omega), whole 20 44 (by omega),
    List.take_of_length_le h.le]

end

/-- A fetch of one packet reads the entry at the head (R453). -/
theorem fetchSq_one {s : State} {hv : HostView} {n : Nat} {q : SQueue} (hq : sqAt s n = some q) (hh : q.halted = false)
    (hne : q.head ≠ q.tail) (hs : cqStuck s q.cq = false) (hok : hostOk hv (q.base + 64 * q.head) 64 = true) :
    fetchSq hv n 1 s = setSq s n { q with head := (q.head + 1) % q.size,
                                          fetched := q.fetched ++ [packetOf n (hostBytes hv (q.base + 64 * q.head) 64)] } := by
  simp [fetchSq, hq, hh, hne, hs, hok]

/-- Settles O55: each field of Table 12.1 is a run of the bytes' bits, and the fields make up all 64 bytes. -/
theorem packetRoundTrip : Obligations.PacketRoundTrip := by
  refine ⟨?_, ?_, reservedSet_eq_false_iff, ?_, fun s p => pastDeadline_of_ne_zero s, ?_⟩
  · intro op p hop
    exact ⟨length_packetBytes op p, packetOf_packetBytes p hop⟩
  · intro n bs hlen
    exact ⟨packetBytes_packetOf n bs hlen, rfl, rfl, bitAt_packetOf_flags n bs (i := 7) (by omega),
      bitAt_packetOf_flags n bs (i := 6) (by omega), bitAt_packetOf_flags n bs (i := 5) (by omega), packetOf_tag n bs,
      pktCtx_packetOf n bs, packetOf_deadline n bs, fun o w h => prm_packetOf n bs h⟩
  · intro s t op p c q h hf hd
    exact exec_badParam_of_reserved h (reservedSet_of_long_deadline op hf hd)
  · intro s hv n op p q hop hsq hq hh hne hs hok hbytes
    rw [fetchSq_one hq hh hne hs hok, hbytes, ← hsq, packetOf_packetBytes p hop]

end Sys2Proof.Machine
end

section
/-!
SUPPORT. The layout of a status reply (R460, Table 12.2) and its posting to a queue with room.
-/
namespace Sys2Proof.Machine

/-- Bytes 6 and 7 of a reply: the phase, the poison bit, the flags and the SQ. -/
def replyWord (r : Reply) (phase : Bool) : Nat := b2n phase * 2 ^ 15 + b2n r.poison * 2 ^ 14 + r.flags.bits * 2 ^ 8 + r.sq % 256

theorem b2n_lt_two (b : Bool) : b2n b < 2 := by cases b <;> decide

theorem testBit_b2n_zero (b : Bool) : (b2n b).testBit 0 = b := by cases b <;> rfl

theorem flags_bits_lt (f : Flags) : f.bits < 2 ^ 6 := by
  have := b2n_lt_two f.sat; have := b2n_lt_two f.ovf; have := b2n_lt_two f.unf
  have := b2n_lt_two f.inv; have := b2n_lt_two f.rsv; have := b2n_lt_two f.nrw
  simp only [Flags.bits]
  omega

/-- The flags read back from their bits. -/
theorem flags_ofBits_bits (f : Flags) : Flags.ofBits f.bits = f := by
  have table : ∀ a b c d e g : Bool, Flags.ofBits (Flags.bits ⟨a, b, c, d, e, g⟩) = ⟨a, b, c, d, e, g⟩ := by decide
  exact table f.sat f.ovf f.unf f.inv f.rsv f.nrw

/-- The word of a reply, field below field. -/
theorem replyWord_eq (r : Reply) (phase : Bool) :
    replyWord r phase = 2 ^ 8 * (2 ^ 6 * (2 ^ 1 * b2n phase + b2n r.poison) + r.flags.bits) + r.sq % 2 ^ 8 := by
  simp only [replyWord]
  omega

theorem replyWord_lt (r : Reply) (phase : Bool) : replyWord r phase < 256 ^ 2 := by
  have := b2n_lt_two phase; have := b2n_lt_two r.poison; have := flags_bits_lt r.flags
  simp only [replyWord]
  omega

theorem replyWord_sq (r : Reply) (phase : Bool) : replyWord r phase % 2 ^ 8 = r.sq % 2 ^ 8 := by
  rw [replyWord_eq, Nat.mul_add_mod, Nat.mod_mod]

/-- The bits above the SQ's byte. -/
theorem testBit_replyWord_high (r : Reply) (phase : Bool) (i : Nat) :
    (replyWord r phase).testBit (8 + i) = (2 ^ 6 * (2 ^ 1 * b2n phase + b2n r.poison) + r.flags.bits).testBit i := by
  rw [replyWord_eq, Nat.testBit_two_pow_mul_add _ (Nat.mod_lt _ (by norm_num)), if_neg (by omega), Nat.add_sub_cancel_left]

theorem testBit_replyWord_flag (r : Reply) (phase : Bool) {i : Nat} (h : i < 6) :
    (replyWord r phase).testBit (8 + i) = bitAt r.flags.bits i := by
  rw [testBit_replyWord_high, Nat.testBit_two_pow_mul_add _ (flags_bits_lt _), if_pos h, bitAt]

theorem testBit_replyWord_poison (r : Reply) (phase : Bool) : (replyWord r phase).testBit 14 = r.poison := by
  rw [testBit_replyWord_high r phase 6, Nat.testBit_two_pow_mul_add _ (flags_bits_lt _), if_neg (by omega),
    Nat.testBit_two_pow_mul_add _ (b2n_lt_two _), if_pos (by omega)]
  exact testBit_b2n_zero _

theorem testBit_replyWord_phase (r : Reply) (phase : Bool) : (replyWord r phase).testBit 15 = phase := by
  rw [testBit_replyWord_high r phase 7, Nat.testBit_two_pow_mul_add _ (flags_bits_lt _), if_neg (by omega),
    Nat.testBit_two_pow_mul_add _ (b2n_lt_two _), if_neg (by omega)]
  exact testBit_b2n_zero _

theorem length_replyBytes (r : Reply) (phase : Bool) (head : Nat) : (replyBytes r phase head).length = 32 := by
  simp [replyBytes]

/-- Where Table 12.2 puts each field of a reply. -/
theorem fieldAt_replyBytes (r : Reply) (phase : Bool) (head : Nat) :
    let b := replyBytes r phase head
    fieldAt b 6 2 = replyWord r phase % 256 ^ 2 ∧ fieldAt b 0 4 = r.tag.toNat % 256 ^ 4 ∧ fieldAt b 4 2 = r.status % 256 ^ 2 ∧
    fieldAt b 8 8 = r.result % 256 ^ 8 ∧ fieldAt b 16 2 = head % 2 ^ 12 % 256 ^ 2 ∧ fieldAt b 18 2 = r.c3 % 256 ^ 2 ∧
    fieldAt b 20 4 = r.c0 % 256 ^ 4 ∧ fieldAt b 24 4 = r.c1 % 256 ^ 4 ∧ fieldAt b 28 4 = r.c2 % 256 ^ 4 := by
  refine ⟨?_, ?_, ?_, ?_, ?_, ?_, ?_, ?_, ?_⟩ <;>
    simp (disch := simp) [replyBytes, replyWord, List.append_assoc, fieldAt_append_left, fieldAt_append_right, fieldAt_leBytes]

/-- The entry of an SQ after the last one fetched; zero where there is no such SQ. -/
def sqHead (s : State) (n : Nat) : Nat := ((sqAt s n).map (·.head)).getD 0

/-- A completion queue after a reply is written into its entry at the write index (R455). -/
def CQueue.wrote (q : CQueue) (r : Reply) : CQueue :=
  { q with widx := if q.widx + 1 = q.size then 0 else q.widx + 1, phase := if q.widx + 1 = q.size then !q.phase else q.phase, last := some r }

theorem writeReply_eq (s : State) (n : Nat) (q : CQueue) (r : Reply) :
    writeReply s n q r =
      let u := emit (setCq s n (q.wrote r)) (.reply n q.widx (q.base + 32 * q.widx) (replyBytes r q.phase (sqHead s r.sq)))
      if r.quiet then u else sendMsix u q.fn q.vector := by
  unfold writeReply sqHead
  cases sqAt s r.sq <;> rfl

/-- A queue with room, nothing waiting and no failed write takes a reply at once. -/
theorem postReply_room {s : State} {n : Nat} {q : CQueue} (r : Reply) (hq : cqAt s n = some q) (hf : q.failed = false) (hw : q.waiting = [])
    (hr : cqFull q = false) : postReply s n r = writeReply s n q r := by
  simp [postReply, hq, hf, hw, hr]

/-- Settles O54: what is written is `replyBytes`, whose fields lie where Table 12.2 puts them. -/
theorem replyLayout : Obligations.ReplyLayout := by
  intro s n q r hq hf hw hr
  obtain ⟨hword, htag, hst, hres, hsqh, h3, h0, h1, h2⟩ := fieldAt_replyBytes r q.phase (sqHead s r.sq)
  have flag : ∀ i, i < 6 → (replyWord r q.phase).testBit (8 + i) = bitAt r.flags.bits i := fun i => testBit_replyWord_flag r q.phase
  have back := flags_ofBits_bits r.flags
  refine ⟨replyBytes r q.phase (sqHead s r.sq), length_replyBytes _ _ _, ?_, ⟨replyWord r q.phase, ?_, testBit_replyWord_phase _ _,
    testBit_replyWord_poison _ _, ?_, ?_, ?_, ?_, ?_, ?_, replyWord_sq _ _⟩,
    htag.trans (toNat_mod_bytes r.tag rfl), hst, hres, ?_, h3, h0, h1, h2⟩
  · rw [postReply_room r hq hf hw hr, writeReply_eq]
    rfl
  · rw [hword, Nat.mod_eq_of_lt (replyWord_lt _ _)]
  · exact (flag 5 (by omega)).trans (congrArg Flags.nrw back)
  · exact (flag 4 (by omega)).trans (congrArg Flags.rsv back)
  · exact (flag 3 (by omega)).trans (congrArg Flags.inv back)
  · exact (flag 2 (by omega)).trans (congrArg Flags.unf back)
  · exact (flag 1 (by omega)).trans (congrArg Flags.ovf back)
  · exact (flag 0 (by omega)).trans (congrArg Flags.sat back)
  · rw [hsqh, sqHead]
    omega

end Sys2Proof.Machine
end

section
/-!
SUPPORT. Recipe steps within an array (R92 to R108): what each shared operation of an issue leaves alone, as the relation
`StepKeeps`, which composes.
-/
namespace Sys2Proof.Machine

/-! ### Arrays and contexts -/

/-- Any array after a change of one. -/
theorem arrAt_setArr (s : State) (k : Nat) (x : Arr) (j : Nat) : arrAt (setArr s k x) j = if j = k then x else arrAt s j :=
  mgetD_mput _ _ _ _ _

@[simp] theorem arrAt_setArr_self (s : State) (k : Nat) (x : Arr) : arrAt (setArr s k x) k = x := by simp [arrAt_setArr]
theorem arrAt_setArr_other (s : State) {k j : Nat} (x : Arr) (h : j ≠ k) : arrAt (setArr s k x) j = arrAt s j := by
  simp [arrAt_setArr, h]

theorem mget_mmod_other {α : Type} (m : List (Nat × α)) {i j : Nat} (f : α → α) (h : j ≠ i) : mget (mmod m i f) j = mget m j := by
  induction m with
  | nil => rfl
  | cons kv m ih =>
    simp only [mmod, List.map_cons] at ih ⊢
    split_ifs with hk
    · simp [mget, hk, h.symm, ih]
    · simp [mget, ih]

/-- A word of scratch other than the one set. -/
theorem scratchAt_setScratch_other (a : Arr) {o p : Nat} (v : PWord) (h : p / 8 ≠ o / 8) :
    scratchAt (setScratch a o v) p = scratchAt a p := mgetD_mput_other _ _ _ _ h

/-- A well-formed site's array and die from its key. -/
theorem aryKey_div {st : Site} (h : st.wf = true) : aryKey st.die st.array / 96 = st.die := by
  simp only [Site.wf, Bool.and_eq_true, decide_eq_true_eq] at h
  unfold aryKey
  omega

theorem aryKey_mod {st : Site} (h : st.wf = true) : aryKey st.die st.array % 96 = st.array := by
  simp only [Site.wf, Bool.and_eq_true, decide_eq_true_eq] at h
  unfold aryKey
  omega

/-! ### The relation composes -/

namespace StepKeeps
variable {s t u : State} {st : Site} {put : Nat → Prop}

theorem refl (s : State) (st : Site) (put : Nat → Prop) : StepKeeps s s st put :=
  ⟨rfl, fun _ => ⟨rfl, rfl, rfl⟩, fun _ _ => rfl, rfl, fun _ _ => rfl, fun _ _ => rfl, fun _ _ _ _ _ => rfl⟩

theorem trans (h : StepKeeps s t st put) (g : StepKeeps t u st put) : StepKeeps s u st put where
  rest := (congrArg (fun x : State => { x with arrays := s.arrays, regs := s.regs, freeCtr := s.freeCtr, cmd := s.cmd,
                                               outbox := s.outbox, pci := s.pci }) g.rest).trans h.rest
  quiet he := by
    obtain ⟨hc, ho, hp⟩ := h.quiet he
    obtain ⟨gc, go, gp⟩ := g.quiet he
    exact ⟨gc.trans hc, go.trans ho, gp.trans hp⟩
  arrays a ha := (g.arrays a ha).trans (h.arrays a ha)
  array := by
    have hx := h.array
    exact (congrArg (fun y : Arr =>
      let x := arrAt s (aryKey st.die st.array)
      { y with k := x.k, nextCell := x.nextCell, frozen := x.frozen, ctxs := x.ctxs, latches := x.latches, busDrive := x.busDrive,
               portK := x.portK, ports := x.ports, flags := x.flags, wrotePoison := x.wrotePoison, scratch := x.scratch }) g.array).trans hx
  ctxs i hi := (g.ctxs i hi).trans (h.ctxs i hi)
  scratch o ho := (g.scratch o ho).trans (h.scratch o ho)
  regs a hi hb hs he := (g.regs a hi hb hs he).trans (h.regs a hi hb hs he)

/-- A change of the site's own array. -/
theorem of_modArr (s : State) {f : Arr → Arr}
    (ha : ∀ x : Arr, { f x with k := x.k, nextCell := x.nextCell, frozen := x.frozen, ctxs := x.ctxs, latches := x.latches,
                                busDrive := x.busDrive, portK := x.portK, ports := x.ports, flags := x.flags,
                                wrotePoison := x.wrotePoison, scratch := x.scratch } = x)
    (hc : ∀ x i, i ≠ st.cell * 16 + st.k % 16 → mget (f x).ctxs i = mget x.ctxs i)
    (hs : ∀ x o, ¬put (o / 8) → scratchAt (f x) o = scratchAt x o) :
    StepKeeps s (modArr s (aryKey st.die st.array) f) st put where
  rest := rfl
  quiet _ := ⟨rfl, rfl, rfl⟩
  arrays a h := arrAt_setArr_other _ _ h
  array := by simp only [modArr, arrAt_setArr_self]; exact ha _
  ctxs i h := by simp only [modArr, arrAt_setArr_self]; exact hc _ i h
  scratch o h := by simp only [modArr, arrAt_setArr_self]; exact hs _ o h
  regs _ _ _ _ _ := rfl

/-- A change of the issuing context. -/
theorem of_modCtx (s : State) (f : Ctx → Ctx) : StepKeeps s (modCtx s (aryKey st.die st.array) st.cell (st.k % 16) f) st put :=
  of_modArr s (fun _ => rfl) (fun _ _ h => mget_mmod_other _ _ h) (fun _ _ _ => rfl)

/-- A change of one of the array's counters. -/
theorem of_setField (s : State) {a : Nat} (lo w v : Nat)
    (h : a = Reg.ARY_ISSUE st.die st.array ∨ a = Reg.ARY_BUBBLE st.die st.array ∨ a = Reg.ARY_STALL st.die st.array) :
    StepKeeps s (setField s a lo w v) st put where
  rest := rfl
  quiet _ := ⟨rfl, rfl, rfl⟩
  arrays _ _ := rfl
  array := rfl
  ctxs _ _ := rfl
  scratch _ _ := rfl
  regs b hi hb hs _ := reg_setField_other s lo w v (by rcases h with rfl | rfl | rfl <;> assumption)

/-- A free value taken. -/
theorem of_freeVal (s : State) : StepKeeps s (freeVal s).2 st put :=
  ⟨rfl, fun _ => ⟨rfl, rfl, rfl⟩, fun _ _ => rfl, rfl, fun _ _ => rfl, fun _ _ => rfl, fun _ _ _ _ _ => rfl⟩

/-- The outcome of one scratch check of the site. -/
theorem of_scratchEcc (s : State) {e : Ecc} (hw : st.wf = true) (he : e ∈ st.ecc) :
    StepKeeps s (scratchEcc s (aryKey st.die st.array) e) st put := by
  have hdie := aryKey_div hw
  have dirty : e ≠ .clean → ¬∀ x ∈ st.ecc, x = .clean := fun hc h => hc (h e he)
  cases e with
  | clean => exact refl ..
  | corrected =>
    exact ⟨rfl, fun h => absurd h (dirty nofun), fun _ _ => rfl, rfl, fun _ _ => rfl, fun _ _ => rfl, fun a _ _ _ h =>
      reg_bump_other s _ _ _ (by rw [hdie]; exact (h.resolve_left (dirty nofun)).1)⟩
  | uncorrectable =>
    rw [scratchEcc]
    have herr : ∀ a, a ≠ Reg.ARY_ERR_0 st.die → a ≠ Reg.ARY_ERR_1 st.die → reg (aryErr s (aryKey st.die st.array)) a = reg s a := by
      intro a h0 h1
      unfold aryErr
      dsimp only
      rw [hdie]
      split
      · exact reg_setRegBit_other s _ h0
      · exact reg_setRegBit_other s _ h1
    have harr : (aryErr s (aryKey st.die st.array)).arrays = s.arrays := by unfold aryErr; dsimp only; split <;> rfl
    have hrest : { aryErr s (aryKey st.die st.array) with regs := s.regs } = s := by unfold aryErr; dsimp only; split <;> rfl
    generalize aryErr s (aryKey st.die st.array) = u at *
    have hat : ∀ k, arrAt (raiseIf u (Reg.ARY_CTRL (aryKey st.die st.array / 96)) 3 0x0011 (aryKey st.die st.array)) k = arrAt s k := by
      intro k; simp [arrAt, harr]
    refine ⟨?_, fun h => absurd h (dirty nofun), fun a _ => hat a, ?_, ?_, ?_, ?_⟩
    · have h2 := raiseIf_frame u (Reg.ARY_CTRL (aryKey st.die st.array / 96)) 3 0x0011 (aryKey st.die st.array)
      have h3 := congrArg (fun x : State => { x with arrays := s.arrays, freeCtr := s.freeCtr, cmd := s.cmd, outbox := s.outbox, pci := s.pci }) hrest
      exact (congrArg (fun x : State => { x with arrays := s.arrays, regs := s.regs, freeCtr := s.freeCtr, cmd := s.cmd, outbox := s.outbox, pci := s.pci }) h2).trans h3
    · simp only [hat]
    · intro i _; simp only [hat]
    · intro o _; simp only [hat]
    · intro a _ _ _ h
      obtain ⟨-, h0, h1⟩ := h.resolve_left (dirty nofun)
      rw [← herr a h0 h1]
      simp [reg]

/-! ### Shared operations of an issue -/

theorem of_wideOf (s : State) (v : Opnd) : StepKeeps s (wideOf s v).2 st put := by
  unfold wideOf
  split
  · exact refl ..
  · exact of_freeVal s

theorem of_slotAt (s : State) (k cell : Nat) : StepKeeps s (modArr s (aryKey st.die st.array) fun a => a.slotAt k cell) st put :=
  of_modArr s (fun _ => rfl) (fun _ _ _ => rfl) fun _ _ _ => rfl

theorem of_stepFlags {t : Tile} {x : Ctx} {va vb : Opnd} (s : State) (f : Flags) : StepKeeps s (stepFlags (issueOf st t x va vb) f s) st put :=
  (of_modCtx s _).trans (of_modArr _ (fun _ => rfl) (fun _ _ _ => rfl) fun _ _ _ => rfl)

theorem of_sendLink (s : State) (cell k : Nat) (south : Bool) (v : Opnd) :
    StepKeeps s (sendLink s (aryKey st.die st.array) cell k south v) st put := by
  unfold sendLink
  extract_lets i j edge dest at_ _ r
  have hr : StepKeeps s r.2 st put := by
    unfold r
    split
    · exact (of_freeVal s).trans (of_wideOf _ _)
    · exact of_wideOf _ _
  exact hr.trans (of_modArr _ (fun _ => rfl) (fun _ _ _ => rfl) fun _ _ _ => rfl)

/-- A store of the one scratch word that the step may change. -/
theorem of_setScratch (s : State) (o : Nat) (v : PWord) (p : Arr → Bool) (h : put (o / 8)) :
    StepKeeps s (modArr s (aryKey st.die st.array) fun a => { (setScratch a o v) with wrotePoison := p a }) st put :=
  of_modArr s (fun _ => rfl) (fun _ _ _ => rfl) fun y _ hx => scratchAt_setScratch_other y v fun e => hx (e ▸ h)

section
variable (hw : st.wf = true)
include hw

theorem of_bump_stall (s : State) (n : Nat) :
    StepKeeps s (bump s (Reg.ARY_STALL (aryKey st.die st.array / 96) (aryKey st.die st.array % 96)) 32 32 n) st put :=
  of_setField s _ _ _ (.inr (.inr (by rw [aryKey_div hw, aryKey_mod hw])))

theorem of_useBank (s : State) (k port place o : Nat) : StepKeeps s (useBank s (aryKey st.die st.array) k port place o) st put := by
  unfold useBank
  extract_lets a old here new r n
  have h1 : StepKeeps s (setField s r 32 32 (min n (2 ^ 32 - 1))) st put :=
    of_setField s _ _ _ (.inr (.inr (by unfold r; rw [aryKey_div hw, aryKey_mod hw])))
  exact h1.trans (of_modArr (f := fun a => { a with portK := k, ports := new }) _ (fun _ => rfl) (fun _ _ _ => rfl) fun _ _ _ => rfl)

theorem of_useFeeder (s : State) (t : Tile) (x : Ctx) (cell k step sel : Nat) :
    StepKeeps s (useFeeder s t x (aryKey st.die st.array) cell k step sel) st put := by
  unfold useFeeder
  split
  · exact of_useBank hw ..
  · exact refl ..

theorem of_driveBus (s : State) (cell k bus : Nat) (v : Opnd) :
    StepKeeps s (driveBus s (aryKey st.die st.array) cell k bus v) st put := by
  unfold driveBus
  extract_lets r b s1 a _ put'
  have h1 : StepKeeps s s1 st put := of_wideOf s v
  have hp : ∀ u, StepKeeps u (modArr u (aryKey st.die st.array) put') st put := fun u =>
    of_modArr u (fun _ => rfl) (fun _ _ _ => rfl) fun _ _ _ => rfl
  split
  · split
    · split
      · exact h1.trans ((of_bump_stall hw s1 1).trans (hp _))
      · exact h1.trans (of_bump_stall hw s1 1)
    · exact h1.trans (hp _)
  · exact h1.trans (hp _)

theorem of_bubble (s : State) : StepKeeps s (bubble s (aryKey st.die st.array) st.cell st.k) st put :=
  (of_modCtx s _).trans (of_setField _ _ _ _ (.inr (.inl (by rw [aryKey_div hw, aryKey_mod hw]))))

theorem of_checks (s : State) : StepKeeps s (st.ecc.foldl (fun s e => scratchEcc s (aryKey st.die st.array) e) s) st put := by
  have key : ∀ es : List Ecc, (∀ e ∈ es, e ∈ st.ecc) → ∀ s, StepKeeps s (es.foldl (fun s e => scratchEcc s (aryKey st.die st.array) e) s) st put := by
    intro es
    induction es with
    | nil => exact fun _ s => refl ..
    | cons e es ih =>
      exact fun h s => (of_scratchEcc s hw (h e List.mem_cons_self)).trans (ih (fun x hx => h x (List.mem_cons_of_mem _ hx)) _)
  exact key _ (fun _ h => h) s

theorem of_issueState (s : State) (op : Nat) (t : Tile) (x : Ctx) (va vb : Opnd) : StepKeeps s (issueState s st op t x va vb) st put := by
  unfold issueState
  extract_lets arr w step s1 e1 e2 s3 s4 s5
  have h1 : StepKeeps s s1 st put := of_modArr s (fun _ => rfl) (fun _ _ _ => rfl) fun _ _ _ => rfl
  have h2 : StepKeeps s1 e1 st put := by
    unfold e1; split
    · exact of_useFeeder hw ..
    · exact refl ..
  have h3 : StepKeeps e1 e2 st put := by
    unfold e2; split
    · exact of_useFeeder hw ..
    · exact refl ..
  have h4 : StepKeeps e2 s4 st put :=
    ((of_checks hw e2).trans (of_modCtx _ _)).trans (of_setField _ _ _ _ (.inl rfl))
  have h5 : StepKeeps s4 s5 st put := by
    unfold s5; split
    · exact of_sendLink ..
    · exact refl ..
  refine h1.trans (h2.trans (h3.trans (h4.trans (h5.trans ?_))))
  split
  · exact of_sendLink ..
  · exact refl ..

theorem of_sendFrom (s : State) (cell step k : Nat) (v : Opnd) : StepKeeps s (sendFrom (aryKey st.die st.array) cell step k v s) st put := by
  unfold sendFrom
  extract_lets s1 s2
  have h1 : StepKeeps s s1 st put := by
    unfold s1; split
    · exact of_sendLink ..
    · exact refl ..
  have h2 : StepKeeps s1 s2 st put := by
    unfold s2; split
    · exact of_sendLink ..
    · exact refl ..
  refine h1.trans (h2.trans ?_)
  split
  · exact of_driveBus hw ..
  · exact refl ..

variable {t : Tile} {x : Ctx} {va vb : Opnd}

theorem of_result64 (s : State) (v : Nat) (p : Bool) (f : Flags) : StepKeeps s (result64 (issueOf st t x va vb) v p f s) st put :=
  ((of_modCtx s _).trans (of_stepFlags _ f)).trans (of_sendFrom hw ..)

theorem of_result128 (s : State) (v : Opnd) (p q : Bool) : StepKeeps s (result128 (issueOf st t x va vb) v p q s) st put :=
  ((of_wideOf s v).trans (of_modCtx _ _)).trans (of_sendFrom hw ..)

/-- The slot of a step keeps what its effect keeps. -/
theorem of_issueSlot (s : State) (op : Nat) {act : Issue → State → State}
    (h : ∀ t x va vb, (arrAt s (aryKey st.die st.array)).active = some t →
      mget (arrAt s (aryKey st.die st.array)).ctxs (st.cell * 16 + st.k % 16) = some x →
      ∀ u, StepKeeps u (act (issueOf st t x va vb) u) st put) :
    StepKeeps s (issueSlot s st op act) st put := by
  unfold issueSlot
  extract_lets arr a late
  split
  · rename_i t x _ ht hx
    have hl : StepKeeps s late st put := (of_slotAt s _ _).trans (of_bubble hw _)
    split
    · exact refl ..
    · split
      · exact hl
      · split
        · exact (of_issueState hw s op t x _ _).trans (h t x _ _ ht hx _)
        · exact hl
  · exact refl ..

/-! ### The effects of the steps -/

theorem of_cvtOp (s : State) : StepKeeps s (cvtOp (issueOf st t x va vb) s) st put := by
  unfold cvtOp
  extract_lets
  split
  · exact (of_freeVal s).trans (of_result64 hw ..)
  · split
    · exact (of_freeVal s).trans (of_result64 hw ..)
    · exact of_result64 hw ..

theorem of_bencOp (s : State) : StepKeeps s (bencOp (issueOf st t x va vb) s) st put := by
  unfold bencOp
  extract_lets
  split
  · exact (of_freeVal s).trans (of_result64 hw ..)
  · split
    · exact (of_freeVal s).trans (of_result64 hw ..)
    · exact ((of_modCtx s _).trans (of_stepFlags _ _)).trans (of_sendFrom hw ..)

end

end StepKeeps

/-- The recipe steps that act on registers or read scratch keep everything else. -/
theorem exec_arrayStep_keeps {s t : State} {st : Site} (hw : st.wf = true) :
    ∀ c ∈ [Instr.nop st, .dot st, .add st, .mul st, .fma st, .max st, .min st, .exp2 st, .rsqrt st, .recip st, .mov st, .cvt st,
      .benc st, .ld st], exec c s = .next t → StepKeeps s t st fun _ => False := by
  have slot : ∀ {op act}, Host.Outcome.next (issueSlot s st op act) = (.next t : Host.Outcome State Fault Refusal) →
      (∀ t x va vb u, StepKeeps u (act (issueOf st t x va vb) u) st fun _ => False) → StepKeeps s t st fun _ => False := by
    intro op act he ha
    cases he
    exact .of_issueSlot hw s op fun t x va vb _ _ u => ha t x va vb u
  simp only [List.forall_mem_cons, List.not_mem_nil, false_imp_iff, implies_true, and_true]
  refine ⟨?nop, ?dot, ?add, ?mul, ?fma, ?max, ?min, ?exp2, ?rsqrt, ?recip, ?mov, ?cvt, ?benc, ?ld⟩
  case nop => exact fun h => slot h fun _ _ _ _ u => .refl u st _
  case mov => exact fun h => slot h fun _ _ _ _ u => .of_result128 hw u _ _ _
  case cvt => exact fun h => slot h fun _ _ _ _ u => .of_cvtOp hw u
  case benc => exact fun h => slot h fun _ _ _ _ u => .of_bencOp hw u
  case ld => exact fun h => slot h fun _ _ _ _ u => (StepKeeps.of_useBank hw u _ _ _ _).trans (.of_result128 hw _ _ _ _)
  all_goals exact fun h => slot h fun _ _ _ _ u => .of_result64 hw u _ _ _

/-- The step of a context of a running tile. -/
theorem nextStep_eq {s : State} {st : Site} {t : Tile} {x : Ctx} (ht : (arrAt s (aryKey st.die st.array)).active = some t)
    (hx : mget (arrAt s (aryKey st.die st.array)).ctxs (st.cell * 16 + st.k % 16) = some x) :
    nextStep s st = some (arrAt s (aryKey st.die st.array), t, x, rStep (t.word st.cell) x.step) := by
  simp only [nextStep, ht, hx]

/-- A store of the scratch word that the step's binding gives keeps all but that word. -/
theorem exec_st_keeps {s t : State} {st : Site} (hw : st.wf = true) (h : exec (.st st) s = .next t) :
    StepKeeps s t st fun w => ∃ a tl x step, nextStep s st = some (a, tl, x, step) ∧ w = storeOff st tl x step / 8 := by
  change execSt st s = .next t at h
  unfold execSt at h
  extract_lets addr at h
  split at h
  · rename_i a tl x step hn
    split at h
    · cases h
      exact (StepKeeps.of_modArr s (fun y => by dsimp only; split <;> rfl) (fun y _ _ => by dsimp only; split <;> rfl) fun y _ _ => by dsimp only; split <;> rfl).trans
        (.of_setField _ _ _ _ (.inr (.inr rfl)))
    · cases h
      exact .of_issueSlot hw s _ fun t2 x2 va vb ht hx u => (StepKeeps.of_useBank hw u _ _ _ _).trans
        (.of_setScratch _ _ _ _ ⟨_, t2, x2, _, nextStep_eq ht hx, rfl⟩)
  · cases h
    exact .refl ..

/-- Settles O56: each effect of an issued step is a chain of operations that keep the rest. -/
theorem stepFrame : Obligations.StepFrame :=
  fun _ _ _ hw => ⟨exec_arrayStep_keeps hw, exec_st_keeps hw⟩

end Sys2Proof.Machine
end

section
/-!
SUPPORT. Every command of the stacks, the trowels, the reducers and the arrays' own steps keeps the canonical form of the
stacks' memory: one lemma per command, over the operations that it is made of.
-/
namespace Sys2Proof.Machine

/-- Every next state of an outcome has its memory in canonical form. -/
def nextMemOk (o : Host.Outcome State Fault Refusal) : Prop := ∀ t, o = .next t → memOk t

theorem nextMemOk_next {t : State} (h : memOk t) : nextMemOk (.next t) := fun _ e => by cases e; exact h

section
variable {s : State} (h : memOk s)
include h

/-! ### Stacks -/

theorem execBankAccess_memOk (source issuer : Nat) (write : Bool) (dpa len : Nat) (data : List Byte) (poison : Bool) (flips : List Flip) :
    nextMemOk (execBankAccess source issuer write dpa len data poison flips s) := by
  unfold execBankAccess
  split
  · exact nextMemOk_next h
  · dsimp only
    split
    · exact nextMemOk_next (joinBank_memOk _ _ (flipBits_memOk _ h))
    · exact nextMemOk_next (serveBank_memOk _ _ (flipBits_memOk _ h))

theorem postpone_memOk (k b : Nat) : memOk (postpone s k b) := by
  unfold postpone
  split
  · exact setPostponed_memOk _ _ _ h
  · exact lateRefresh_memOk _ _ h

theorem execRefresh_memOk (stack die bank : Nat) : nextMemOk (execRefresh stack die bank s) := by
  unfold execRefresh
  split
  · exact nextMemOk_next h
  · dsimp only
    split
    · exact nextMemOk_next h
    · split
      · split
        · exact nextMemOk_next (takeRefresh_memOk h ‹_›)
        · exact nextMemOk_next (postpone_memOk h _ _)
      · split
        · exact nextMemOk_next (postpone_memOk h _ _)
        · exact nextMemOk_next (lateRefresh_memOk _ _ (setPostponed_memOk _ _ _ h))

theorem execMergeWindowClose_memOk (stack : Nat) (flips : List Flip) : nextMemOk (execMergeWindowClose stack flips s) := by
  have h1 := flipBits_memOk flips h
  unfold execMergeWindowClose
  dsimp only
  split
  · exact nextMemOk_next h1
  · split
    · exact nextMemOk_next h1
    · exact nextMemOk_next (closeEntry_memOk _ h1)

theorem execScrubVisit_memOk (stack : Nat) (flips : List Flip) : nextMemOk (execScrubVisit stack flips s) := by
  have h1 := flipBits_memOk flips h
  unfold execScrubVisit
  dsimp only
  split
  · exact nextMemOk_next h1
  · exact nextMemOk_next (scrubDue_memOk _ _ (modStack_memOk _ _ h1))

theorem writeScrubCtrl_memOk (k v : Nat) : memOk (writeScrubCtrl s k v) := by
  unfold writeScrubCtrl
  dsimp only
  split
  · exact setRegBit_memOk _ _ h
  · exact plainWrite_memOk _ _ h

theorem writeStkCtrl_memOk (k v : Nat) : memOk (writeStkCtrl s k v) := by
  have h1 := plainWrite_memOk (Reg.STK_CTRL k) v h
  unfold writeStkCtrl
  dsimp only
  split
  · exact setField_memOk _ _ _ _ (zeroRegs_memOk _ h1)
  · exact h1

theorem faultStack_memOk (k : Nat) : memOk (faultStack s k) :=
  raiseEvent_memOk _ _ (setRegBit_memOk _ _ (endStackCmds_memOk _ _ (modStack_memOk _ _ h)))

/-- A command that an index beyond the module's stacks leaves without effect. -/
theorem ofStack_memOk {k : Nat} {t : State} (ht : memOk t) : nextMemOk (if stackCount s ≤ k then .next s else .next t) := by
  split
  · exact nextMemOk_next h
  · exact nextMemOk_next ht

/-! ### Trowels -/

theorem execTrwEnd_memOk (x : TSite) : nextMemOk (execTrwEnd x s) := by
  refine nextMemOk_next (xStep_memOk _ _ _ h fun c _ => ?_)
  split
  · exact h
  · dsimp only
    split
    · exact endDone_memOk _ (modCmd_memOk _ _ h)
    · split
      · exact endKilled_memOk _ _ h
      · exact endDone_memOk _ (modCmd_memOk _ _ h)

theorem execSpanExpiry_memOk (x : TSite) : nextMemOk (execSpanExpiry x s) := by
  unfold execSpanExpiry
  dsimp only
  split
  · split
    · exact nextMemOk_next (endKilled_memOk _ _ h)
    · exact nextMemOk_next h
  · exact nextMemOk_next h

theorem execChannelWindow_memOk (x : TSite) (b : Nat) : nextMemOk (execChannelWindow x b s) := by
  unfold execChannelWindow
  split
  · dsimp only
    split
    · exact nextMemOk_next h
    · exact nextMemOk_next (markHead_memOk _ _ _ (modCmd_memOk _ _ (serveHead_memOk h ‹_›)))
  · exact nextMemOk_next h

theorem execTrowelClusterDisable_memOk (stack die : Nat) : nextMemOk (execTrowelClusterDisable stack die s) := by
  unfold execTrowelClusterDisable
  split
  · exact nextMemOk_next h
  · extract_lets s1 s2
    have h2 : memOk s2 := loopN_memOk _ _ (fun _ _ h => disableTrowel_memOk _ h) (modStack_memOk _ _ h)
    split
    · exact nextMemOk_next (lostWork_memOk h2)
    · exact nextMemOk_next h2

theorem execTrowelLaunch_memOk (x : TSite) : nextMemOk (execTrowelLaunch x s) := by
  unfold execTrowelLaunch
  dsimp only
  split
  · exact nextMemOk_next h
  · split
    · exact nextMemOk_next (startCmd_memOk _ _ h)
    · split
      · exact nextMemOk_next h
      · split
        · exact nextMemOk_next (startCmd_memOk _ _ (beginItem_memOk _ h))
        · exact nextMemOk_next (launchPlan_memOk _ _ _ _ h)
        · exact nextMemOk_next h

/-! ### Reducers -/

theorem jobRow_memOk (k kind : Nat) (w : W64) : memOk (jobRow s k kind w) := by
  unfold jobRow
  split
  · exact h
  · unfold writeJob
    dsimp only
    split
    · exact h
    · split
      · exact setRegBit_memOk _ _ h
      · split
        · exact setRegBit_memOk _ _ h
        · exact setReducer_memOk _ _ h

theorem execReducerJobStart_memOk (k : Nat) : nextMemOk (execReducerJobStart k s) := by
  have h1 := planJob_memOk k h
  unfold execReducerJobStart
  dsimp only
  split
  · split
    · exact nextMemOk_next (setReducer_memOk _ _ h1)
    · exact nextMemOk_next h1
  · exact nextMemOk_next h1

theorem execReducerJobDone_memOk (k : Nat) : nextMemOk (execReducerJobDone k s) := by
  unfold execReducerJobDone
  dsimp only
  split
  · exact nextMemOk_next h
  · have h2 : ∀ {b : Bool} {u : State}, memOk u → memOk (if b then setRegBit u (Reg.STK_RDC_ERR k) 0 else u) := by
      intro b u hu
      split
      · exact setRegBit_memOk _ _ hu
      · exact hu
    split
    · exact nextMemOk_next (runFlags_memOk _ _ (itemDone_memOk _ (h2 (bump_memOk _ _ _ _ (setReducer_memOk _ _ h)))))
    · exact nextMemOk_next (h2 (bump_memOk _ _ _ _ (setReducer_memOk _ _ h)))

/-! ### Arrays -/

/-- A step that keeps everything but arrays and registers keeps the memory. -/
theorem StepKeeps.memOk {t : State} {st : Site} {put : Nat → Prop} (hk : StepKeeps s t st put) : memOk t :=
  memOk_mem (show t.mem = s.mem from (congrArg State.mem hk.rest :)) h

theorem arrayStep_memOk {st : Site} (hw : st.wf = true) :
    ∀ c ∈ [Instr.nop st, .dot st, .add st, .mul st, .fma st, .max st, .min st, .exp2 st, .rsqrt st, .recip st, .mov st, .cvt st,
      .benc st, .ld st], nextMemOk (exec c s) :=
  fun c hc _ e => StepKeeps.memOk h (exec_arrayStep_keeps hw c hc e)

theorem execSt_memOk {st : Site} (hw : st.wf = true) : nextMemOk (exec (.st st) s) :=
  fun _ e => StepKeeps.memOk h (exec_st_keeps hw e)

/-! ### Every command near the memory -/

theorem exec_nearMemory_memOk {c : Instr} (hw : c.wf = true) (hn : nearMemory c = true) : nextMemOk (exec c s) := by
  cases c
  case bankAccess => exact execBankAccess_memOk h _ _ _ _ _ _ _ _
  case refresh => exact execRefresh_memOk h _ _ _
  case mergeWindowClose => exact execMergeWindowClose_memOk h _ _
  case scrubVisit => exact execScrubVisit_memOk h _ _
  case stkScrubCtrl => exact ofStack_memOk h (writeScrubCtrl_memOk h _ _)
  case stkClrCounters => exact ofStack_memOk h (writeStkCtrl_memOk h _ _)
  case stackFault => exact ofStack_memOk h (faultStack_memOk h _)
  case trwStart | trwKill | trwClrCounters => exact nextMemOk_next (writeTrwCtrl_memOk _ _ h)
  case trowelLaunch => exact execTrowelLaunch_memOk h _
  case trwXNop | trwSetp | trwAddp => exact nextMemOk_next (simpleX_memOk _ _ _ h)
  case trwOpen t flips =>
    have h1 := flipBits_memOk flips h
    exact nextMemOk_next (xStep_memOk _ _ _ h1 fun _ _ => openRow_memOk _ _ _ h1)
  case trwStream => exact nextMemOk_next (xStep_memOk _ _ _ h fun _ _ => streamBeat_memOk _ _ _ h)
  case trwLoadq => exact nextMemOk_next (xStep_memOk _ _ _ h fun _ _ => loadQ_memOk _ _ _ h)
  case trwStore => exact nextMemOk_next (xStep_memOk _ _ _ h fun _ _ => storeLanes_memOk _ _ _ h)
  case trwCommit => exact nextMemOk_next (xStep_memOk _ _ _ h fun _ _ => commitOp_memOk _ _ _ h)
  case trwLoop => exact nextMemOk_next (xStep_memOk _ _ _ h fun _ _ => loopOp_memOk _ _ _ h)
  case trwEnd => exact execTrwEnd_memOk h _
  case trwWiden => exact nextMemOk_next (widenOp_memOk _ h)
  case trwCNop | trwMac | trwMacs | trwMacb | trwShift | trwCMax | trwCAdd | trwZero | trwMova => exact nextMemOk_next (cStep_memOk _ _ _ h)
  case spanExpiry => exact execSpanExpiry_memOk h _
  case heldResume => exact nextMemOk_next (heldResume_memOk _ h)
  case channelWindow => exact execChannelWindow_memOk h _ _
  case trowelClusterDisable => exact execTrowelClusterDisable_memOk h _ _
  case rdcSum | rdcMax | rdcSoftmax | rdcMerge | rdcNorm | rdcRms => exact nextMemOk_next (jobRow_memOk h _ _ _)
  case reducerJobStart => exact execReducerJobStart_memOk h _
  case reducerJobDone => exact execReducerJobDone_memOk h _
  case nop | dot | add | mul | fma | max | min | exp2 | rsqrt | recip | mov | cvt | benc | ld => exact arrayStep_memOk h hw _ (by simp)
  case st => exact execSt_memOk h hw
  all_goals exact absurd hn Bool.false_ne_true

end

/-- Settles O58: a step on a waiting command is `exec` of it, and every operation that such a command is made of keeps the form. -/
theorem memoryCanonical : Obligations.MemoryCanonical := by
  intro s t c rest hp hw hn hm hs
  have h0 : memOk { s with pending := rest } := hm
  unfold steps step at hs
  rw [hp] at hs
  exact exec_nearMemory_memOk h0 hw hn t hs

end Sys2Proof.Machine
end

section
/-!
SUPPORT. No command stops the block: every branch of every command answers a next state.
-/
namespace Sys2Proof.Machine

/-- What follows a command does not stop it. -/
theorem andThen_next {o : Host.Outcome State Fault Refusal} (f : State → State) (h : ∃ t, o = .next t) : ∃ t, andThen o f = .next t := by
  obtain ⟨t, rfl⟩ := h
  exact ⟨f t, rfl⟩

theorem ite_next {p : Prop} [Decidable p] {a b : Host.Outcome State Fault Refusal} (ha : ∃ t, a = .next t) (hb : ∃ t, b = .next t) :
    ∃ t, (if p then a else b) = .next t := by
  split
  · exact ha
  · exact hb

theorem skimService_next (stack channel : Nat) (flips : List Flip) (s : State) : ∃ t, skimService stack channel flips s = .next t := by
  unfold skimService
  extract_lets mine key
  split
  · exact ⟨_, rfl⟩
  · split <;> exact ⟨_, rfl⟩

/-- Packets answer by `command_next`; a row whose branches are plain answers by going through them, chapter by chapter; a row
that changes the state in one way answers at once. -/
theorem exec_next (c : Instr) (s : State) : ∃ t, exec c s = .next t := by
  cases c
  case queueDelete | eventWait => exact andThen_next _ (command_next _ _ _ _ _)
  case skimChannelService => exact andThen_next _ (skimService_next _ _ _ _)
  case sensorSample => exact ite_next ⟨_, rfl⟩ ⟨_, rfl⟩
  case flitReceive =>
    exact ite_next ⟨_, rfl⟩ (ite_next ⟨_, rfl⟩ (ite_next ⟨_, rfl⟩ (ite_next ⟨_, rfl⟩ (ite_next ⟨_, rfl⟩ (ite_next ⟨_, rfl⟩ ⟨_, rfl⟩)))))
  case autoEvict | packetFetch | registerWrite =>
    dsimp only [exec, execAutoEvict, execPacketFetch, execRegisterWrite]
    repeat' split
    all_goals exact ⟨_, rfl⟩
  case st | screedReturn | fenceDone | tileEnd | activationStrobe | rampStep | shadowLoaded | prefetchDone | drainDone | stopRequest
    | heldRelease | tileWatchdog | clusterClockLoss =>
    dsimp only [exec, execSt, execScreedReturn, execFenceDone, execTileEnd, execActivationStrobe, execRampStep, execShadowLoaded,
      execPrefetchDone, execDrainDone, execStopRequest, execHeldRelease, execTileWatchdog, execClusterClockLoss]
    repeat' split
    all_goals exact ⟨_, rfl⟩
  case sliceAccess | lineFill | writebackDone | atomicPerform | commitNotice | maintDone =>
    dsimp only [exec, execSliceAccess, execLineFill, execWritebackDone, execAtomicPerform, execCommitNotice, execMaintDone]
    repeat' split
    all_goals exact ⟨_, rfl⟩
  case bankAccess | refresh | mergeWindowClose | scrubVisit | controlSpaceAccess | stkScrubCtrl | stkClrCounters | stackFault =>
    dsimp only [exec, execBankAccess, execRefresh, execMergeWindowClose, execScrubVisit, execControlSpaceAccess, execStkScrubCtrl,
      execStkClrCounters, execStackFault]
    repeat' split
    all_goals exact ⟨_, rfl⟩
  case trowelLaunch | spanExpiry | channelWindow | trowelClusterDisable | reducerJobStart | reducerJobDone =>
    dsimp only [exec, execTrowelLaunch, execSpanExpiry, execChannelWindow, execTrowelClusterDisable, execReducerJobStart, execReducerJobDone]
    repeat' split
    all_goals exact ⟨_, rfl⟩
  case bellFrame | frameTimeout | epochStart | manifestAdmit | waystationRelease | arrivalRelease | waystationMiss | resume
    | resumeTimeout | phaseStart | schedSlot =>
    dsimp only [exec, execBellFrame, execFrameTimeout, execEpochStart, execManifestAdmit, execWaystationRelease, execArrivalRelease,
      execWaystationMiss, execResume, execResumeTimeout, execPhaseStart, execSchedSlot]
    repeat' split
    all_goals exact ⟨_, rfl⟩
  case emit | recode | sampleRow | stencilRow | adapterLoadDone =>
    dsimp only [exec, execEmit, execRecode, execSampleRow, execStencilRow, execAdapterLoadDone]
    repeat' split
    all_goals exact ⟨_, rfl⟩
  case portEnable | trainRetry | equalize | align | delay | trainingTimeout | linkLoss | controlFlit | fabForward
    | escapeTimeout | routeWaitTimeout | bulkResponseTimeout | helloTimer =>
    dsimp only [exec, execPortEnable, execTrainRetry, execEqualize, execAlign, execDelay, execTrainingTimeout, execLinkLoss,
      execControlFlit, execFabForward, execEscapeTimeout, execRouteWaitTimeout, execBulkResponseTimeout, execHelloTimer]
    repeat' split
    all_goals exact ⟨_, rfl⟩
  case fabWrite | fabWack | fabRead | fabReadResp | fabAtomic | fabAtomicResp | fabTree | fabLeave =>
    dsimp only [exec, execFabWrite, execFabWack, execFabRead, execFabReadResp, execFabAtomic, execFabAtomicResp, execFabTree, execFabLeave]
    repeat' split
    all_goals exact ⟨_, rfl⟩
  case mgmtHello | mgmtRead | mgmtWrite | mgmtResp | mgmtNotice | mgmtClaim =>
    dsimp only [exec, execMgmtHello, execMgmtRead, execMgmtWrite, execMgmtResp, execMgmtNotice, execMgmtClaim]
    repeat' split
    all_goals exact ⟨_, rfl⟩
  case bar2Read | bar2Write | atomicop | flrVf | vfEnable | vectorUnmask | pciVfXlat | bar2Resize | completionTimeout =>
    dsimp only [exec, execBar2Read, execBar2Write, execAtomicop, execFlrVf, execVfEnable, execVectorUnmask, execPciVfXlat,
      execBar2Resize, execCompletionTimeout]
    repeat' split
    all_goals exact ⟨_, rfl⟩
  case deferredFlashWrite | lowFlow | inputLoss | inputLossEnd | holdupOkChange =>
    dsimp only [exec, execDeferredFlashWrite, execLowFlow, execInputLoss, execInputLossEnd, execHoldupOkChange]
    repeat' split
    all_goals exact ⟨_, rfl⟩
  case pop | alarmPush | counterSample | incidentFreeze =>
    dsimp only [exec, execPop, execAlarmPush, execCounterSample, execIncidentFreeze]
    repeat' split
    all_goals exact ⟨_, rfl⟩
  case bootStart | hubUp | retained | blob | image | signState | nextTreeBuild | doeDiscovery | caravanFormTimeout =>
    dsimp only [exec, execBootStart, execHubUp, execRetained, execBlob, execImage, execSignState, execNextTreeBuild, execDoeDiscovery,
      execCaravanFormTimeout]
    repeat' split
    all_goals exact ⟨_, rfl⟩
  case deviceIdentify | deviceInit | deviceQuiesce | deviceResume | deviceReset | powerSet | maintEnter | maintExit
    | queueCreate | contextCreate | contextDestroy | contextPolicy | contextPreempt | contextResume | contextSwap | dmaSubmit
    | memFill | screedMaint | retire | retireList | retireClear | reloadRange | release | itinLoad | itinUnload | itinRun
    | caravanForm | caravanDisband | step | prefixHash | prefixLookup | pageAlloc | pageRef | pageFree | pageRead | pageWrite
    | blockTableRead | tenantSet | modelLoad | modelUnload | adapterLoad | adapterFree | grammarLoad | grammarFree
    | fabricManage | fabricRelease | fabricWrite | fabricMgmt | logDrain | telemetryRead | attest | fwStage | fwActivate
    | signStatus =>
    exact command_next _ _ _ _ _
  all_goals exact ⟨_, rfl⟩

/-- Settles O52: no row stops, and neither does the step on an empty queue. -/
theorem neverStops : Obligations.NeverStops := by
  refine ⟨exec_next, fun s => ?_⟩
  unfold steps step
  split
  · exact ⟨_, rfl⟩
  · exact exec_next _ _

end Sys2Proof.Machine
end

section
/-!
SUPPORT. Writes of registers by their access codes (R11, R13): the fields of every register lie apart in its 64 bits, and so
each bit of a written register follows the code of its own field.
-/
namespace Sys2Proof.Machine

/-! ### The register tables -/

/-- The blocks of the register map. -/
def regBlocks : List (List RegDef) :=
  [regsHUB, regsPCI, regsDMA, regsITN, regsFAB, regsLDG, regsPFX, regsSMP, regsSTN, regsDEP, regsPWR, regsTHM, regsCOL, regsHLD,
   regsAGE, regsSEC, regsMOD, regsARY, regsSCD, regsSKM, regsSTK, regsTRW, regsRDC, []]

theorem blockAt_mem (a : Nat) : (blockAt a).1 ∈ regBlocks := by
  unfold blockAt
  dsimp only
  repeat' split
  all_goals simp [regBlocks]

/-- Fields with their bits apart, all below bit 64. -/
def fieldsApart (fs : List RField) : Bool :=
  fs.all (fun f => decide (f.hi < 64)) && decide (fs.Pairwise fun f g => f.hi < g.lo ∨ g.hi < f.lo)

theorem regBlocks_apart : ∀ b ∈ regBlocks, ∀ d ∈ b, fieldsApart d.fields = true := by decide +kernel

theorem fieldsApart_of_regAt {a : Nat} {d : RegDef} (h : regAt a = some d) : fieldsApart d.fields = true :=
  regBlocks_apart _ (blockAt_mem a) d (List.mem_of_find?_eq_some h)

theorem fieldsApart_lt {fs : List RField} (h : fieldsApart fs = true) {f : RField} (hf : f ∈ fs) : f.hi < 64 := by
  simp only [fieldsApart, Bool.and_eq_true, List.all_eq_true, decide_eq_true_eq] at h
  exact h.1 f hf

/-- Of fields apart, one only holds a bit. -/
theorem fieldsApart_unique {fs : List RField} (h : fieldsApart fs = true) {f g : RField} (hf : f ∈ fs) (hg : g ∈ fs) {i : Nat}
    (h1 : f.lo ≤ i ∧ i ≤ f.hi) (h2 : g.lo ≤ i ∧ i ≤ g.hi) : f = g := by
  simp only [fieldsApart, Bool.and_eq_true, decide_eq_true_eq] at h
  by_contra hne
  have : Std.Symm fun f g : RField => f.hi < g.lo ∨ g.hi < f.lo := ⟨fun _ _ => Or.symm⟩
  have := h.2.forall hf hg hne
  omega

/-! ### One bit after a write -/

theorem testBit_mask (f : RField) (i : Nat) : f.mask.testBit i = (decide (f.lo ≤ i) && decide (i ≤ f.hi)) := by
  rw [RField.mask, Nat.testBit_mul_two_pow, Nat.testBit_two_pow_sub_one]
  by_cases h : f.lo ≤ i
  · simp only [h, decide_true, Bool.true_and, decide_eq_decide]; omega
  · simp [h]

/-- The bits of the mask of an access code are those of its fields. -/
theorem testBit_defMask (d : RegDef) (c : Acc) (i : Nat) :
    (d.mask c).testBit i = true ↔ ∃ f ∈ d.fields, f.acc = c ∧ f.lo ≤ i ∧ i ≤ f.hi := by
  have key : ∀ (fs : List RField) (m : Nat), (fs.foldl (fun m f => if f.acc = c then m ||| f.mask else m) m).testBit i = true ↔
      m.testBit i = true ∨ ∃ f ∈ fs, f.acc = c ∧ f.lo ≤ i ∧ i ≤ f.hi := by
    intro fs
    induction fs with
    | nil => simp
    | cons f fs ih =>
      intro m
      rw [List.foldl_cons, ih]
      by_cases hc : f.acc = c <;> simp [hc, testBit_mask, or_assoc]
  simp [RegDef.mask, key]

theorem testBit_afterWrite (d : RegDef) (old v i : Nat) : (d.afterWrite old v).testBit i =
    (((if (d.mask .rw).testBit i then v.testBit i else old.testBit i) && !(v.testBit i && (d.mask .w1c).testBit i)) ||
      (v.testBit i && (d.mask .w1s).testBit i)) := by
  simp only [RegDef.afterWrite, Nat.testBit_or, Nat.testBit_xor, Nat.testBit_and]
  cases old.testBit i <;> cases v.testBit i <;> cases (d.mask .rw).testBit i <;> cases (d.mask .w1c).testBit i <;> simp

/-- A bit of a field after a write of its register. -/
theorem testBit_afterWrite_field {d : RegDef} (h : fieldsApart d.fields = true) {f : RField} (hf : f ∈ d.fields) (old v : Nat) {i : Nat}
    (h1 : f.lo ≤ i) (h2 : i ≤ f.hi) : (d.afterWrite old v).testBit i =
      (match f.acc with
       | .ro | .wo => old.testBit i
       | .rw => v.testBit i
       | .w1c => old.testBit i && !v.testBit i
       | .w1s => old.testBit i || v.testBit i) := by
  have mask : ∀ c, (d.mask c).testBit i = decide (f.acc = c) := by
    intro c
    rw [Bool.eq_iff_iff, testBit_defMask, decide_eq_true_iff]
    exact ⟨fun ⟨g, hg, hc, hb⟩ => by rwa [fieldsApart_unique h hf hg ⟨h1, h2⟩ hb], fun hc => ⟨f, hf, hc, h1, h2⟩⟩
  rw [testBit_afterWrite, mask, mask, mask]
  cases f.acc <;> simp

/-- A bit of no field after a write. -/
theorem testBit_afterWrite_reserved {d : RegDef} (old v : Nat) {i : Nat} (h : ∀ f ∈ d.fields, i < f.lo ∨ f.hi < i) :
    (d.afterWrite old v).testBit i = old.testBit i := by
  have mask : ∀ c, (d.mask c).testBit i = false := by
    intro c
    rw [Bool.eq_false_iff, Ne, testBit_defMask]
    rintro ⟨f, hf, -, h1, h2⟩
    have := h f hf
    omega
  simp [testBit_afterWrite, mask]

theorem plainWrite_eq {s : State} {a : Nat} {d : RegDef} (h : regAt a = some d) (v : Nat) :
    plainWrite s a v = setReg s a (d.afterWrite (reg s a) v) := by
  simp [plainWrite, h]

/-- A bit of the written register below bit 64. -/
theorem bitAt_reg_plainWrite {s : State} {a : Nat} {d : RegDef} (h : regAt a = some d) (v i : Nat) :
    bitAt (reg (plainWrite s a v) a) i = (decide (i < 64) && (d.afterWrite (reg s a) v).testBit i) := by
  rw [plainWrite_eq h, reg_setReg_self, bitAt, Nat.testBit_mod_two_pow]

theorem bitAt_reg_of_le (s : State) (a : Nat) {i : Nat} (h : 64 ≤ i) : bitAt (reg s a) i = false :=
  Nat.testBit_lt_two_pow (lt_of_lt_of_le (reg_lt s a) (Nat.pow_le_pow_right (by omega) h))

/-! ### Reserved offsets and plain PCI_ registers -/

theorem readReg_reserved {s : State} {a : Nat} (h : regAt a = none) : readReg s a = 0 := by simp [readReg, h]
theorem writeReg_reserved {s : State} {a v : Nat} (h : regAt a = none) : writeReg s a v = s := by simp [writeReg, h]
theorem plainWrite_reserved {s : State} {a v : Nat} (h : regAt a = none) : plainWrite s a v = s := by simp [plainWrite, h]

/-- A PCI_ register without a rule of its own. -/
theorem writeLink_plain {s : State} {a : Nat} (v : Nat) (h1 : 0x10000 ≤ a) (h2 : a < 0x20000)
    (hn : a ∉ [Reg.PCI_BAR2_BASE, Reg.PCI_VF_CFG, Reg.PCI_HOST_TIME]) (hx : a < Reg.PCI_VF_XLAT 1 ∨ Reg.PCI_VF_XLAT 64 < a) :
    writeLink s a v = plainWrite s a v := by
  simp only [List.mem_cons, List.not_mem_nil, or_false, not_or] at hn
  obtain ⟨hb, hc, ht⟩ := hn
  unfold writeLink
  extract_lets c
  have hc0 : c = 0 := by unfold c; omega
  rw [if_neg hb, if_neg hc, if_neg ht, if_neg (by omega), if_neg (by rw [hc0]; unfold Reg.DMA_CHAN_CFG; omega),
    if_neg (by rw [hc0]; unfold Reg.DMA_CHAN_VALUE; omega)]

/-- A write of 8 bytes at a PCI_ offset of BAR0. -/
theorem writeBar0_pci {s : State} {o : Nat} (v : Nat) (h8 : o % 8 = 0) (h1 : 0x10000 ≤ o) (h2 : o < 0x20000) :
    writeBar0 s o 8 v = writeReg s o v := by
  have ha : o / 8 * 8 = o := by omega
  unfold writeBar0
  extract_lets c a x
  have hc0 : c = 0 := by unfold c; omega
  rw [if_neg (by rw [hc0]; unfold Reg.DMA_CHAN_FEED; omega), if_neg (by omega), if_neg (by unfold a; omega)]
  show writeReg s (o / 8 * 8) v = writeReg s o v
  rw [ha]

theorem writeReg_pci {s : State} {a : Nat} (v : Nat) (h1 : 0x10000 ≤ a) (h2 : a < 0x20000)
    (hn : a ∉ [Reg.PCI_BAR2_BASE, Reg.PCI_VF_CFG, Reg.PCI_HOST_TIME]) (hx : a < Reg.PCI_VF_XLAT 1 ∨ Reg.PCI_VF_XLAT 64 < a) :
    writeReg s a v = plainWrite s a v := by
  cases h : regAt a with
  | none => rw [writeReg_reserved h, plainWrite_reserved h]
  | some d =>
    unfold writeReg
    rw [if_neg (by simp [h]), if_neg (by omega), if_pos (by omega), writeLink_plain v h1 h2 hn hx]

/-- REGISTER_WRITE by the PF, served at once. -/
theorem exec_registerWrite_pf {s : State} {off : Nat} {bytes : List Byte} (h8 : bytes.length = 8) (hl : linkDown s = false)
    (hb : bootStage s ≠ 0xE) (hm : memServed s 0 = true) (hw : mustWait s 0 = false) :
    exec (.registerWrite 0 off bytes false) s = .next (writeBar0 s off 8 (ofLe bytes)) := by
  show execRegisterWrite 0 off bytes false s = _
  simp [execRegisterWrite, h8, hl, hb, hm, hw]

/-- Settles O59: the fields of a register are apart, so a bit meets the mask of its own field's code only. -/
theorem accessCodes : Obligations.AccessCodes := by
  intro s v
  refine ⟨fun a d hd => ⟨?field, ?reserved, ?other, plainWrite_frame s a v⟩, fun a ha => ⟨readReg_reserved ha, writeReg_reserved ha⟩, ?pci⟩
  case field =>
    intro f hf i h1 h2
    have hap := fieldsApart_of_regAt hd
    have hlt := fieldsApart_lt hap hf
    rw [bitAt_reg_plainWrite hd, decide_eq_true (by omega), Bool.true_and]
    exact testBit_afterWrite_field hap hf (reg s a) v h1 h2
  case reserved =>
    intro i h
    rw [bitAt_reg_plainWrite hd, testBit_afterWrite_reserved _ v h]
    by_cases hi : i < 64
    · simp [hi, bitAt]
    · rw [bitAt_reg_of_le s a (by omega)]; simp [hi]
  case other =>
    intro b hb
    rw [plainWrite_eq hd, reg_setReg_other s _ hb]
  case pci =>
    intro off bytes hlen h8 h1 h2 hn hx hl hb hm hw
    rw [exec_registerWrite_pf hlen hl hb hm hw, writeBar0_pci _ h8 h1 h2, writeReg_pci _ h1 h2 hn hx]

end Sys2Proof.Machine
end

section
/-!
SUPPORT. The state after reset (R14, Table 12.5) and the front of the queue.
-/
namespace Sys2Proof.Machine

/-- Every register's Reset column is a value of 64 bits whose fields hold what the column gives them. -/
theorem regBlocks_reset : ∀ b ∈ regBlocks, ∀ d ∈ b, d.resetVal < 2 ^ 64 ∧
    ∀ f ∈ d.fields, bitsOf d.resetVal f.lo (f.hi + 1 - f.lo) = f.reset := by decide +kernel

/-- The reset value of a register whose table gives none by die, variant or number. -/
theorem regReset_eq {a : Nat} {d : RegDef} (v : Variant) (hd : regAt a = some d) (ha : a < 0xF000000000)
    (hn : a ∉ [Reg.ARY_ID 1, Reg.SCD_ID 1, Reg.SKM_ID 1, Reg.PWR_PRESENT]) (hc : ¬(0x21000 ≤ a ∧ a < 0x21400 ∧ (a - 0x21000) % 0x20 = 8)) :
    regReset v a = d.resetVal := by
  simp only [List.mem_cons, List.not_mem_nil, or_false, not_or] at hn
  obtain ⟨h1, h2, h3, h4⟩ := hn
  unfold regReset
  rw [hd]
  extract_lets
  rw [if_neg (by simp [h1, h2, h3]), if_neg h4, if_neg hc, if_neg (by omega)]

/-- Settles O60: nothing is listed after reset, so every register reads its Reset column. -/
theorem resetState : Obligations.ResetState := by
  refine ⟨⟨rfl, rfl, resetOf_memOk .pm960, fun _ => ⟨rfl, rfl⟩, rfl⟩, fun _ => ⟨rfl, rfl⟩, fun _ => ⟨rfl, rfl⟩, ?_⟩
  intro a d hd ha hn hc
  obtain ⟨hlt, hf⟩ := regBlocks_reset _ (blockAt_mem a) d (List.mem_of_find?_eq_some hd)
  have hr : reg .reset a = d.resetVal := by
    rw [reg_unlisted rfl, regReset_eq _ hd ha hn hc, Nat.mod_eq_of_lt hlt]
  rw [hr]
  exact ⟨rfl, hf⟩

/-- Settles O51: a step takes the front of the queue by definition. -/
theorem queueFront : Obligations.QueueFront := by
  refine ⟨fun s c rest h => ?_, fun s c => rfl, fun s h => ?_⟩
  · unfold step; rw [h]
  · unfold step; rw [h]

end Sys2Proof.Machine
end

section
/-!
SUPPORT. A recipe step that issues (R92 to R97): its command is its effect on the state of the issue, operation by operation.
-/
namespace Sys2Proof.Machine

/-- Where a step issues, its slot is its effect on the issue's state. -/
theorem Issuing.issueSlot {s : State} {st : Site} {op : Nat} {t : Tile} {x : Ctx} {va vb : Opnd} (h : Issuing s st op t x va vb)
    (act : Issue → State → State) : issueSlot s st op act = act (issueOf st t x va vb) (issueState s st op t x va vb) := by
  unfold Machine.issueSlot
  simp [h.active, h.tile, h.ctx, h.slot, h.run, h.left, h.right]

/-- The next state of a step that issues. -/
theorem Issuing.next {s : State} {st : Site} {op : Nat} {t : Tile} {x : Ctx} {va vb : Opnd} (h : Issuing s st op t x va vb)
    (act : Issue → State → State) :
    Host.Outcome.next (Machine.issueSlot s st op act) =
      (.next (act (issueOf st t x va vb) (issueState s st op t x va vb)) : Host.Outcome State Fault Refusal) :=
  congrArg _ (h.issueSlot act)

/-- Settles O1: a lane step is its issue with the two lanes' results; register sc counts for FMA only. -/
theorem laneSteps : Obligations.LaneSteps := by
  intro st s t x va vb i put lanes bad
  refine ⟨fun h => (h.next _).trans ?_, fun h => (h.next _).trans ?_, fun h => (h.next _).trans ?_, fun h => (h.next _).trans ?_,
    fun h => (h.next _).trans ?_⟩
  · simp only [Bool.or_false, show ((0x02 : Nat) == 4) = false from rfl, Bool.false_and]; rfl
  · simp only [Bool.or_false, show ((0x03 : Nat) == 4) = false from rfl, Bool.false_and]; rfl
  · rfl
  · simp only [Bool.or_false, show ((0x05 : Nat) == 4) = false from rfl, Bool.false_and]; rfl
  · simp only [Bool.or_false, show ((0x06 : Nat) == 4) = false from rfl, Bool.false_and]; rfl

/-- Settles O2: each such step is its issue with what dst takes. -/
theorem unarySteps : Obligations.UnarySteps := by
  intro st s t x va vb i a put
  exact ⟨fun h => h.next _, fun h => h.next _, fun h => h.next _, fun h => h.next _, fun h => h.next _⟩

/-- Settles O3: the effect of CVT and BENC in the branch of their format. -/
theorem convertSteps : Obligations.ConvertSteps := by
  intro st s t x va vb i w d sc u
  refine ⟨fun h => h.next _, fun o h ho hb => ?_, fun o h ho hb => ?_⟩
  · refine (h.next _).trans ?_
    have ho' : fmtDecode (rFmtOut ((issueOf st t x va vb).tile.word (issueOf st t x va vb).cell)) = some o := ho
    simp only [cvtOp, ho', hb, Bool.false_eq_true, if_false]
    rfl
  · refine (h.next _).trans ?_
    have ho' : fmtDecode (rFmtOut ((issueOf st t x va vb).tile.word (issueOf st t x va vb).cell)) = some o := ho
    simp only [bencOp, ho', hb, Bool.not_true, Bool.false_eq_true, if_false]
    rfl

/-- ST where its step issues: a store, or a stall where a DRAIN copy of the word's range is pending. -/
theorem Issuing.execSt {s : State} {st : Site} {t : Tile} {x : Ctx} {va vb : Opnd} (h : Issuing s st 0x11 t x va vb) :
    let arr := aryKey st.die st.array
    let o := storeOff st t x (rStep (t.word st.cell) x.step)
    (drainPending (arrAt s arr) o = false → exec (.st st) s =
      .next (modArr (useBank (issueState s st 0x11 t x va vb) arr st.k (st.cell / 32) (1 + st.cell % 32) o) arr fun a =>
        { (setScratch a o (x.reg (sSa (rStep (t.word st.cell) x.step)))) with
          wrotePoison := a.wrotePoison || (x.reg (sSa (rStep (t.word st.cell) x.step))).poison })) ∧
    (drainPending (arrAt s arr) o = true → exec (.st st) s =
      .next (bump (modArr s arr fun a => if a.frozen.contains st.cell then a
        else { (a.slotAt st.k st.cell) with frozen := a.frozen ++ [st.cell] }) (Reg.ARY_STALL st.die st.array) 32 32 1)) := by
  intro arr o
  change (_ → Machine.execSt st s = _) ∧ (_ → Machine.execSt st s = _)
  unfold Machine.execSt
  extract_lets addr
  rw [nextStep_eq h.tile h.ctx]
  dsimp only
  have ho : addr t x (rStep (t.word st.cell) x.step) = o := rfl
  rw [ho]
  refine ⟨fun hd => ?_, fun hd => ?_⟩
  · rw [if_neg (by simp [arr, hd])]
    exact h.next _
  · rw [if_pos ⟨h.active, h.slot, h.run, hd⟩]
    congr 3
    funext a
    split <;> rfl

/-- Settles O4: each memory step is its issue and one access, by the branch of the access. -/
theorem memorySteps : Obligations.MemorySteps := by
  intro st s t x va vb i arr u b off v waits
  refine ⟨fun h => h.next _, fun h => h.execSt, fun h => h.next _, fun h => h.next _, fun h => ⟨fun s2 he => ?_, fun he => ?_⟩, fun h => h.next _⟩
  · refine (h.next _).trans (congrArg _ ?_)
    dsimp only
    split
    · cases he.symm.trans ‹_›; rfl
    · cases he.symm.trans ‹_›
  · refine (h.next _).trans (congrArg _ ?_)
    dsimp only
    split
    · cases he.symm.trans ‹_›
    · rfl

end Sys2Proof.Machine
end

section
/-!
SUPPORT. The events of an array (chapter 3, §3.5 to §3.8), each by the branch that its conditions choose.
-/
namespace Sys2Proof.Machine

/-- Settles O5: each event of an array in the branch that the array's state chooses. -/
theorem arraySteps : Obligations.ArraySteps := by
  intro die array cell c s t x
  dsimp only
  refine ⟨fun step v ha hx hw hl => ?_, fun sc out ha hx hw hl hm => ?_, fun hs ha hd => ?_, fun hs hr hf => ?_, fun hs ha => ?_⟩
  · dsimp only [exec, execScreedReturn]
    simp only [ha, hx, hw, hl]
    rfl
  · dsimp only [exec, execFenceDone]
    simp only [ha, hx, hw, hl, hm, if_true]
    rfl
  · have hall : ((arrAt s (aryKey die array)).ctxs.all fun kv => kv.2.state == .done) = true := by simpa using hd
    dsimp only [exec, execTileEnd]
    simp only [hs, ha, hall, if_true]
  · dsimp only [exec, execRampStep]
    simp only [hs, hr, hf, and_self, if_true]
  · dsimp only [exec, execShadowLoaded]
    simp only [hs, ha]

/-- A write of a control register with bit 7 set in the value already. -/
theorem or_bit7 {v : W64} (h : v.getLsbD 7 = true) : v ||| 0x80 = v := by
  refine BitVec.eq_of_getLsbD_eq fun i hi => ?_
  rw [BitVec.getLsbD_or]
  by_cases h7 : i = 7
  · subst h7; simp [h]
  · have : (0x80#64).getLsbD i = false := by
      rw [show (0x80#64) = BitVec.twoPow 64 7 from rfl, BitVec.getLsbD_twoPow]
      simp [Ne.symm h7]
    simp [this]

/-- Settles O6: each event of an array in the branch that the array's state chooses. -/
theorem arrayEvents : Obligations.ArrayEvents := by
  refine ⟨fun die array s => ?_, fun die array words s t => ?_⟩
  · dsimp only
    refine ⟨fun t bind hs ht hb hd ho => ?prefetch, fun d ds ecc h => ?drain, fun late h => ?stop, fun h hp => ?stopSwitch, fun h => ?held,
      fun t hs ht hc => ?watchdog, fun cluster h1 h2 => ?clock, fun v h hv => ?clear⟩
    case prefetch =>
      have hbusy : ((arrAt s (aryKey die array)).drains.any fun q =>
          overlaps (bDpa q.desc) (bLen q.desc) (bDpa (t.bind bind)) (bLen (t.bind bind))) = false := by simpa using ho
      dsimp only [exec, execPrefetchDone]
      simp only [hs, ht, hb, hd, hbusy, Bool.not_true, Bool.or_false, Bool.false_eq_true, if_false]
    case drain =>
      dsimp only [exec, execDrainDone]
      simp only [h]
    case stop =>
      dsimp only [exec, execStopRequest]
      rcases h with h | ⟨h, h2⟩ | ⟨h, h2⟩
      · simp only [h]
      · have h3 : (late || (arrAt s (aryKey die array)).past96) = true := by simpa using h2
        simp only [h, h3, if_true]
      · simp only [h, List.isEmpty_iff, if_neg h2]
    case stopSwitch =>
      dsimp only [exec, execStopRequest]
      simp only [h, hp, Bool.or_self, Bool.false_eq_true, if_false]
    case held =>
      dsimp only [exec, execHeldRelease]
      simp only [h, if_true]
    case watchdog =>
      have hall : ((arrAt s (aryKey die array)).ctxs.all fun kv => kv.2.state == .done) = false := by simpa using hc
      dsimp only [exec, execTileWatchdog]
      simp only [hs, ht, hall, Bool.false_eq_true, if_false]
    case clock =>
      dsimp only [exec, execClusterClockLoss]
      rw [if_neg (by omega)]
    case clear =>
      dsimp only [exec, execAryClrCounters, writeAryCtrl]
      have hb : bitAt v.toNat 7 = true := hv
      rw [or_bit7 hv, Nat.mod_eq_of_lt h, if_pos hb]
      rfl
  · dsimp only
    intro hs hr ht hst
    dsimp only [exec, execActivationStrobe]
    rw [if_neg (by rcases hs with h | h <;> simp [h])]
    simp only [hr, ht, hst, Bool.not_true, Bool.false_eq_true, if_false]
    cases words <;> rfl

end Sys2Proof.Machine
end

section
/-!
SUPPORT. The screed (chapter 4): its accesses, its queues and its maintenance, each by the branch that its conditions choose.
-/
namespace Sys2Proof.Machine

/-- A victim whose stack takes writes completes its writeback. -/
theorem finishVictim_eq {s : State} {v : Victim} (h : dpaHeld s v.dpa = false) :
    finishVictim s v = writebackLine { s with scr := { s.scr with victims := s.scr.victims.erase v } } v.dpa v.line := by
  rw [finishVictim, h]
  rfl

/-- The read of SLICE_ACCESS once no write hold keeps it back: by the line that is present, it is held whole, waits for a
fill, or is read past the slice. -/
theorem sliceAccess_read (s : State) (a : Access) (tag data : Ecc) (hw : a.write = false)
    (u : State) (hu : u = sliceDataEcc (sliceTagEcc s tag a.dpa) data a.dpa) (n : Nat) (hn : n = min a.len (64 - a.dpa % 64))
    (hnar : isNarrow u a.hint a.dpa n = false)
    (hb : ¬ (sliceFault u (homeSlice u a.dpa) = false ∧ waitsHeld u a.issuer 0 false false a.dpa = true)) :
    exec (.sliceAccess a tag data) s =
      if (a.hint = .normal ∨ a.hint = .keep) ∧ regionOf u a.dpa = .interleaved ∧ sliceFault u (homeSlice u a.dpa) = false ∧
          ¬ ∃ x, findLine u a.dpa = some x ∧ x.2.valid &&& byteMask (a.dpa % 64) n = byteMask (a.dpa % 64) n
      then .next { u with scr := { u.scr with fills := u.scr.fills ++ [⟨a.dpa, n, a.issuer, a.hint == .keep⟩] } }
      else .next (emit (lineRead u 1 a.hint a.dpa n).2 (.readData a.issuer a.dpa (lineRead u 1 a.hint a.dpa n).1)) := by
  subst hu hn
  dsimp only [exec, execSliceAccess]
  simp only [hw, Bool.false_eq_true, if_false, hnar, if_neg hb]
  cases hf : findLine (sliceDataEcc (sliceTagEcc s tag a.dpa) data a.dpa) a.dpa with
  | none => simp [and_assoc]
  | some x => simp [and_assoc, and_comm, and_left_comm]

/-- Settles O7: each access in the branch that its line, its hint and its stack choose. -/
theorem screedAccess : Obligations.ScreedAccess := by
  intro s
  refine ⟨fun a tag data => ?access, fun f flips hf => ?fill, fun slice v hv => ?writeback, fun slice q rank hq => ?atomic,
    fun dpa l n hl hn => ?notice⟩
  case access =>
    dsimp only
    refine ⟨fun hn => ?_, fun hn hw => ?_, fun hn hw hb => ?_, fun hn hw hb hf => ?_, fun hn hw hb hf => ?_⟩
    · dsimp only [exec, execSliceAccess]
      rw [if_pos hn]
    · dsimp only [exec, execSliceAccess]
      rw [if_neg (by rw [hn]; exact Bool.false_ne_true), if_pos hw]
    · dsimp only [exec, execSliceAccess]
      simp only [hw, Bool.false_eq_true, if_false] at hn ⊢
      simp only [hn, Bool.false_eq_true, if_false, if_pos hb]
    · simp only [hw, Bool.false_eq_true, if_false] at hn hf ⊢
      rw [sliceAccess_read s a tag data hw _ rfl _ rfl hn hb, if_pos hf]
    · simp only [hw, Bool.false_eq_true, if_false] at hn hf ⊢
      rw [sliceAccess_read s a tag data hw _ rfl _ rfl hn hb, if_neg hf]
  case fill =>
    dsimp only
    refine ⟨fun hb => ?_, fun x hb hx => ?_⟩
    · dsimp only [exec, execLineFill]
      simp only [hf, hb]
      rfl
    · dsimp only [exec, execLineFill]
      simp only [hf, hb, hx]
  case writeback =>
    have hheld : dpaHeld s v.dpa = false := by
      have := List.find?_some hv
      simp only [Bool.and_eq_true, Bool.not_eq_true'] at this
      exact this.2
    refine ⟨fun hb => ?_, fun x hb hx ha => ?_⟩
    · dsimp only [exec, execWritebackDone]
      simp only [hv, hb, finishVictim_eq hheld]
    · dsimp only [exec, execWritebackDone]
      simp only [hv, hb, hx, ha, Bool.false_eq_true, if_false]
  case atomic =>
    dsimp only [exec, execAtomicPerform]
    simp only [hq]
    rfl
  case notice =>
    dsimp only [exec, execCommitNotice]
    simp only [hl, hn]
    rfl

/-- SKIM_ACCESS is the narrow access of its word under STREAM. -/
theorem skimAccess_exec (issuer addr : Nat) (slot : Option Nat) (write poison : Bool) (value : W64) (s : State) :
    exec (.skimAccess issuer write addr value poison slot) s =
      .next (hubPoison s (narrowAccess s issuer 0 slot write .stream (addr / 8 * 8) value poison (if write then .none else .ext))) := rfl

/-- Settles O8: each skim access in the branch that its slice, its line and its queue choose. -/
theorem skimAccess_settled : Obligations.SkimAccess := by
  refine ⟨fun issuer addr slot write poison value s l => ?_, fun stack channel flips s i q hi hq => ?_⟩
  · dsimp only
    refine ⟨fun hl => ?_, fun hl => ⟨fun hf => ?_, fun hf hb => ?_, fun hf hb => ⟨fun hsome hw => ?_, fun hw hh => ?_, fun hn hh => ?_⟩⟩⟩ <;>
      rw [skimAccess_exec]
    · cases write <;> simp only [narrowAccess, hl] <;> rfl
    · cases write <;> simp only [narrowAccess, hl, hf] <;> rfl
    · cases write <;> simp only [narrowAccess, hl, hf, hb] <;> rfl
    · subst hw
      obtain ⟨ln, hln⟩ := Option.isSome_iff_exists.mp hsome
      simp only [narrowAccess, hl, hf, if_neg hb, hln, Bool.false_eq_true, if_false]
      rfl
    · subst hw
      obtain ⟨x, hx, hv⟩ := hh
      simp only [narrowAccess, hl, hf, if_neg hb, hx, hv, beq_self_eq_true, Bool.false_eq_true, if_false, if_true]
      rfl
    · have hmiss : narrowAccess s issuer 0 slot write .stream (addr / 8 * 8) value poison (if write then .none else .ext) =
          enterSkim (settleVictim s (addr / 8 * 8)) ⟨homeSlice s (addr / 8 * 8), l.stack, channelOf l.die l.bank, issuer, slot, write, false,
            addr / 8 * 8, value, poison, if write then Waiter.none else .ext⟩ := by
        simp only [narrowAccess, hl, hf, if_neg hb, Bool.false_eq_true, if_false]
        generalize (if regionOf (settleVictim s (addr / 8 * 8)) (addr / 8 * 8) = .interleaved then
          findLine (settleVictim s (addr / 8 * 8)) (addr / 8 * 8) else none) = line at hn hh ⊢
        match line, write, hn, hh with
        | none, true, _, _ => rfl
        | none, false, _, _ => rfl
        | some x, true, hn, _ => exact absurd ⟨rfl, rfl⟩ hn
        | some x, false, _, hh =>
          have hmiss : (x.2.valid &&& byteMask (addr / 8 * 8 % 64) 8 == byteMask (addr / 8 * 8 % 64) 8) = false := by
            simpa using hh
          simp only [hmiss, Bool.false_eq_true, if_false]
          rfl
      rw [hmiss]
      rfl
  · dsimp only
    refine ⟨fun hb => ?_, fun x hb hx => ?_⟩
    · dsimp only [exec, execSkimChannelService, skimService]
      simp only [hi, hq, hb, andThen]
    · dsimp only [exec, execSkimChannelService, skimService]
      simp only [hi, hq, hb, hx, andThen]

/-- Settles O9: the walker's commands by whether the die's walker is busy. -/
theorem screedMaintenance : Obligations.ScreedMaintenance := by
  intro die s hd
  have hdie : die % 2 = die := Nat.mod_eq_of_lt hd
  dsimp only
  refine ⟨fun hb => ?_, fun hb => ?_, fun m hm hh => ?_, ?_, ?_⟩
  · have hany : (s.scr.maint.any fun m => m.die = die) = false := by simpa using hb
    dsimp only [exec, execWriteback, execWbInvalidate, execClearKeep, execScdMaintRange, startMaint, writeMaintRange]
    simp only [hdie, hany, Bool.false_eq_true, if_false]
    exact ⟨rfl, rfl, rfl, fun _ => trivial⟩
  · have hany : (s.scr.maint.any fun m => m.die = die) = true := by simpa using hb
    dsimp only [exec, execWriteback, execWbInvalidate, execClearKeep, execScdMaintRange, startMaint, writeMaintRange]
    simp only [hdie, hany, if_true]
    exact ⟨trivial, trivial, trivial, fun _ => trivial⟩
  · dsimp only [exec, execMaintDone]
    simp only [hm, hh, Bool.false_eq_true, if_false]
  · dsimp only [exec, execScdClrCounters, clearScd]
    rw [hdie]
  · dsimp only [exec, execSkmClrCounters, clearSkm]
    rw [hdie]

end Sys2Proof.Machine
end

section
/-!
SUPPORT. The stacks (chapter 5): channel accesses, refresh, the merge window, the patrol scrub and the control registers.
-/
namespace Sys2Proof.Machine

/-- A Boolean conjunction with a negated one, in propositions. -/
theorem and_not_and_eq_true {a b c : Bool} : (a && !(b && c)) = true ↔ a = true ∧ ¬ (b = true ∧ c = true) := by
  revert a b c; decide

/-- One due visit that its bank allows is made. -/
theorem scrubDue_one {s : State} {stack : Nat} (hl : (stackAt s stack).scrubLag = 1)
    (hw : scrubWaits s stack ((stackAt s stack).scrubPos / 64 % 20) ((stackAt s stack).scrubPos % 64) = false) :
    scrubDue (stackAt s stack).scrubLag s stack = scrubOne s stack := by
  rw [hl, scrubDue]
  simp only [hl, hw, Nat.one_ne_zero, Bool.false_eq_true, or_self, if_false, scrubDue]

/-- Where the next visit must wait, none is made. -/
theorem scrubDue_waits {s : State} {stack : Nat} (fuel : Nat)
    (hw : scrubWaits s stack ((stackAt s stack).scrubPos / 64 % 20) ((stackAt s stack).scrubPos % 64) = true) :
    scrubDue fuel s stack = s := by
  cases fuel with
  | zero => rfl
  | succ n => simp only [scrubDue, hw, or_true, if_true]

/-- Settles O10: each row of a stack's sequencer in the branch that its bank and its state choose. -/
theorem stackService : Obligations.StackService := by
  intro s
  refine ⟨fun source issuer dpa len write poison data flips => ?access, fun stack die bank hs hd hb hr => ?refresh,
    fun stack flips e es ha hm => ?merge, fun stack flips => ?scrub⟩
  case access =>
    dsimp only
    refine ⟨fun hl => ?_, fun l hl => ⟨fun hq => ?_, fun hq hw hh => ?_, fun hq hw hh => ?_, fun hq hw => ?_⟩⟩ <;>
      dsimp only [exec, execBankAccess] <;> simp only [hl]
    · rw [if_pos (and_not_and_eq_true.mpr hq)]
    · rw [if_neg (fun h => hq (and_not_and_eq_true.mp h))]
      simp only [serveBank, hw, hh, if_true]
    · rw [if_neg (fun h => hq (and_not_and_eq_true.mp h))]
      simp only [serveBank, hw, hh, if_true, Bool.false_eq_true, if_false]
    · rw [if_neg (fun h => hq (and_not_and_eq_true.mp h))]
      simp only [serveBank, hw, Bool.false_eq_true, if_false]
  case refresh =>
    dsimp only [exec, execRefresh]
    rw [if_neg (by simp only [hr, Bool.true_eq_false, or_false]; omega)]
    by_cases hrun : s.itn.run = .running
    · rw [if_pos hrun, if_pos hrun]
    · rw [if_neg hrun, if_neg hrun]
      by_cases hbusy : trowelBusy s (trowelOf stack die bank) = true
      · rw [if_pos hbusy, if_pos hbusy]
        cases takeRefresh s (trowelOf stack die bank) (bank % 2) <;> rfl
      · rw [if_neg hbusy, if_neg hbusy]
        by_cases hp : bankPending s stack die bank = true
        · rw [if_pos hp, if_pos hp]; rfl
        · rw [if_neg hp, if_neg hp]; rfl
  case merge =>
    dsimp only [exec, execMergeWindowClose]
    rw [if_neg (by rw [ha]; exact fun h => h rfl), hm]
  case scrub =>
    dsimp only
    intro hs hv hc
    have hgo : ∀ t, execScrubVisit stack flips s = .next t ↔ Host.Outcome.next (scrubDue
        (stackAt (modStack (flipBits s flips) stack fun k => { k with scrubLag := k.scrubLag + 1 }) stack).scrubLag
        (modStack (flipBits s flips) stack fun k => { k with scrubLag := k.scrubLag + 1 }) stack) =
          (.next t : Host.Outcome State Fault Refusal) := by
      intro t
      dsimp only [execScrubVisit]
      rw [if_neg (by simp only [hv, hc, Bool.true_eq_false, or_false]; omega)]
    refine ⟨(hgo _).mpr rfl, fun _ hw => ?_, fun hl hw hp => ?_, fun hl hw hp => ?_⟩ <;> refine (hgo _).mpr ?_
    · rw [scrubDue_waits _ hw]
    · rw [scrubDue_one hl hw, scrubOne, scrubRows, if_pos hp]
    · rw [scrubDue_one hl hw, scrubOne, scrubRows, if_neg hp]

/-- Settles O11: the control rows of a stack of the module. -/
theorem stackControl : Obligations.StackControl := by
  refine ⟨fun issuer dpa n v write poison s => ?_, fun stack v s hs => ⟨?_, fun hv => ?_, ?_⟩⟩
  · dsimp only [exec, execControlSpaceAccess]
    by_cases hf : 0xF000000000 ≤ dpa ∧ (n = 4 ∨ n = 8) ∧ dpa % n = 0
    · rw [if_pos hf, if_neg (by simpa [ctlBase, ctlFormOk] using hf)]
    · rw [if_neg hf, if_pos (by simpa [ctlBase, ctlFormOk, imp_iff_not_or, not_or, not_and_or, and_assoc, or_assoc] using hf)]
  · dsimp only [exec, execStkScrubCtrl, writeScrubCtrl]
    rw [if_neg (by omega)]
    by_cases hv : 1 ≤ v.toNat % 256 ∧ v.toNat % 256 ≤ 168
    · rw [if_pos hv, if_neg (by simp only [bitsOf]; omega)]
    · rw [if_neg hv, if_pos (by simp only [bitsOf]; omega)]
  · dsimp only [exec, execStkClrCounters, writeStkCtrl]
    have hb : bitAt v.toNat 7 = true := hv
    rw [if_neg (by omega), or_bit7 hv, if_pos hb]
    rfl
  · dsimp only [exec, execStackFault]
    rw [if_neg (by omega)]
    rfl

end Sys2Proof.Machine
end

section
/-!
SUPPORT. The trowels and the reducers (chapter 6): what the slot a trowel stands at does, launches, events and reducer jobs.
-/
namespace Sys2Proof.Machine

/-! ### The X slot -/

/-- Charging cycles changes the command's cycle and its count alone. -/
theorem charge_some {c d : TrwCmd} {at_ dur stall : Nat} (h : charge c at_ dur stall = some d) :
    d = { c with now := at_ + dur, count := c.count + (at_ - c.now) - stall + dur } := by
  dsimp only [charge] at h
  split at h
  · cases h
  · exact (Option.some.inj h).symm

/-- The X slot of a trowel that stands at the operation performs it. -/
theorem AtX.xStep {s : State} {x : TSite} {op : Nat} {c : TrwCmd} {w : Nat} (h : AtX s x op c w) (act : TrwCmd → Nat → State) :
    xStep s x op act = act c w := by
  obtain ⟨hrun, hcmd, hslot, hword, hclear, hop⟩ := h
  subst hword
  simp only [Machine.xStep, hrun, hcmd, hslot, hclear, hop, ne_eq, not_true_eq_false, Bool.false_eq_true, if_false, if_true]

/-- END after a COMMIT is the only X slot that issues. -/
theorem xStep_end_commit {s : State} {x : TSite} {c : TrwCmd} {w : Nat} (hs : (trowelAt s x).state = .commit)
    (hc : (trowelAt s x).cmd = some c) (h0 : c.slot = 0) (hw : fetchMicro s x c = w) (ho : uXop w = 6) (act : TrwCmd → Nat → State) :
    xStep s x 6 act = act c w := by
  subst hw
  simp only [Machine.xStep, hs, hc, h0, ho, and_self, if_true]

/-- An operation of the given cycles leaves the slot with the command changed, or passes the span. -/
theorem commitX_map (s : State) (x : TSite) (w : Nat) (o : Option TrwCmd) (f : TrwCmd → TrwCmd) :
    (Host.Outcome.next (commitX s x w (o.map f)) : Host.Outcome State Fault Refusal) = match o with
      | none => .next (endKilled s x .span)
      | some d => .next (modCmd s x fun _ => { f d with slot := if uWop w = 1 then 1 else 2 }) := by
  cases o <;> rfl

/-- An operation of one cycle at the slot that the trowel stands at. -/
theorem AtX.simpleX {s : State} {x : TSite} {op : Nat} {c : TrwCmd} {w : Nat} (h : AtX s x op c w) (f : TrwCmd → Nat → TrwCmd) :
    simpleX s x op f = commitX s x w ((charge c c.now 1 0).map fun d => f d w) :=
  h.xStep _

/-- Settles O12: each operation at the X slot where the trowel stands. -/
theorem trowelSimple : Obligations.TrowelSimple := by
  intro x s c w
  dsimp only
  refine ⟨fun h => ?nop, fun h => ?setp, fun h => ?addp, fun h => ?loop, fun h => ?stream, fun h => ?done,
    fun hs hc h0 hw ho hn => ?committed⟩
  case nop | setp | addp => exact (congrArg Host.Outcome.next (h.simpleX _)).trans (commitX_map s x w _ _)
  case loop =>
    dsimp only [exec, execTrwLoop]
    rw [h.xStep, loopOp]
    by_cases hb : c.p (uX w 14 4) ≠ 0 ∧ 2 ≤ c.loops.length
    · rw [if_pos hb, if_pos hb]
    · rw [if_neg hb, if_neg hb]
      exact commitX_map s x w _ _
  case stream =>
    dsimp only [exec, execTrwStream]
    rw [h.xStep, streamBeat]
    dsimp only
    cases c.latch (uX w 17 1) with
    | none => rfl
    | some l =>
      dsimp only
      cases hd : charge c (max c.now l.2) 1 0 with
      | none => rfl
      | some d =>
        obtain rfl := charge_some hd
        rfl
  case done =>
    dsimp only [exec, execTrwEnd]
    rw [h.xStep]
    by_cases hn : ((stackAt s x.stack).notices.any fun n => n.trowel == x.trowel) = true
    · rw [if_pos hn, if_pos hn]
    · rw [if_neg hn, if_neg hn, if_pos h.run]
      cases charge c (max c.now (max c.o0 c.o1)) 1 0 <;> rfl
  case committed =>
    dsimp only [exec, execTrwEnd]
    rw [xStep_end_commit hs hc h0 hw ho, if_neg (by simp [hn]), if_neg (by simp [hs])]
    cases charge c (max c.now (max c.o0 c.o1)) 1 0 <;> rfl

/-! ### The C slot -/

/-- The C slot of a trowel that stands at the operation performs it, steps the lane pointer where asked, and goes on. -/
theorem AtC.cStep {s : State} {x : TSite} {op : Nat} {c : TrwCmd} {w : Nat} (h : AtC s x op c w) (f : TrwCmd → Nat → TrwCmd) :
    cStep s x op f = advance (modCmd s x fun d =>
      if op ≠ 0 ∧ bitAt w 7 then (f d w).setP (bitsOf w 8 4) (addPtr ((f d w).p (bitsOf w 8 4)) 1) else f d w) x := by
  obtain ⟨hrun, hcmd, hslot, hword, hop⟩ := h
  subst hword
  simp only [Machine.cStep, hcmd]
  rw [if_neg]
  rintro (h | ⟨h1, h2⟩ | h)
  · exact h hslot
  · exact hrun.elim h1 h2
  · exact h hop

/-- MACS adds the products of all lanes to the lane that it names. -/
theorem macsOp_eq (d : TrwCmd) (w : Nat) : macsOp d w = lanesOp d w fun i l =>
    if i = cLane d w then (accAdd (accInt d) l.v.toNat (FVal.sum ((List.range 64).map fun j => workMul d (wLane d j) (qLane d (uQ w) j))),
      l.poison || (List.range 64).any fun j => (wLane d j).poison || (qLane d (uQ w) j).poison)
    else ((l.v.toNat, .none), l.poison) := by
  simp only [macsOp, List.map_map, List.any_map]
  rfl

/-- Settles O14: each operation at the W or C slot where the trowel stands. -/
theorem trowelCompute : Obligations.TrowelCompute := by
  intro x s c w
  dsimp only
  refine ⟨fun hr hc hs hw hp => ?widen, ?_, ?_, ?macs, ?_, ?_, ?_, ?_, ?_, ?_⟩
  case widen =>
    subst hw
    dsimp only [exec, execTrwWiden, widenOp]
    simp only [hc, hp, hs, ne_eq, not_true_eq_false, false_or, Bool.not_true, Bool.false_eq_true, if_false]
    rw [if_neg fun h => hr.elim h.1 h.2]
  case macs =>
    intro h
    dsimp only [exec, execTrwMacs]
    rw [h.cStep]
    simp only [macsOp_eq]
  all_goals
    intro h
    exact congrArg Host.Outcome.next (h.cStep _)

/-! ### Launches and events -/

/-- A word with a bit already set. -/
theorem or_twoPow {n i : Nat} {v : BitVec n} (h : v.getLsbD i = true) : v ||| BitVec.twoPow n i = v := by
  refine BitVec.eq_of_getLsbD_eq fun j _ => ?_
  rw [BitVec.getLsbD_or, BitVec.getLsbD_twoPow]
  by_cases hj : i = j
  · subst hj; simp [h]
  · simp [hj]

/-- Settles O15: TRW_CTRL by its bits, and the planned launch by what is due. -/
theorem trowelLaunches : Obligations.TrowelLaunches := by
  intro x s hx
  have hctrl : ∀ v : W32, (v.getLsbD 0 = true → exec (.trwStart x v) s = .next (writeTrwCtrl s x v.toNat)) ∧
      (v.getLsbD 1 = true → exec (.trwKill x v) s = .next (writeTrwCtrl s x v.toNat)) ∧
      (v.getLsbD 2 = true → exec (.trwClrCounters x v) s = .next (writeTrwCtrl s x v.toNat)) := fun v =>
    ⟨fun h => congrArg (fun w => Host.Outcome.next (writeTrwCtrl s x (BitVec.toNat w))) (or_twoPow h),
      fun h => congrArg (fun w => Host.Outcome.next (writeTrwCtrl s x (BitVec.toNat w))) (or_twoPow h),
      fun h => congrArg (fun w => Host.Outcome.next (writeTrwCtrl s x (BitVec.toNat w))) (or_twoPow h)⟩
  dsimp only
  refine ⟨fun v hl => ?loaded, fun v hl => ?direct, fun hi hr => ⟨fun c hc => ?rerun, fun i l hn hf hw => ?trowel,
    fun i l a hn hf hw => ⟨fun hp => ?listEnd, fun c m hp hm => ⟨fun hk => ?attn, fun hk => ?attnBad⟩⟩⟩⟩
  case loaded =>
    obtain ⟨hstart, hkill, hclear⟩ := hctrl v
    have hw : writeTrwCtrl s x v.toNat = setRegBit s (Reg.TRW_ERR x.stack x.trowel) 4 := by
      simp only [writeTrwCtrl, hx, hl, Bool.not_true, Bool.false_eq_true, if_false, if_true]
    rw [hw] at hstart hkill hclear
    exact ⟨hstart, hkill, hclear⟩
  case direct =>
    obtain ⟨hstart, hkill, hclear⟩ := hctrl v
    refine ⟨fun h1 => ?_, fun h0 h1 => ?_, fun h2 h1 h0 => ?_⟩
    · have hb1 : bitAt v.toNat 1 = true := h1
      rw [hkill h1]
      simp only [writeTrwCtrl, hx, hl, hb1, Bool.not_true, Bool.false_eq_true, if_false, if_true]
      rfl
    · have hb0 : bitAt v.toNat 0 = true := h0
      have hb1 : bitAt v.toNat 1 = false := h1
      have hentry : v.toNat / 256 % 256 = bitsOf v.toNat 8 8 := (bitsOf_eq v.toNat 8 8).symm
      rw [hstart h0, hentry]
      simp only [writeTrwCtrl, hx, hl, hb0, hb1, Bool.not_true, Bool.false_eq_true, if_false, if_true]
      rfl
    · have hb0 : bitAt v.toNat 0 = false := h0
      have hb1 : bitAt v.toNat 1 = false := h1
      rw [hclear h2]
      simp only [writeTrwCtrl, hx, hl, hb0, hb1, Bool.not_true, Bool.false_eq_true, if_false]
      rfl
  all_goals
    dsimp only [exec, execTrowelLaunch]
    rw [if_neg (by simp [hi, hr])]
  case rerun => simp only [hc]
  case trowel =>
    simp only [hn, hf, hw]
    rfl
  case listEnd =>
    simp only [hn, hf, hw, launchPlan, beginItem, hp]
  case attn =>
    simp only [hn, hf, hw, launchPlan, beginItem, hp, hm, hk, Bool.not_true, Bool.false_eq_true, if_false]
    rfl
  case attnBad =>
    simp only [hn, hf, hw, launchPlan, beginItem, hp, hm, hk, Bool.not_false, if_true]

/-- Settles O16: the events of a trowel by its state. -/
theorem trowelEvents : Obligations.TrowelEvents := by
  intro x s
  dsimp only
  refine ⟨fun c hs hc => ?_, fun c hs hc => ?_, fun b c hb hc => ⟨fun hh => ?_, fun r hh => ?_⟩, fun stack die hs hd => ?_⟩
  · dsimp only [exec, execSpanExpiry]
    simp only [hs, hc]
  · dsimp only [exec, execHeldResume, heldResume]
    simp only [hs, hc]
  · dsimp only [exec, execChannelWindow]
    simp only [hb, hc, serveHead, hh]
  · dsimp only [exec, execChannelWindow]
    simp only [hb, hc, serveHead, hh]
    rfl
  · dsimp only [exec, execTrowelClusterDisable]
    rw [if_neg (by omega)]

/-! ### Reducer jobs -/

/-- A job descriptor whose kind field holds the kind already. -/
theorem setKind_self {w : W64} {k : Nat} (h : w.toNat / 2 ^ 60 = k) : setBits w.toNat 60 4 k = w.toNat := by
  subst h
  have := w.isLt
  simp only [setBits, bitsOf]
  omega

/-- The start condition of a job, slot by slot. -/
theorem jobReady_iff (r : Reducer) (w : Nat) : jobReady r w = true ↔
    (∀ i, i < rCount w → (mget r.slots (rFirst w + i)).isSome) ∧ (∀ i ∈ rOutSlots w, mget r.slots i = none) := by
  simp [jobReady, rInSlots, slotFull]

/-- Settles O17: a job is queued, started and finished. -/
theorem reducerJobs : Obligations.ReducerJobs := by
  refine ⟨fun stack w s hs row hrow hk => ?_, fun stack s j js => ?_, fun stack s j hj => ?_⟩
  · have hjob : jobRow s stack row.1 w = (let r := reducerAt s stack
        if itinLoaded s then s
        else if jobOk w.toNat = false then setRegBit s (Reg.STK_RDC_ERR stack) 2
        else if 16 ≤ r.jobs.length then setRegBit s (Reg.STK_RDC_ERR stack) 1
        else setReducer s stack { r with jobs := r.jobs ++ [⟨w, none⟩] }) := by
      rw [jobRow, if_neg (by omega), setKind_self hk, writeJob]
      simp only [Bool.not_eq_true', BitVec.ofNat_toNat, BitVec.setWidth_eq]
    rw [← hjob]
    simp only [List.mem_cons, List.not_mem_nil, or_false] at hrow
    rcases hrow with rfl | rfl | rfl | rfl | rfl | rfl <;> rfl
  · dsimp only
    intro hr hj
    dsimp only [exec, execReducerJobStart]
    simp only [hr, hj]
    by_cases hready : jobReady (reducerAt (planJob s stack) stack) j.w.toNat = true
    · rw [if_pos hready, if_pos ((jobReady_iff _ _).mp hready)]
      rfl
    · rw [if_neg hready, if_neg (fun h => hready ((jobReady_iff _ _).mpr h))]
  · dsimp only [exec, execReducerJobDone]
    simp only [hj]
    cases j.item <;> rfl

end Sys2Proof.Machine
end

section
/-!
SUPPORT. Itineraries, bells and caravans (chapter 8): the bell, its frames, the epoch start, the waystations and the plan's slots.
-/
namespace Sys2Proof.Machine

/-! ### Bells -/

/-- Settles O18: the bell, a frame by its check field and its sender, and the epoch start. -/
theorem bells : Obligations.Bells := by
  intro s
  refine ⟨?bell, fun port caravan bits => ?frame, fun port hp => ?timeout, fun hd => ?epoch⟩
  case bell =>
    dsimp only [exec, execBell, nextBell, tickRing, tickTime, tickGate, gatedIn, bump]
    generalize arrive (endDrains s) = a
    rfl
  case frame =>
    dsimp only [exec, execBellFrame]
    refine ⟨fun hv => ?_, fun hv hp => ?_, fun hv hc hp => ⟨fun c hf => ?_, fun hf hb => ?_, fun hf hb => ?_⟩⟩
    · rw [if_pos hv]
    · rw [if_neg (not_not.mpr hv), if_pos (by simpa using hp)]
    all_goals
      rw [if_neg (not_not.mpr hv), if_neg (by simp [hc, hp])]
      simp only [hf]
    · rw [memberFrame, if_pos hb]
    · refine ⟨memberFrame s port bits.toNat, rfl, ?_⟩
      rw [memberFrame, if_neg (not_not.mpr hb)]
      simp only [bitsOf_eq, bitAt, List.contains_eq_mem, decide_eq_false_iff_not, Nat.reducePow]
      by_cases hu : regField s (Reg.FAB_PORT_CFG port) 1 2 = 2 ∧ bits.toNat / 64 % 4 = waveOf s s.itn.way ∧
          bits.toNat.testBit 5 = true ∧ port ∉ s.itn.ups
      · by_cases hd : regField s (Reg.FAB_PORT_CFG port) 1 2 = 1 ∧ bits.toNat / 64 % 4 = waveOf s s.itn.way ∧
            bits.toNat.testBit 4 = true ∧ s.itn.downAt = none ∧ runActive s = true
        · exact absurd (hu.1.symm.trans hd.1) (by decide)
        · simp only [if_pos hu, if_neg hd, and_self]
      · by_cases hd : regField s (Reg.FAB_PORT_CFG port) 1 2 = 1 ∧ bits.toNat / 64 % 4 = waveOf s s.itn.way ∧
            bits.toNat.testBit 4 = true ∧ s.itn.downAt = none ∧ runActive s = true
        · simp only [if_neg hu, if_pos hd, and_self]
        · simp only [if_neg hu, if_neg hd, and_self]
  case timeout =>
    dsimp only [exec, execFrameTimeout]
    rw [if_pos (by simpa using hp)]
  case epoch =>
    dsimp only [exec, execEpochStart]
    rw [if_neg (by simp [hd])]

/-! ### Waystations -/

/-- Settles O19: each event of a waystation where its conditions hold. -/
theorem waystations : Obligations.Waystations := by
  intro s
  refine ⟨fun b hr hs hb hp ha => ?start, fun r hr hd hb hw => ?release, fun i hr hk ho ha hw => ?arrival, fun i hr hi hp ho => ?miss,
    fun hr => ?resume, fun hr ha hc hb => ?timeout⟩
  case start =>
    dsimp only [exec, execWaystationRelease]
    simp only [hr, hs]
    rw [if_pos ⟨hb, hp, ha⟩]
  case release =>
    have hdue : releaseDue s = true := by
      rcases hr with h | h | h | h <;> simp [releaseDue, h, hd, hb, hw]
    dsimp only [exec, execWaystationRelease]
    rcases hr with h | h | h | h <;> simp only [h, hdue, if_true]
  case arrival =>
    dsimp only
    intro hs
    dsimp only [exec, execArrivalRelease]
    rw [if_pos]
    refine ⟨hr, hk, ho, by simpa using ha, hw, ?_⟩
    simpa [List.all_eq_true, and_assoc] using hs
  case miss =>
    dsimp only [exec, execWaystationMiss]
    rw [if_pos]
    refine ⟨hr, by simpa using hp, ?_, hi⟩
    by_cases hk : (wayAt s i).kind = 1
    · simpa [hk] using ho
    · simpa [hk, and_assoc] using ho
  case resume =>
    dsimp only
    have hlost : (s.mem.losses != s.itn.lossMark || s.mem.stks.any fun k => k.state == .off || k.state == .fault) = true ↔
        (s.mem.losses ≠ s.itn.lossMark ∨ ∃ k ∈ s.mem.stks, k.state = .off ∨ k.state = .fault) := by simp
    refine ⟨fun hl => ?_, fun hl => ?_⟩ <;> dsimp only [exec, execResume] <;> rw [if_neg (not_not.mpr hr)]
    · rw [if_pos (hlost.mpr hl)]
    · rw [if_neg (fun h => hl (hlost.mp h))]
  case timeout =>
    dsimp only [exec, execResumeTimeout]
    rw [if_pos ⟨hr, by simp [unresumed, ha, hc], hb⟩]

/-! ### Slots, phases, manifests and registers -/

/-- A slot is due when its item is ready and the slots before it to its target have begun. -/
theorem slotDue_iff (s : State) (i : Item) : slotDue s i = true ↔
    ∃ e, (i.work = .sched e ∨ ∃ k, i.work = .osend e k) ∧ itemReady s i = true ∧ slotTurn s i e = true := by
  unfold slotDue slotOf
  cases i.work <;> simp

/-- Settles O20: the slots of the fabric table, the phase, the registers and the admission. -/
theorem planSlots : Obligations.PlanSlots := by
  intro s
  refine ⟨⟨slotDue_iff s, fun i e hf hw => ?sched, fun i e slot hf hw => ?osend, fun hf => ?idle⟩, fun hr => ?phase, fun hr => ?noPhase,
    fun v => ?stretch, fun v hv => ?clear, fun sent pages r m hr hm ha hl => ?admission, fun sent pages t ts g hr hl ht hg => ?member⟩
  case sched =>
    dsimp only [exec, execSchedSlot]
    simp only [hf, hw]
    rfl
  case osend =>
    dsimp only [exec, execSchedSlot]
    simp only [hf, hw]
    rfl
  case idle =>
    dsimp only [exec, execSchedSlot]
    simp only [hf]
  case phase | noPhase =>
    dsimp only [exec, execPhaseStart]
    simp only [hr, Bool.false_eq_true, if_true, if_false]
  case stretch =>
    dsimp only [exec, execItnStretch, writeStretch]
    rw [bitsOf_eq]
    by_cases hv : 16 ≤ v.toNat / 2 ^ 24 % 128 ∧ v.toNat / 2 ^ 24 % 128 ≤ 64
    · rw [if_pos hv, if_neg (by omega)]
    · rw [if_neg hv, if_pos (by omega)]
  case clear =>
    dsimp only [exec, execItnClrCounters, writeItnCtrl]
    have hb : bitAt v.toNat 7 = true := hv
    rw [or_bit7 hv, if_pos hb]
  case admission =>
    dsimp only [exec, execManifestAdmit]
    simp only [hr, hm, ha, hl, Bool.not_true, Bool.or_self, Bool.false_eq_true, if_false]
  case member =>
    dsimp only
    refine ⟨fun hs => ?_, fun m hm hs => ?_⟩
    · dsimp only [exec, execManifestAdmit]
      have hs1 : ¬ g.flags / 2 % 2 = 1 := by omega
      simp only [hr, ht, hl, hg, Bool.false_eq_true, if_false]
      cases s.srv.model <;> simp only [if_neg hs1]
    · dsimp only [exec, execManifestAdmit]
      simp only [hr, ht, hl, hg, hm, hs, Bool.false_eq_true, if_false, if_true]

end Sys2Proof.Machine
end

section
/-!
SUPPORT. The serving engines (chapter 11): EMIT and RECODE, the sampler and stencil rows, adapters and registers.
-/
namespace Sys2Proof.Machine

/-- An EMIT that waits for room goes on from the row where it stopped. -/
theorem emit_of_waiting {s : State} {r : StepRun} {i : Item} {a : List Nat} {k : Nat} (hr : s.srv.core.run = some r)
    (hw : waitingEmit s = some (i, a, k)) : exec .emit s =
      .next (if rowsLeft (emitRows r i.id a (nth a 3 0 - k) k s) i.id then emitRows r i.id a (nth a 3 0 - k) k s
        else itemDone (emitRows r i.id a (nth a 3 0 - k) k s) (some i.id)) := by
  dsimp only [exec, execEmit]
  simp only [hw, hr]

/-- With none that waits, the next EMIT that may begin sends its rows from the first. -/
theorem emit_of_next {s : State} {r : StepRun} {i : Item} {a : List Nat} (hr : s.srv.core.run = some r)
    (hw : waitingEmit s = none) (hn : nextAction s 1 = some (i, a)) : exec .emit s =
      .next (if rowsLeft (emitRows r i.id a (nth a 3 0 - 0) 0 (beginItem s i)) i.id then emitRows r i.id a (nth a 3 0 - 0) 0 (beginItem s i)
        else itemDone (emitRows r i.id a (nth a 3 0 - 0) 0 (beginItem s i)) (some i.id)) := by
  dsimp only [exec, execEmit]
  simp only [hw, hn, hr, Option.map_some]

/-- Settles O21: each action in the branch that its row, its poison and its choice give. -/
theorem servingActions : Obligations.ServingActions := by
  intro s
  refine ⟨fun r i a k u hr hk => ?emit, fun r item a n k e he => ?rows, fun i a r m e hn hr hm he => ?recode,
    fun lane m r x e hm hr hx he => ?sample, fun lane m r x e hm hr hx he => ?stencil, fun n g hl hh => ?held, fun n g hl hh => ?done⟩
  case emit =>
    rcases hk with ⟨hw, rfl⟩ | ⟨hw, hn, rfl, rfl⟩
    · exact emit_of_waiting hr hw
    · exact emit_of_next hr hw hn
  case rows =>
    refine ⟨fun h => ?_, fun h hroom => ?_, fun h hroom => ?_⟩ <;> rw [emitRows]
    · simp only [he, h, Bool.not_false, if_true]
    · simp only [he, h, hroom, Bool.not_true, Bool.false_eq_true, if_false, if_true]
    · simp only [he, h, hroom, Bool.not_true, Bool.false_eq_true, if_false]
  case recode =>
    dsimp only [exec, execRecode]
    simp only [hn, hr, hm, he] <;>
      rfl
  case sample =>
    dsimp only
    refine ⟨fun hp => ?_, fun hp hc => ?_, fun c hp hc => ?_⟩ <;> dsimp only [exec, execSampleRow] <;> simp only [hm, hr, hx, he]
    · rw [if_pos hp]
    · rw [if_neg (by simp [hp])]
      simp only [hc]
    · rw [if_neg (by simp [hp])]
      simp only [hc]
  case stencil =>
    dsimp only
    refine ⟨fun hp => ?_, fun hp hn => ?_, fun hp hs => ?_⟩ <;> dsimp only [exec, execStencilRow] <;> simp only [hm, hr, hx, he]
    · rw [if_pos hp]
    · rw [if_neg (by simp [hp]), if_pos (by simpa using hn)]
    · rw [if_neg (by simp [hp]), if_neg (by simpa using hs)]
  case held =>
    dsimp only [exec, execAdapterLoadDone]
    simp only [hl, hh, if_true]
  case done =>
    dsimp only
    refine ⟨fun c hc => ?_, fun hc => ?_⟩ <;> dsimp only [exec, execAdapterLoadDone] <;>
      simp only [hl, hh, Bool.false_eq_true, if_false, hc]

/-- Settles O22: each register write by its reserved bits or its clear bit. -/
theorem servingRegisters : Obligations.ServingRegisters := by
  intro s v
  refine ⟨?smp, ?stn, ?ldg, fun hv => ?clear⟩
  case smp =>
    dsimp only [exec, execSmpSel, writeSmpSel]
    rw [bitsOf_eq]
    by_cases h : v.toNat / 2 ^ 44 = 0 ∧ v.toNat / 2 ^ 16 % 2 ^ 16 = 0
    · rw [if_pos h, if_neg (by omega)]
    · rw [if_neg h, if_pos (by omega)]
  case stn =>
    dsimp only [exec, execStnSel, writeStnSel]
    by_cases h : v.toNat < 2 ^ 6
    · rw [if_pos h, if_neg (by omega)]
    · rw [if_neg h, if_pos (by omega)]
  case ldg =>
    dsimp only [exec, execLdgEntrySel, writeEntrySel]
    by_cases h : v.toNat < 2 ^ 21
    · rw [if_pos h, if_neg (by omega)]
    · rw [if_neg h, if_pos (by omega)]
  case clear =>
    have hb : bitAt v.toNat 7 = true := hv
    dsimp only [exec, execSmpClrCounters, execStnClrCounters, execLdgClrCounters, execPfxClrCounters, execFabClrCounters]
    rw [or_bit7 hv]
    simp only [writeSmpCtrl, writeStnCtrl, writeLdgCtrl, writePfxCtrl, writeFabCtrl, hb, if_true, and_self]

end Sys2Proof.Machine
end

section
/-!
SUPPORT. The fabric (chapter 9): port training, flits, packets performed here and the management packets.
-/
namespace Sys2Proof.Machine

/-! ### Ports -/

/-- A port in state 7 or 8 runs. -/
theorem portUp_iff (s : State) (n : Nat) : portUp s n = true ↔ (portAt s n).state = 7 ∨ (portAt s n).state = 8 := by
  simp [portUp]

/-- Settles O23: each training event in the port's state. -/
theorem fabricPorts : Obligations.FabricPorts := by
  intro s n
  refine ⟨fun v hn => ?enable, fun hn hz he => ?retry, fun h => ?detect, fun h => ?bell, fun ok h hl => ?equalize, fun skew h => ?align,
    fun d h => ?delay, fun h1 h6 => ?timeout, fun h => ?loss, fun hn h => ?hello⟩
  case enable =>
    have hgo : exec (.portEnable n v) s = .next (writePortCfg s n v.toNat) := if_neg (by omega)
    dsimp only
    rw [hgo]
    refine ⟨fun hv hz hf => ?_, fun hv hz => ?_, fun hv hz => ?_, fun hv hz => ?_, fun hv h0 h7 h8 => ?_⟩ <;>
      have hb : bitAt v.toNat 0 = _ := hv <;> simp only [writePortCfg, hb, Bool.false_eq_true, if_true, if_false]
    · rw [if_pos ⟨hz, hf⟩]
    · rw [if_neg (by rintro ⟨h0, hf⟩; rcases hz with h | h <;> simp_all)]
    · rw [if_pos hz]
    · rw [if_neg (by omega), if_pos hz]
    · rw [if_neg h0, if_neg (by omega)]
  case retry =>
    dsimp only [exec, execTrainRetry]
    rw [if_pos ⟨hn, hz, he⟩]
  case detect | bell =>
    dsimp only [exec, execDetect, execBellSync, trainStep]
    rw [if_pos h]
  case equalize =>
    dsimp only [exec, execEqualize, trainStep]
    rw [if_neg hl, if_pos h]
  case align | delay =>
    dsimp only [exec, execAlign, execDelay]
    exact if_pos h
  case timeout =>
    dsimp only [exec, execTrainingTimeout]
    rw [if_pos ⟨h1, h6⟩]
  case loss =>
    dsimp only [exec, execLinkLoss]
    rw [if_pos ((portUp_iff s n).mpr h)]
  case hello =>
    dsimp only [exec, execHelloTimer]
    rw [if_pos ⟨hn, h⟩]

/-! ### Flits -/

/-- A byte string of the length already. -/
theorem padTo_of_length {n : Nat} {bs : List Byte} (h : bs.length = n) : padTo n bs = bs := by
  subst h
  simp [padTo]

/-- A good flit of a running port, by its lane and its sequence. -/
theorem flitReceive_good {s : State} {n symbols : Nat} {bytes : List Byte} (hn : n < 16) (hst : 6 ≤ (portAt s n).state)
    (hlen : bytes.length = 128) (hgood : fieldAt bytes 124 4 = crc32 (bytes.take 124)) :
    exec (.flitReceive n bytes true symbols) s =
      (let h := fieldAt bytes 0 4
       let lane := bitsOf h 29 3
       let body := (bytes.drop 4).take 120
       let s1 := bump (bump s (Reg.FAB_PORT_RX n) 0 64 1) (Reg.FAB_PORT_FEC n) 32 32 symbols
       let s5 := modPort (takeTolls s1 n h) n fun p => { p with rxSeq := (bitsOf h 14 12 + 1) % 4096 }
       let k := if bitAt h 28 then 0 else match (portAt s5 n).part.find? fun t => t.lane = lane with | some t => t.bytes.length / 120 | none => 0
       if lane = 0 then .next (joinFlit (takeTolls s1 n h) n 0 (bitAt h 28) (bitAt h 27) (bitAt h 26) false body)
       else if lane = 6 then .next (takeControl s1 n (bitsOf (fieldAt body 0 2) 0 12) (bitAt (fieldAt body 2 1) 0) h)
       else if lane = 7 then .next s1
       else if bitsOf h 14 12 ≠ (portAt s1 n).rxSeq then .next s1
       else .next (joinFlit (sendControl s5 n (bitsOf h 14 12) false lane (if k < packetHold lane then 0 else 1)) n lane (bitAt h 28) (bitAt h 27)
         false false body)) := by
  dsimp only [exec, execFlitReceive]
  rw [if_neg (by omega), padTo_of_length hlen]
  simp only [hgood, beq_self_eq_true, Bool.and_self, Bool.not_true, Bool.false_or, Bool.false_and, Bool.false_eq_true, if_false, if_true] <;>
    rfl

/-- A flit with an uncorrectable codeword of a running port. -/
theorem flitReceive_bad {s : State} {n symbols : Nat} {bytes : List Byte} (hn : n < 16) (hst : 6 ≤ (portAt s n).state)
    (hlen : bytes.length = 128) : exec (.flitReceive n bytes false symbols) s =
      (let h := fieldAt bytes 0 4
       let s1 := bump (bump s (Reg.FAB_PORT_RX n) 0 64 1) (Reg.FAB_PORT_FEC n) 32 32 symbols
       let u := bump (setRegBit (bump s1 (Reg.FAB_PORT_FEC n) 0 32 1) Reg.FAB_ERR 0) (Reg.FAB_PORT_REPLAY n) 0 32 1
       if bitsOf h 29 3 = 0 then .next (joinFlit u n 0 (bitAt h 28) (bitAt h 27) true (bitAt h 28) ((bytes.drop 4).take 120))
       else .next (sendControl u n (portAt u n).rxSeq true 0 0)) := by
  dsimp only [exec, execFlitReceive]
  rw [if_neg (by omega), padTo_of_length hlen]
  simp only [Bool.false_and, Bool.not_false, Bool.true_or, Bool.true_and, Bool.false_eq_true, if_false, if_true]

/-- Settles O24: a flit by its check and its lane, and the packets that go on. -/
theorem fabricFlits : Obligations.FabricFlits := by
  intro s
  refine ⟨fun n bytes symbols hn hst hlen => ?flit, fun n seq nak lane tolls hn hst hs hl ht => ?control,
    fun n hf hp => ⟨fun q hq => ?forward, fun hq => ?retry⟩, fun w hw => ?escape, fun w hw hsrc => ?wait,
    fun i r hr => ⟨fun hk ht => ?again, fun hk ht => ?last, fun h1 h3 => ?other⟩⟩
  case flit =>
    have hseq : fieldAt bytes 0 4 / 2 ^ 14 % 2 ^ 12 = bitsOf (fieldAt bytes 0 4) 14 12 := (bitsOf_eq _ _ _).symm
    have hlane : fieldAt bytes 0 4 / 2 ^ 29 % 8 = bitsOf (fieldAt bytes 0 4) 29 3 := (bitsOf_eq (fieldAt bytes 0 4) 29 3).symm
    have hack : fieldAt ((bytes.drop 4).take 120) 0 2 % 2 ^ 12 = bitsOf (fieldAt ((bytes.drop 4).take 120) 0 2) 0 12 := by
      rw [bitsOf_eq, Nat.pow_zero, Nat.div_one]
    dsimp only
    rw [hseq, hlane, hack]
    refine ⟨fun hg h0 => ?_, fun hg h1 h5 hq => ?_, fun hg h1 h5 hq => ?_, fun hg h6 => ?_, fun h0 => ?_, fun h0 => ?_⟩
    · rw [flitReceive_good hn hst hlen hg]
      dsimp only
      rw [if_pos h0]
    · rw [flitReceive_good hn hst hlen hg]
      dsimp only
      rw [if_neg (by omega), if_neg (by omega), if_neg (by omega), if_neg (not_not.mpr hq)] <;>
        rfl
    · rw [flitReceive_good hn hst hlen hg]
      dsimp only
      rw [if_neg (by omega), if_neg (by omega), if_neg (by omega), if_pos hq]
    · rw [flitReceive_good hn hst hlen hg]
      dsimp only
      rw [if_neg (by omega), if_pos h6]
    · rw [flitReceive_bad hn hst hlen]
      dsimp only
      rw [if_pos h0]
    · rw [flitReceive_bad hn hst hlen]
      dsimp only
      rw [if_neg h0]
  case control =>
    dsimp only [exec, execControlFlit]
    rw [if_neg (by omega), Nat.mod_eq_of_lt hs, Nat.mod_eq_of_lt hl, Nat.mod_eq_of_lt ht]
  case forward | retry =>
    have hopen : ¬ (s.flt.fault.isSome || decide (3 ≤ regField s Reg.PWR_STATE 5 3)) = true := by
      simp only [hf, Option.isSome_none, Bool.false_or, decide_eq_true_eq]; omega
    dsimp only [exec, execFabForward]
    rw [if_neg hopen]
    simp only [hq, unbox]
  case escape =>
    dsimp only [exec, execEscapeTimeout]
    simp only [hw]
  case wait =>
    dsimp only
    rintro ⟨hc, he⟩
    dsimp only [exec, execRouteWaitTimeout]
    have hany : (candidates (reg s (Reg.FAB_ROUTE (pkDest w.bytes)))).any (portUp s) = false := by simpa using hc
    have hesc : portUp s (bitsOf (reg s (Reg.FAB_ROUTE (pkDest w.bytes))) 7 4) = false := by rw [bitsOf_eq]; exact he
    simp only [hw, List.find?_cons, hany, hesc, Bool.not_false, Bool.and_self, Bool.true_or, List.erase_cons_head]
  case again =>
    dsimp only [exec, execBulkResponseTimeout]
    simp only [hr]
    rw [if_pos ⟨hk, ht⟩]
  case last =>
    dsimp only [exec, execBulkResponseTimeout]
    simp only [hr]
    rw [if_neg (by omega)]
  case other =>
    dsimp only [exec, execBulkResponseTimeout]
    simp only [hr]
    rw [if_neg (by rintro ⟨h | h, _⟩ <;> contradiction)]

/-! ### Packets performed here -/

/-- A response ends the request that it names. -/
theorem takeResp_eq {s : State} {q : RxPkt} {r : OutReq} (h : (s.fab.reqs.find? fun r => r.id = pkId q.bytes) = some r) :
    takeResp s q = finishReq s r (pkOp q.bytes) (pkPayload q.bytes) := by
  rw [takeResp, h]

/-- A packet that R350 refuses. -/
theorem refusedSender_iff (s : State) (p : List Byte) : refusedSender s p = true ↔
    (pkClass p = 1 ∨ fromMember s (pkSrc p) = false) ∧ permitted s (pkSrc p) = false := by
  simp [refusedSender]

/-- Settles O25: each packet by its sender's permit and its range. -/
theorem fabricPackets : Obligations.FabricPackets := by
  intro s n q s1
  refine ⟨fun hp => ?write, fun hp => ?wack, fun hp => ?read, fun r hp hr => ?readResp, fun r hp hr => ?atomicResp, fun hp => ?atomic,
    fun hp => ?tree, fun hp hu => ?leave⟩
  case write =>
    dsimp only
    refine ⟨fun hd => ?_, fun hd hr => ?_, fun hc hs hr => ?_, fun hc hd hr => ?_⟩ <;> dsimp only [exec, execFabWrite] <;> simp only [hp]
    · rw [if_pos ((refusedSender_iff _ _).mpr hd)]
    · rw [if_neg (mt (refusedSender_iff _ _).mp hd), if_pos hr]
    · rw [if_neg (by rw [refusedSender_iff]; simp [hs]), if_neg (by simp [hr]), if_neg (by simp [hc])]
    · rw [if_neg (mt (refusedSender_iff _ _).mp hd), if_neg (by simp [hr]), if_pos hc]
  case wack =>
    refine ⟨fun hc => ?_, fun r hc hr => ?_⟩ <;> dsimp only [exec, execFabWack] <;> simp only [hp]
    · rw [if_pos hc]
    · rw [if_neg (by simp [hc]), takeResp_eq hr]
  case read =>
    dsimp only
    refine ⟨fun hs => ?_, fun hs hr => ?_, fun hs hr => ?_⟩ <;> dsimp only [exec, execFabRead] <;> simp only [hp, hs]
    · rfl
    · simp only [hr, Bool.not_true, Bool.false_eq_true, if_false, if_true]
    · simp only [hr, Bool.not_true, Bool.false_eq_true, if_false]
  case readResp =>
    dsimp only [exec, execFabReadResp]
    simp only [hp, takeResp_eq hr]
  case atomicResp =>
    dsimp only [exec, execFabAtomicResp]
    simp only [hp, takeResp_eq hr]
  case atomic =>
    dsimp only
    refine ⟨fun hs => ?_, fun hs hr => ?_, fun hs hr ha => ⟨fun s2 he => ?_, fun he => ?_⟩⟩ <;>
      dsimp only [exec, execFabAtomic] <;> simp only [hp, unbox, hs]
    · rfl
    · simp only [hr, Bool.not_true, Bool.false_eq_true, if_false, if_true]
    · simp only [hr, ha, he, Bool.not_true, Bool.false_eq_true, Bool.true_eq_false, or_self, if_false]
    · simp only [hr, ha, he, Bool.not_true, Bool.false_eq_true, Bool.true_eq_false, or_self, if_false]
  case tree =>
    dsimp only
    refine ⟨fun hd => ?_, fun hd hr => ?_, fun hd hr hm => ?_, fun hd hr hm => ?_⟩ <;> dsimp only [exec, execFabTree] <;> simp only [hp]
    · rw [if_pos ((refusedSender_iff _ _).mpr hd)]
    · rw [if_neg (mt (refusedSender_iff _ _).mp hd), if_pos hr]
    · rw [if_neg (mt (refusedSender_iff _ _).mp hd), if_neg (by simp [hr]), if_neg (by simp [hm])]
    · rw [if_neg (mt (refusedSender_iff _ _).mp hd), if_neg (by simp [hr]), if_pos hm]
  case leave =>
    dsimp only [exec, execFabLeave]
    simp only [hp, hu, if_true]

/-! ### Management packets -/

/-- Settles O26: each management packet by the claim, the peer and the caravan. -/
theorem fabricManagement : Obligations.FabricManagement := by
  intro s n q s1
  refine ⟨fun hp => ?hello, fun hp => ?read, fun hp => ?write, fun r hp hr => ?resp, fun hp => ?notice, fun hp => ?claim⟩
  case hello =>
    dsimp only
    refine ⟨fun h6 hb => ?_, fun hb => ?_⟩ <;> dsimp only [exec, execMgmtHello] <;> simp only [hp]
    · by_cases hl : (portAt s1 n).lanes = 0xFF
      · simp only [h6, hb, hl, if_true, and_self, decide_true, Bool.true_and]
      · simp only [h6, hb, hl, if_true, if_false, and_self, decide_false, Bool.false_and]
        rfl
    · rw [if_neg (by rintro ⟨h6, hf⟩; rcases hb with h | h <;> simp_all)]
      by_cases h6 : (portAt s1 n).state = 6
      · by_cases hl : (portAt s1 n).lanes = 0xFF
        · simp only [h6, hl, if_true, decide_true, Bool.true_and]
        · simp only [h6, hl, if_true, if_false, decide_false, Bool.false_and]
          rfl
      · simp only [h6, if_false]
  case read =>
    dsimp only [exec, execMgmtRead]
    simp only [hp]
  case write =>
    dsimp only
    refine ⟨fun hok => ?_, fun hok => ?_⟩ <;> dsimp only [exec, execMgmtWrite] <;> simp only [hp]
    · rw [if_pos (by simpa [and_assoc] using hok)]
    · rw [if_neg (by simpa [and_assoc] using hok)]
  case resp =>
    dsimp only [exec, execMgmtResp]
    simp only [hp, takeResp_eq hr]
  case notice =>
    dsimp only
    refine ⟨fun h => ?_, fun c hc hi => ?_, fun c hc hi => ⟨fun h => ?_, fun h => ?_⟩⟩ <;> dsimp only [exec, execMgmtNotice] <;> simp only [hp]
    · cases hc : s1.itn.caravan with
      | none => rfl
      | some c =>
        obtain ⟨h1, h2⟩ := h.resolve_left (by simp [hc])
        simp only [h1, h2, or_self, and_false, if_false]
    · simp only [hc, hi, false_and, if_false]
    · simp only [hc, hi, h, true_or, and_self, if_true]
    · simp only [hc, hi, h, or_true, and_self, if_true]
      rfl
  case claim =>
    have hok : (!bitAt (reg s1 Reg.FAB_MANAGER) 11 || decide (bitsOf (reg s1 Reg.FAB_MANAGER) 32 32 < fieldAt (pkPayload q.bytes) 0 4) ||
        (fieldAt (pkPayload q.bytes) 0 4 == bitsOf (reg s1 Reg.FAB_MANAGER) 32 32 &&
          decide (fieldAt (pkPayload q.bytes) 8 8 < s1.fab.claimSerial))) = true ↔
        regBit s1 Reg.FAB_MANAGER 11 = false ∨ regField s1 Reg.FAB_MANAGER 32 32 < fieldAt (pkPayload q.bytes) 0 4 ∨
          (fieldAt (pkPayload q.bytes) 0 4 = regField s1 Reg.FAB_MANAGER 32 32 ∧ fieldAt (pkPayload q.bytes) 8 8 < s1.fab.claimSerial) := by
      simp [regBit, regField, or_assoc]
    dsimp only
    refine ⟨fun h => ?_, fun h => ?_⟩ <;> dsimp only [exec, execMgmtClaim] <;> simp only [hp]
    · rw [if_pos (hok.mpr h)]
    · rw [if_neg (mt hok.mp h)]

end Sys2Proof.Machine
end

section
/-!
SUPPORT. The host link and the DMA engine (chapter 13): link events, the PCI_ and channel registers, and descriptors.
-/
namespace Sys2Proof.Machine

/-! ### Link events and registers -/

/-- Settles O28: each event of the link in the branch that its operands choose. -/
theorem linkEvents : Obligations.LinkEvents := by
  intro s
  refine ⟨fun v h1 h2 => ?flr, ⟨rfl, rfl⟩, fun h => ?reset, fun h => ?still, ?release, fun rate width flit hr hw => ?trained,
    fun fn => ⟨rfl, rfl⟩, fun n hn => ⟨fun h => ?vfs, fun h => ?vfsOver, ?vfsOff⟩, fun k hk => ?bar2, fun fn k h1 h2 hk => ?vfBar2,
    fun fn vec hv => ⟨fun h => ?pending, fun h => ?quiet⟩⟩
  case flr => exact if_neg (by omega)
  case reset =>
    dsimp only [exec, execModPerstN]
    rw [if_pos (by rw [h]; rfl)]
  case still =>
    have hsame : { s.pwr with perst := true } = s.pwr := by rw [← h]
    dsimp only [exec, execModPerstN]
    rw [if_neg (by simp [h]), hsame]
  case release => rfl
  case trained =>
    dsimp only [exec, execHostLinkTrained]
    rw [Nat.mod_eq_of_lt hr, Nat.mod_eq_of_lt hw]
    cases flit <;> rfl
  case vfs =>
    dsimp only [exec, execVfEnable]
    rw [if_neg (by omega), if_neg (by omega)]
    rfl
  case vfsOver =>
    dsimp only [exec, execVfEnable]
    rw [if_neg (by omega), if_pos ⟨rfl, h⟩]
    rfl
  case vfsOff =>
    dsimp only [exec, execVfEnable]
    rw [if_neg (by omega), if_neg (by simp)]
    rfl
  case bar2 =>
    dsimp only [exec, execBar2Resize]
    rw [if_pos rfl, if_neg (by omega)]
    by_cases h : regField s Reg.PCI_BAR2_BASE 0 10 % 2 ^ k = 0
    · rw [if_pos h, if_neg (not_not.mpr h)]
    · rw [if_neg h, if_pos h]
  case vfBar2 =>
    dsimp only [exec, execBar2Resize]
    rw [if_neg (by omega), if_neg (by omega)]
  case pending | quiet =>
    dsimp only [exec, execVectorUnmask, maskVector]
    rw [if_neg (by simpa [vectorCount] using hv)]
    simp only [List.contains_eq_mem, h, decide_true, decide_false, Bool.false_eq_true, if_true, if_false]

/-- Settles O29: each register write in the branch that its value and its channel choose. -/
theorem linkRegisters : Obligations.LinkRegisters := by
  intro s v
  refine ⟨fun h => ?wait, fun h => ?base, fun h => ?none, fun h hv => ?cfg, fun h he hv => ?keep, fun n h1 h2 => ?xlat, ⟨rfl, rfl⟩,
    fun c hc => ?chan⟩
  case wait => exact congrArg Host.Outcome.next (if_pos h)
  case base =>
    dsimp only [exec, execPciBar2Base, writeBar2Base]
    rw [h]
    by_cases hb : v.toNat % 2 ^ 10 % 2 ^ s.pci.bar2Log = 0
    · rw [if_neg Bool.false_ne_true, if_neg (not_not.mpr hb), if_pos hb]
    · rw [if_neg Bool.false_ne_true, if_pos hb, if_neg hb]
  case none => exact congrArg Host.Outcome.next (if_pos h)
  case cfg =>
    dsimp only [exec, execPciVfCfg, writeVfCfg]
    rw [if_neg h, if_neg]
    rintro ⟨he, hn⟩
    rcases hv with hv | hv
    · exact absurd he (by simp [hv])
    · exact hn hv
  case keep =>
    dsimp only [exec, execPciVfCfg, writeVfCfg]
    rw [if_neg h, if_pos ⟨he, hv⟩]
  case xlat => exact if_neg (by omega)
  case chan =>
    have hmod : c % 32 = c := Nat.mod_eq_of_lt hc
    dsimp only [exec, execDmaChanCfg, execDmaChanValue, execDmaChanFeed, execFeedProcess]
    rw [hmod]
    refine ⟨fun hf hv => ?_, fun hf => ?_, fun hf => ?_, fun hf => ?_, fun n hn => ⟨fun ha hl => ?_, fun ha hl => ?_, fun ha => ?_⟩, ?_,
      fun b q hq => ?_⟩
    · rw [writeChanCfg, if_neg (by simp [hf]; omega)]
    · rw [writeChanCfg, if_pos (by simpa using hf)]
    · rw [writeChanValue, if_neg (by simp [hf])]
    · rw [writeChanValue, if_pos (by simp [hf])]
    · rw [writeChanFeed, if_neg (by omega), if_neg (by omega), if_neg (by simp [ha]), if_pos hl]
    · rw [writeChanFeed, if_neg (by omega), if_neg (by omega), if_neg (by simp [ha]), if_neg (by omega)]
    · rw [writeChanFeed, if_neg (by omega), if_neg (by omega), if_pos (by simp [ha])]
    · rw [writeChanFeed, if_pos rfl]
    · rw [feedOne, hq]
      rfl

/-! ### Descriptors -/

/-- A descriptor that a write hold keeps back waits whole. -/
theorem performDesc_held {s : State} {q i : Nat} {hv : HostView} {dead : Bool} {d : BitVec 512} (hd : queueDesc s q i = some d)
    (hh : descHeld s q hv dead d = true) (op : Nat) : performDesc s q i op hv dead = s := by
  simp only [performDesc, hd]
  rw [if_pos (Or.inr (Or.inr hh))]

/-- A ready descriptor that waits for other modules goes on with their answers. -/
theorem performDesc_waiting {s : State} {q i : Nat} {hv : HostView} {dead : Bool} {d : BitVec 512} {w : Nat × List Nat}
    (hd : queueDesc s q i = some d) (hr : descReady s q i d = true) (hh : descHeld s q hv dead d = false)
    (hw : ((runAt s q).waiting.find? fun w => w.1 = i) = some w) :
    performDesc s q i (dOp d) hv dead = resumeDesc s q i hv dead d w.2 := by
  simp only [performDesc, hd]
  rw [if_neg (by simp [hr, hh])]
  simp only [hw]

/-- The state in which a descriptor that has not started works: an itinerary's item begins. -/
def descStart (s s0 : State) (q i : Nat) : Prop :=
  16 ≤ q ∧ s0 = s ∨ (q < 16 ∧ ∃ x, ((itinItems s).find? fun x => x.id = i) = some x ∧ s0 = beginItem s x)

/-- A ready descriptor that has not started is performed by its operation. -/
theorem performDesc_fresh {s s0 : State} {q i : Nat} {hv : HostView} {dead : Bool} {d : BitVec 512} (hd : queueDesc s q i = some d)
    (hr : descReady s q i d = true) (hh : descHeld s q hv dead d = false) (hw : ((runAt s q).waiting.find? fun w => w.1 = i) = none)
    (hs : descStart s s0 q i) :
    performDesc s q i (dOp d) hv dead =
      if dOp d = 6 then descDone (chanSet (feedAll s0 (dChan d)) (dChan d) (dF d 40 0 64)) q i false false .none
      else if dOp d = 8 then descDone s0 q i false false .none
      else
        let ps := sidePieces s0 (queueFn s0 q) hv dead d false
        if ps.1.any (·.isFab) then setWaiting (requestPieces ps.2 q ps.1).2 q i (requestPieces ps.2 q ps.1).1
        else
          let x := readPiecesD ps.2 (if dOp d = 2 then .stream else hintOf (dF d 2 0 2)) hv dead ps.1 []
          deliverDesc x.2.2 q i hv dead d x.1 x.2.1 := by
  simp only [performDesc, hd]
  rw [if_neg (by simp [hr, hh])]
  rcases hs with ⟨hq, rfl⟩ | ⟨hq, x, hx, rfl⟩
  · simp only [hw, if_neg (show ¬ q < 16 by omega)]
  · simp only [hw, if_pos hq, hx]

/-- A descriptor that reads its source: delivered where no piece is on another module, else waiting for its requests. -/
theorem performDesc_read {s s0 : State} {q i fn : Nat} {hv : HostView} {dead : Bool} {d : BitVec 512} (hd : queueDesc s q i = some d)
    (hr : descReady s q i d = true) (hh : descHeld s q hv dead d = false) (h6 : dOp d ≠ 6) (h8 : dOp d ≠ 8)
    (hf : ((runAt s q).waiting.find? fun w => w.1 = i) = none ∧ fn = queueFn s0 q ∧ descStart s s0 q i) :
    let ps := sidePieces s0 fn hv dead d false
    let x := readPiecesD ps.2 (if dOp d = 2 then .stream else hintOf (dF d 2 0 2)) hv dead ps.1 []
    let out := requestPieces ps.2 q ps.1
    ((∀ p ∈ ps.1, p.isFab = false) → performDesc s q i (dOp d) hv dead = deliverDesc x.2.2 q i hv dead d x.1 x.2.1) ∧
    ((∃ p ∈ ps.1, p.isFab = true) → performDesc s q i (dOp d) hv dead = setWaiting out.2 q i out.1) := by
  obtain ⟨hw, rfl, hs⟩ := hf
  dsimp only
  rw [performDesc_fresh hd hr hh hw hs, if_neg h6, if_neg h8]
  exact ⟨fun h => if_neg (by simpa using h), fun h => if_pos (by simpa using h)⟩

/-- Settles O30: a descriptor that is held, waits, or is performed, by its operation. -/
theorem dmaDescriptors : Obligations.DmaDescriptors := by
  intro s s0 q i fn hv d hq hd hr
  have hmod : q % 32 = q := Nat.mod_eq_of_lt hq
  dsimp only
  refine ⟨fun hf ho hh => ?load, fun hf ho hh => ?fence, fun x hx ho => ?ops, fun hh ho hf hp => ?timeout⟩
  case load =>
    obtain ⟨hw, _, hs⟩ := hf
    have hgo := performDesc_fresh hd hr hh hw hs
    rw [ho, if_pos rfl] at hgo
    dsimp only [exec, execChanLoad]
    rw [hmod, hgo]
  case fence =>
    obtain ⟨hw, _, hs⟩ := hf
    have hgo := performDesc_fresh hd hr hh hw hs
    rw [ho, if_neg (by decide), if_pos rfl] at hgo
    dsimp only [exec, execDmaFence]
    rw [hmod, hgo]
  case ops =>
    have hrow : exec x.2.1 s = .next (performDesc s q i x.1 x.2.2 false) ∧ x.1 ≠ 6 ∧ x.1 ≠ 8 := by
      simp only [List.mem_cons, List.not_mem_nil, or_false] at hx
      rcases hx with rfl | rfl | rfl | rfl | rfl <;>
        refine ⟨?_, by simp, by simp⟩ <;>
        dsimp only [exec, execCopy, execGather, execScatter, execConvert, execChanStore] <;>
        rw [hmod]
    obtain ⟨hgo, h6, h8⟩ := hrow
    rw [hgo]
    rw [← ho] at h6 h8 ⊢
    refine ⟨fun hh => by rw [performDesc_held hd hh], fun hh => ⟨fun hf hp => ?_, fun hf hp => ?_, fun w hw => ?_⟩⟩
    · rw [(performDesc_read hd hr hh h6 h8 hf).1 hp]
    · rw [(performDesc_read hd hr hh h6 h8 hf).2 hp]
    · rw [performDesc_waiting hd hr hh hw]
  case timeout =>
    have hside : dSsp d = 1 ∧ (dOp d = 1 ∨ dOp d = 2 ∨ dOp d = 3 ∨ dOp d = 4) ∨ dLsp d = 1 := ho.imp id fun h => h.1
    have hop : dOp d ≠ 6 ∧ dOp d ≠ 8 := by
      rcases ho with ⟨_, ho⟩ | ⟨_, ho⟩
      · omega
      · exact ho
    dsimp only [exec, execCompletionTimeout]
    rw [hmod]
    simp only [hd]
    rw [if_pos hside, (performDesc_read hd hr hh hop.1 hop.2 hf).1 hp]

end Sys2Proof.Machine
end

section
/-!
SUPPORT. Power and coolant (chapter 14): the inputs, the wake, deferred writes, and the watchman's samples.
-/
namespace Sys2Proof.Machine

/-! ### Inputs -/

/-- A POWER_SET to DORMANT or OFF is in progress. -/
theorem goingDown_iff (s : State) : goingDown s = true ↔ ∃ c ∈ s.cmd.inProg, c.op = 0x0106 ∧ 3 ≤ nth c.args 0 0 := by
  simp [goingDown]

/-- Settles O31: each event of the inputs in the branch that the power state chooses. -/
theorem powerInputs : Obligations.PowerInputs := by
  intro s
  refine ⟨fun on => ?wake, fun volts hv => ?standby, ⟨fun h => ?losing, fun h ho => ?off, fun h ho => ?loss⟩,
    fun n h => ⟨fun hf => ?endWrite, fun hf => ?endShut⟩, fun volts hv => ⟨fun h => ?low, fun h => ?back⟩, fun energy capacity he hc => ?holdup,
    fun hf hr => ⟨fun h => ?items, fun h hp => ?retired, fun h hp hd => ?record, fun h hp hd => ?ageing⟩⟩
  case wake =>
    dsimp only [exec, execModWakeN, requestWake]
    simp only [goingDown_iff]
    by_cases ha : on = true ∧ s.pwr.wakePin = false
    · rw [if_pos (by simp [ha.1, ha.2])]
      simp only [ha.1, ha.2, true_and]
    · rw [if_neg (by simpa using ha), if_neg (fun h => ha ⟨h.1, h.2.1⟩)]
  case standby =>
    dsimp only [exec, execStandbyChange]
    rw [Nat.min_eq_left (show volts ≤ 65535 by omega)]
    simp only [Bool.and_eq_true, Bool.not_eq_true', beq_iff_eq, and_assoc]
  case losing =>
    dsimp only [exec, execInputLoss]
    rw [if_pos h]
  case off =>
    dsimp only [exec, execInputLoss]
    rw [if_neg (by simp [h]), if_pos ho]
  case loss =>
    dsimp only [exec, execInputLoss]
    rw [if_neg (by simp [h]), if_neg ho]
  case endWrite =>
    dsimp only [exec, execInputLossEnd]
    simp only [h, hf, Bool.not_true, Bool.false_eq_true, if_false, if_true, true_and, decide_eq_true_eq, Bool.or_eq_true]
  case endShut =>
    dsimp only [exec, execInputLossEnd]
    simp only [h, hf, Bool.not_true, Bool.false_eq_true, false_and, if_false, Bool.or_eq_true]
  case low =>
    dsimp only [exec, execInputReturn]
    rw [Nat.min_eq_left (show volts ≤ 65535 by omega), if_pos h]
  case back =>
    dsimp only [exec, execInputReturn]
    rw [Nat.min_eq_left (show volts ≤ 65535 by omega), if_neg (by omega)]
  case holdup =>
    dsimp only [exec, execHoldupOkChange]
    rw [Nat.min_eq_left (show energy ≤ 65535 by omega), Nat.min_eq_left (show capacity ≤ 65535 by omega)]
    simp only [b2n]
    by_cases hk : decide (1200 ≤ energy) = regBit s Reg.HLD_STATUS 2
    · rw [if_pos hk, if_pos hk]
    · rw [if_neg hk, if_neg hk]
      by_cases h12 : 1200 ≤ energy
      · simp only [h12, decide_true, if_true]
      · simp only [h12, decide_false, Bool.false_eq_true, if_false]
  all_goals
    dsimp only [exec, execDeferredFlashWrite]
    rw [if_neg (by simp [hf, hr])]
  case items => rw [if_pos h]
  case retired => rw [if_neg (not_not.mpr h), if_pos hp]
  case record => rw [if_neg (not_not.mpr h), if_neg (not_not.mpr hp), if_pos hd]
  case ageing => rw [if_neg (not_not.mpr h), if_neg (not_not.mpr hp), if_neg (by simp [hd])]

/-! ### The watchman -/

/-- The excursion after a sample: how many samples it is old, and whether it begins, goes on or ends. -/
def sampleEnd (s s2 : State) (above : Bool) : State :=
  let on := regBit s Reg.PWR_BUDGET 0
  let age := if on then s.pwr.excur + 1 else 0
  let s3 := { s2 with pwr := { s2.pwr with quiet := if above then 0 else min (s.pwr.quiet + 1) 10000, excur := age } }
  if above && !on && runActive s && decide (10000 ≤ s.pwr.quiet) then bump (setRegBit s3 Reg.PWR_BUDGET 0) Reg.PWR_BUDGET 32 32 1
  else if on && (!above || !runActive s || decide (2000 ≤ age)) then setField s3 Reg.PWR_BUDGET 0 1 0 else s3

/-- A sample above the limit, outside an excursion. -/
theorem sampleEnd_above_off {s : State} (s2 : State) (h : regBit s Reg.PWR_BUDGET 0 = false) :
    sampleEnd s s2 true =
      let s3 := { s2 with pwr := { s2.pwr with quiet := 0, excur := 0 } }
      if runActive s && decide (10000 ≤ s.pwr.quiet) then bump (setRegBit s3 Reg.PWR_BUDGET 0) Reg.PWR_BUDGET 32 32 1 else s3 := by
  simp [sampleEnd, h]

/-- A sample above the limit, in an excursion. -/
theorem sampleEnd_above_on {s : State} (s2 : State) (h : regBit s Reg.PWR_BUDGET 0 = true) :
    sampleEnd s s2 true =
      let s3 := { s2 with pwr := { s2.pwr with quiet := 0, excur := s.pwr.excur + 1 } }
      if runActive s = false ∨ 2000 ≤ s.pwr.excur + 1 then setField s3 Reg.PWR_BUDGET 0 1 0 else s3 := by
  simp [sampleEnd, h]

/-- A sample at or below the limit ends an excursion. -/
theorem sampleEnd_below (s s2 : State) :
    sampleEnd s s2 false =
      let on := regBit s Reg.PWR_BUDGET 0
      let s3 := { s2 with pwr := { s2.pwr with quiet := min (s.pwr.quiet + 1) 10000, excur := if on then s.pwr.excur + 1 else 0 } }
      if on then setField s3 Reg.PWR_BUDGET 0 1 0 else s3 := by
  simp [sampleEnd]

/-- Settles O32: each sample and interval of the watchman. -/
theorem watchman : Obligations.Watchman := by
  intro s
  refine ⟨fun m c k h => ?sample, ?budget, fun u took hr => ?duty, fun v hv => ?clear, fun i t hp h1 h2 => ?sensor, fun f hf => ?coolant,
    fun hb hl => ?flow, fun v => ⟨fun h => ?late, fun h => ?announce⟩⟩
  case sample =>
    intro o n counts s1 s2 above on age quiet
    have key : exec (.powerSample m c k h) s = .next (sampleEnd s s2 (decide above)) := rfl
    rw [key]
    refine ⟨fun ha ho hr hq => ?_, fun ha ho hr => ?_, fun ha ho => ?_, fun ha => ?_⟩
    · simp only [decide_eq_true ha, sampleEnd_above_off s2 ho, hr, hq, decide_true, Bool.and_self, if_true, quiet, age, ho, Bool.false_eq_true, if_false]
    · have hn : (runActive s && decide (10000 ≤ s.pwr.quiet)) = false := by
        rcases hr with hr | hq
        · simp [hr]
        · simp; omega
      simp only [decide_eq_true ha, sampleEnd_above_off s2 ho, hn, quiet, age, ho, Bool.false_eq_true, if_false]
    · simp only [decide_eq_true ha, sampleEnd_above_on s2 ho, quiet, age, ho, if_true]
    · simp only [decide_eq_false ha, sampleEnd_below]
      rfl
  case budget =>
    dsimp only [exec, execBudgetInterval, refreshNeed]
    simp only [Bool.and_eq_true] <;> rfl
  case duty =>
    dsimp only [exec, execDutyDelay]
    rw [if_neg (by simp [hr])]
  case clear =>
    have hor : v.toNat ||| 0x80 = v.toNat := congrArg BitVec.toNat (or_bit7 hv)
    have hb : bitAt v.toNat 7 = true := hv
    dsimp only [exec, execPwrClrCounters, writePwrCtrl]
    rw [hor, if_pos hb]
  case sensor => exact if_neg (by simp only [hp, Bool.true_eq_false, false_or]; omega)
  case coolant =>
    dsimp only [exec, execCoolantUpdate]
    rw [Nat.min_eq_left (show f ≤ 65535 by omega)] <;> rfl
  case flow => exact if_neg (by simp only [hl, Bool.false_eq_true, or_false]; omega)
  case late =>
    dsimp only [exec, execColAnnounce, writeAnnounce]
    rw [bitsOf_eq, Nat.pow_zero, Nat.div_one, if_pos h]
  case announce =>
    dsimp only [exec, execColAnnounce, writeAnnounce]
    rw [bitsOf_eq, Nat.pow_zero, Nat.div_one, if_neg (by omega)]

end Sys2Proof.Machine
end

section
/-!
SUPPORT. The depot (chapter 15): its operations by the state of a queue, the queue settings, the collectors and the monitors.
-/
namespace Sys2Proof.Machine

/-! ### The operations of the depot -/

/-- A PUSH of another epoch is stale. -/
theorem depPush_stale {s : State} {q epoch : Nat} (w : Nat) (p : Bool) (h : epoch ≠ (queueAt s q).epoch) :
    depPush s q w p epoch = (.stale, s) := if_pos h

/-- A PUSH without room. -/
theorem depPush_full {s : State} {q epoch : Nat} (w : Nat) (p : Bool) (h : epoch = (queueAt s q).epoch)
    (hf : s.dep.fault = true ∨ (queueAt s q).limit ≤ (queueAt s q).cells.length) : depPush s q w p epoch = (.full, s) :=
  (if_neg (not_not.mpr h)).trans (if_pos hf)

/-- A PUSH with room appends its cell. -/
theorem depPush_ok {s : State} {q epoch : Nat} (w : Nat) (p : Bool) (h : epoch = (queueAt s q).epoch)
    (hf : s.dep.fault = false) (hr : (queueAt s q).cells.length < (queueAt s q).limit) :
    depPush s q w p epoch = (.ok, setQueue s q (appendCells (queueAt s q) [mkCell w p])) := by
  unfold depPush
  rw [if_neg (not_not.mpr h), if_neg (by simp only [hf, Bool.false_eq_true, false_or]; omega)]

/-- An empty queue answers no cell. -/
theorem popCell_nil {s : State} {q : Nat} (h : (queueAt s q).cells = []) : popCell s q = ((0, false, false), s) := by
  simp [popCell, depPop, h]

/-- A head cell of right parity is answered as it stands. -/
theorem popCell_intact {s : State} {q : Nat} {c : DCell} {cs : List DCell} (hf : s.dep.fault = false) (h : (queueAt s q).cells = c :: cs)
    (hp : c.parity = cellParity c.word c.valid c.poison) :
    popCell s q = ((c.word.toNat, c.valid, c.poison), setQueue s q { queueAt s q with cells := cs }) := by
  simp [popCell, depPop, h, hf, hp]

/-- A head cell of wrong parity is answered poisoned, counted and announced. -/
theorem popCell_corrupt {s : State} {q : Nat} {c : DCell} {cs : List DCell} (hf : s.dep.fault = false) (h : (queueAt s q).cells = c :: cs)
    (hp : c.parity ≠ cellParity c.word c.valid c.poison) :
    popCell s q = ((c.word.toNat, c.valid, true),
      raiseIf (setRegBit (setQueue s q { queueAt s q with cells := cs, parityFails := min ((queueAt s q).parityFails + 1) 0xFFFF }) Reg.DEP_ERR 1)
        Reg.DEP_CTRL 5 0x00C5 q) := by
  simp [popCell, depPop, h, hf, hp]

/-- A POP over a link that answers. -/
theorem execPop_linked {s : State} {q : Nat} {link : Ecc} (hq : q < 256) (hl : link ≠ .uncorrectable) :
    exec (.pop q false link) s = .next (
      let r := popCell s q
      let s1 := emit r.2 (.depot r.1.1 r.1.2.1 r.1.2.2)
      if queuePolicy q = 3 then decimate s1 q (queueAt s q).cells.length else s1) := by
  dsimp only [exec, execPop]
  rw [if_neg hl, Nat.mod_eq_of_lt hq]
  rfl

/-! ### Queue settings -/

/-- A limit written without the flush bit. -/
theorem writeQcfg_limit (v : W64) (s : State) (h : v.getLsbD 31 = false) : exec (.depQcfgLimit v) s = .next (writeQcfg s v.toNat) := by
  have hv : v &&& 0xFFFFFFFF7FFFFFFF#64 = v := by
    refine BitVec.eq_of_getLsbD_eq fun i hi => ?_
    rw [BitVec.getLsbD_and, show (0xFFFFFFFF7FFFFFFF#64) = ~~~ BitVec.twoPow 64 31 from rfl, BitVec.getLsbD_not, BitVec.getLsbD_twoPow]
    by_cases h31 : i = 31
    · rw [h31, h, Bool.false_and]
    · simp [hi, Ne.symm h31]
  exact congrArg (fun n => Host.Outcome.next (writeQcfg s n)) (congrArg BitVec.toNat hv)

/-- Settles O33: each operation by the state of its queue. -/
theorem depotQueues : Obligations.DepotQueues := by
  intro s
  refine ⟨fun q w poison epoch hq => ?push, fun q upset hq => ?link, fun q link c cs hq hl hf hc hp hpar => ?pop, fun q link c cs hq hl hf hc hpar => ?corrupt,
    fun q link hq hl hc hp => ?empty, fun q hq => ?room, fun v h => writeQcfg_limit v s h, fun v h => ?flush, fun v => ?qcfg, fun v hv hm => ?clear⟩
  case push =>
    dsimp only [exec, execPush]
    rw [Nat.mod_eq_of_lt hq]
    refine ⟨fun h => ?_, fun h hf => ?_, fun h hf hr hp => ?_, fun h hf hr hp => ?_⟩
    · rw [depPush_stale _ _ h]
    · rw [depPush_full _ _ h hf]
    · simp only [depPush_ok _ _ h hf hr, if_neg hp]
    · simp only [depPush_ok _ _ h hf hr, if_pos hp]
  case link => exact (rfl : execPop q upset .uncorrectable s = _)
  case pop => rw [execPop_linked hq hl, popCell_intact hf hc hpar, if_neg hp]
  case corrupt =>
    rw [execPop_linked hq hl, popCell_corrupt hf hc hpar, hc]
    rfl
  case empty => rw [execPop_linked hq hl, popCell_nil hc, if_neg hp]
  case room =>
    dsimp only [exec, execRoom]
    rw [Nat.mod_eq_of_lt hq]
  case flush =>
    have hor : v.toNat ||| 0x80000000 = v.toNat := congrArg BitVec.toNat (or_twoPow h)
    dsimp only [exec, execFlush]
    rw [hor]
  case qcfg =>
    dsimp only [writeQcfg]
    rw [bitsOf_eq v 0 16, bitsOf_eq v 28 3, bitsOf_eq v 16 8, Nat.pow_zero, Nat.div_one]
    refine ⟨fun h => ?_, fun h hq hb => ?_, fun h hq hb => ?_, fun h h1 h2 hl => ?_, fun h h1 h2 hl hb => ?_, fun h h1 h2 hl hb => ?_⟩
    · exact if_pos (by omega)
    all_goals rw [if_neg (by omega)]
    · rw [if_pos hq, if_pos hb]
    · rw [if_pos hq, if_neg (by simp [hb])]
    all_goals rw [if_neg (by omega)]
    · rw [hl, if_pos (Bool.not_false ▸ rfl)]
    · rw [hl, if_neg (by simp), if_neg (by simp [hb])]
    · rw [hl, if_neg (by simp), if_pos hb]
  case clear =>
    have hor : v.toNat ||| 0x80 = v.toNat := congrArg BitVec.toNat (or_bit7 hv)
    have hb : bitAt v.toNat 7 = true := hv
    dsimp only [exec, execDepClrCounters, writeDepCtrl]
    rw [hor, if_neg (not_not.mpr hm), if_pos hb]

/-! ### The collectors -/

/-- Settles O34: each collector and monitor where it has something to take. -/
theorem collectors : Obligations.Collectors := by
  intro s
  refine ⟨fun a as hl hf => ⟨fun h => ?full, fun h => ?push⟩, fun t b hc h => ?freeze, fun h0 hd hp hb => ?sample, fun ms hm => ?ageing, fun ms => rfl, rfl⟩
  case full =>
    dsimp only [exec, execAlarmPush]
    simp only [hl, hf, Bool.false_eq_true, if_false, if_pos h]
  case push =>
    dsimp only [exec, execAlarmPush]
    simp only [hl, hf, Bool.false_eq_true, if_false, if_neg (not_lt.mpr h)]
    rfl
  case freeze =>
    dsimp only [exec, execIncidentFreeze]
    simp only [hc, if_pos h]
  case sample =>
    exact if_neg (by
      rintro (h | h | h | h)
      · exact h0 h
      · exact h (Nat.mod_eq_zero_of_dvd hd)
      · omega
      · simp [hb] at h)
  case ageing =>
    dsimp only [exec, execAgeingSample]
    rw [List.filter_eq_self.mpr fun x hx => by simpa using hm x hx]

/-! ### Causes of FAULT -/

/-- Where no fault stood the record is the cause itself. -/
theorem enterFault_first {s : State} (cause detail : Nat) (h : s.flt.fault = none) :
    (enterFault s cause detail).flt.fault = some ⟨cause, detail, faultNeed cause detail⟩ := by
  simp only [enterFault, h, Option.isSome_none, Bool.false_eq_true, if_false, mergeFault]

/-- Where a fault stood the two are merged, and the alert is asserted anew. -/
theorem enterFault_again {s : State} {f : FaultRec} (cause detail : Nat) (h : s.flt.fault = some f) :
    enterFault s cause detail = assertAlert { s with flt := { s.flt with fault := some (mergeFault (some f) ⟨cause, detail, faultNeed cause detail⟩) } } := by
  simp only [enterFault, h, Option.isSome_some, if_true]

/-- A cause of the given code, detail and lowest reset. -/
theorem fault_outcome {c : Instr} {s : State} {cause detail need : Nat} (hx : exec c s = .next (enterFault s cause detail)) (hn : faultNeed cause detail = need) :
    exec c s = .next (enterFault s cause detail) ∧
    (s.flt.fault = none → (enterFault s cause detail).flt.fault = some ⟨cause, detail, need⟩) ∧
    (∀ f, s.flt.fault = some f →
      let r : FaultRec := if cause < f.cause then ⟨cause, detail, max f.need need⟩ else ⟨f.cause, f.detail, max f.need need⟩
      enterFault s cause detail = { s with flt := { s.flt with fault := some r }, pwr := { s.pwr with alert := true, acked := false } }) := by
  subst hn
  exact ⟨hx, enterFault_first cause detail, fun f hf => enterFault_again cause detail hf⟩

/-- Settles O35: each cause with its code, detail and lowest reset. -/
theorem faultEntries : Obligations.FaultEntries := by
  intro s x hx
  obtain ⟨core, hc, rfl⟩ | ⟨i, hi, rfl⟩ | ⟨n, hn, rfl | rfl⟩ | ⟨i, hi, rfl⟩ := hx
  case inl => exact fault_outcome (congrArg (fun d => Host.Outcome.next (enterFault s 5 d)) (Nat.mod_eq_of_lt hc)) rfl
  case inr.inl => exact fault_outcome (congrArg (fun d => Host.Outcome.next (enterFault s 6 d)) (Nat.mod_eq_of_lt hi)) rfl
  case inr.inr.inl.inl => exact fault_outcome (congrArg (fun d => Host.Outcome.next (enterFault s 1 d)) (Nat.mod_eq_of_lt hn)) rfl
  case inr.inr.inl.inr => exact fault_outcome (congrArg (fun d => Host.Outcome.next (enterFault s 2 d)) (Nat.mod_eq_of_lt hn)) rfl
  case inr.inr.inr => exact fault_outcome (congrArg (fun d => Host.Outcome.next (enterFault s 4 d)) (Nat.mod_eq_of_lt hi)) rfl

end Sys2Proof.Machine
end

section
/-!
SUPPORT. Boot, attestation and the management bus (chapters 17 and 18).
-/
namespace Sys2Proof.Machine

/-! ### Boot -/

/-- The low bits of a number that already holds them. -/
theorem setBits_low {v w x : Nat} (h : v % 2 ^ w = x) : setBits v 0 w x = v := by
  subst h
  rw [setBits_split, Nat.mod_mod, Nat.pow_zero, Nat.mod_one, Nat.zero_add, Nat.zero_add, Nat.mul_one, Nat.mod_add_div']

/-- A write of SEC_RCV_CTRL in RECOVERY, of an action and a length in range. -/
theorem writeRcv_inRange {s : State} {v : Nat} (hs : bootStage s = 0xE) (ha : v % 4 ≠ 3) (h0 : v % 4 ≠ 0) (hn : v / 2 ^ 32 ≤ 67108864) :
    writeRcv s v =
      let s1 := plainWrite s Reg.SEC_RCV_CTRL v
      let img := placed s (v / 2 ^ 32)
      if v % 4 ≠ rcvKind s then rcvResult s1 stBadParam
      else if v % 4 = 1 then
        if imageCause s.sec.blob img = 0 then
          let s2 := runImage (rcvResult s1 stDone) img 1
          { s2 with sec := { s2.sec with staged := mset s2.sec.staged 1 img } }
        else rcvResult s1 (causeStatus (imageCause s.sec.blob img))
      else if !blobForm img then rcvResult s1 stBadParam
      else if !signedOk img 0x200 0x238 then rcvResult s1 stSigInvalid
      else if !flashOpen s then rcvResult s1 stInhibit
      else
        let s2 := setField (setStage (rcvResult s1 stDone) 3) Reg.SEC_STATUS 8 4 0
        { s2 with sec := { s2.sec with flashBlob := img, marker := if s.sec.marker = some 2 then none else s.sec.marker } } := by
  have hb : bitsOf v 32 32 = v / 2 ^ 32 := by rw [bitsOf_eq, Nat.mod_eq_of_lt (by omega)]
  dsimp only [writeRcv]
  rw [hb, if_neg (not_not.mpr hs), if_neg (by omega), if_neg h0]

/-- Settles O36: each stage's command in its stage, and the two actions of recovery. -/
theorem bootStages : Obligations.BootStages := by
  intro s
  refine ⟨fun hi hp hl hb ht => ⟨fun h => ?run, fun h3 hc hw => ?stays, fun h => ⟨fun h3 => ?wake, fun h4 => ?cold⟩⟩, fun h => ⟨?pass, ?halt⟩,
    fun h => ⟨fun hf hw => ?commit, fun hf => ?keep⟩, fun h => ⟨fun hm => ?blobMarker, fun hm hb => ?blobBad, fun hm hb => ?blobGood⟩,
    fun h => ⟨fun hm => ?imageMarker, fun hm hc => ?imageGood, fun hm hc => ?imageBad⟩, fun h => ⟨fun hw => ?waking, fun hw hl => ?lost, fun hw hl => ?held⟩,
    fun v hs hn => ⟨fun ha hk => ⟨fun hc => ?boots, fun hc => ?bootBad⟩, fun ha hk => ⟨fun hf => ?formBad, fun hf hg => ?signBad, fun hf hg hw => ?shut, fun hf hg hw => ?blobWritten⟩,
      fun ha hk => ?bootKind, fun ha hk => ?blobKind⟩⟩
  case run =>
    dsimp only [exec, execBootStart]
    rw [if_neg (by simp [hi, hp, hl, hb, ht]), if_pos h]
  case stays =>
    dsimp only [exec, execBootStart]
    rw [if_neg (by simp [hi, hp, hl, hb, ht]), if_neg (by omega), if_pos ⟨hc, hw⟩]
  case wake =>
    dsimp only [exec, execBootStart]
    rw [if_neg (by simp [hi, hp, hl, hb, ht]), if_neg (by omega), if_neg fun hn => by simp [hn.1, hn.2] at h, if_pos h3]
  case cold =>
    dsimp only [exec, execBootStart]
    rw [if_neg (by simp [hi, hp, hl, hb, ht]), if_neg (by omega), if_neg fun hn => by simp [hn.1, hn.2] at h, if_neg (by omega)]
  case pass | halt => exact if_neg (not_not.mpr h)
  case commit =>
    dsimp only [exec, execRetained]
    rw [if_neg (not_not.mpr h), if_neg (by simp [hf, hw])]
  case keep =>
    dsimp only [exec, execRetained]
    rw [if_neg (not_not.mpr h), if_pos (by rcases hf with hf | hf <;> simp [hf])]
  case blobMarker =>
    dsimp only [exec, execBlob]
    rw [if_neg (not_not.mpr h), if_pos hm]
    rfl
  case blobBad =>
    dsimp only [exec, execBlob]
    rw [if_neg (not_not.mpr h), if_neg hm, if_pos (by simp [hb])]
    rfl
  case blobGood =>
    dsimp only [exec, execBlob]
    rw [if_neg (not_not.mpr h), if_neg hm, if_neg (by simp [hb])]
    rfl
  case imageMarker =>
    dsimp only [exec, execImage]
    rw [if_neg (not_not.mpr h), if_pos hm]
  case imageGood =>
    dsimp only [exec, execImage]
    rw [if_neg (not_not.mpr h), if_neg hm, if_pos hc]
  case imageBad =>
    dsimp only [exec, execImage]
    rw [if_neg (not_not.mpr h), if_neg hm, if_neg hc]
  case waking =>
    dsimp only [exec, execSignState]
    rw [if_neg (not_not.mpr h), if_pos hw]
  case lost =>
    dsimp only [exec, execSignState]
    rw [if_neg (not_not.mpr h), if_neg (by simp [hw]), if_pos hl]
  case held =>
    dsimp only [exec, execSignState]
    rw [if_neg (not_not.mpr h), if_neg (by simp [hw]), if_neg (by simp [hl])]
  case boots =>
    dsimp only [exec, execBoot]
    rw [setBits_low ha, writeRcv_inRange hs (by omega) (by omega) hn, if_neg (by simp [ha, hk]), if_pos ha, if_pos hc]
  case bootBad =>
    dsimp only [exec, execBoot]
    rw [setBits_low ha, writeRcv_inRange hs (by omega) (by omega) hn, if_neg (by simp [ha, hk]), if_pos ha, if_neg hc]
  case formBad =>
    dsimp only [exec, execWriteBlob]
    rw [setBits_low ha, writeRcv_inRange hs (by omega) (by omega) hn, if_neg (by simp [ha, hk]), if_neg (by omega), if_pos (by rw [hf]; rfl)]
  case signBad =>
    dsimp only [exec, execWriteBlob]
    rw [setBits_low ha, writeRcv_inRange hs (by omega) (by omega) hn, if_neg (by simp [ha, hk]), if_neg (by omega), if_neg (by rw [hf]; decide), if_pos (by rw [hg]; rfl)]
  case shut =>
    dsimp only [exec, execWriteBlob]
    rw [setBits_low ha, writeRcv_inRange hs (by omega) (by omega) hn, if_neg (by simp [ha, hk]), if_neg (by omega), if_neg (by rw [hf]; decide), if_neg (by rw [hg]; decide), if_pos (by rw [hw]; rfl)]
  case blobWritten =>
    dsimp only [exec, execWriteBlob]
    rw [setBits_low ha, writeRcv_inRange hs (by omega) (by omega) hn, if_neg (by simp [ha, hk]), if_neg (by omega), if_neg (by rw [hf]; decide), if_neg (by rw [hg]; decide), if_neg (by rw [hw]; decide)]
  case bootKind =>
    dsimp only [exec, execBoot]
    rw [setBits_low ha, writeRcv_inRange hs (by omega) (by omega) hn, if_pos (by simpa [ha] using hk.symm)]
  case blobKind =>
    dsimp only [exec, execWriteBlob]
    rw [setBits_low ha, writeRcv_inRange hs (by omega) (by omega) hn, if_pos (by simpa [ha] using hk.symm)]

/-! ### Attestation -/

/-- A DOE request while the hub runs and the link is up. -/
theorem doeExchange_eq {s : State} {w : W32} {b : List Byte} {bad : Nat} (hr : hubRuns s = true) (hl : linkDown s = false) (h3 : w.toNat % 256 ≠ 3) :
    doeExchange w b bad s =
      if w.toNat % 256 = 0 ∨ 4 < w.toNat % 256 then doeAnswer s 0xFF stBadOpcode []
      else if b ≠ [] then doeAnswer s (w.toNat % 256 + 0x80) stBadParam []
      else if w.toNat % 256 = 1 then doeAnswer s 0x81 stDone (identityRecord s)
      else if w.toNat % 256 = 2 then doeAnswer s 0x82 stDone (padTo 4096 s.sec.blob)
      else doeAnswer s 0x84 stDone (leBytes 8 s.sec.next ++ leBytes 8 s.sec.rend) := by
  dsimp only [doeExchange]
  rw [if_neg (by simp [hr, hl]), if_neg h3]
  simp only [bne_iff_ne, ne_eq, List.length_eq_zero_iff]

/-- A DOE measurement request with a nonce is served, or waits behind those that wait. -/
theorem doeExchange_measurement {s : State} {w : W32} {nonce : List Byte} (bad : Nat) (hr : hubRuns s = true) (hl : linkDown s = false)
    (h3 : w.toNat % 256 = 3) (hn : nonce.length = 32) :
    doeExchange w nonce bad s =
      let r : SignReq := { pkt := none, window := 0, body := measurement s 0 nonce }
      let t := if s.sec.reqs.isEmpty then serveReq s r bad else (false, s)
      if t.1 then t.2 else { t.2 with sec := { t.2.sec with reqs := t.2.sec.reqs ++ [r] } } := by
  dsimp only [doeExchange]
  rw [if_neg (by simp [hr, hl]), if_pos h3, if_neg (by simp [hn])]

/-- Settles O37: the next tree, and each exchange by its code and length. -/
theorem attestation : Obligations.Attestation := by
  intro s hr hl
  refine ⟨fun hn hlt => ?tree, fun w h => ?identity, fun w h => ?certificate, fun w h => ?status,
    fun w nonce bad h h32 => ⟨fun sig t he hs => ?signed, fun st t he hs => ?refused, fun t he hs => ?waits, fun he => ?behind⟩,
    fun w b bad h h32 => ?nonce, fun w b hb => ⟨fun h => ?identityLong, fun h => ?certificateLong, fun h => ?statusLong⟩,
    fun w b h => ?opcode, ?zero, ?one, fun i hi => ?more⟩
  case tree => exact if_pos (by simp [hr, hn]; omega)
  case identity | certificate | status =>
    dsimp only [exec, execDoeIdentity, execDoeCertificate, execDoeSignStatus]
    rw [doeExchange_eq hr hl (by omega), if_neg (by omega), if_neg (by simp), h]
    rfl
  case signed | refused | waits =>
    dsimp only [exec, execDoeMeasurement]
    rw [doeExchange_measurement bad hr hl h h32]
    simp only [serveReq, he, hs, List.isEmpty_nil, if_true, Bool.false_eq_true, if_false]
  case behind =>
    dsimp only [exec, execDoeMeasurement]
    rw [doeExchange_measurement bad hr hl h h32]
    simp only [List.isEmpty_iff, he, Bool.false_eq_true, if_false]
  case nonce =>
    dsimp only [exec, execDoeMeasurement, doeExchange]
    rw [if_neg (by simp [hr, hl]), if_pos h, if_pos (by simp [h32])]
    rfl
  case identityLong | certificateLong | statusLong =>
    dsimp only [exec, execDoeIdentity, execDoeCertificate, execDoeSignStatus]
    rw [doeExchange_eq hr hl (by omega), if_neg (by omega), if_pos hb, h]
    rfl
  case opcode =>
    dsimp only [exec, execDoeIdentity]
    rw [doeExchange_eq hr hl (by omega), if_pos h]
    rfl
  case zero | one => exact if_neg (by simp [hr, hl])
  case more =>
    obtain ⟨j, rfl⟩ : ∃ j, i = j + 2 := ⟨i - 2, by omega⟩
    exact if_neg (by simp [hr, hl])

/-! ### The management bus -/

/-- A transaction of another length only sets MOD_ERR bit 0. -/
theorem smbCommand_length {s : State} {x : SmbTxn} {n : Nat} (body : State → State) (ha : smbAnswers s = true) (h : x.data.length ≠ n) :
    smbCommand x n body s = setRegBit (setField s Reg.MOD_SMB 1 2 x.speed) Reg.MOD_ERR 0 := by
  simp only [smbCommand, ha, Bool.not_true, Bool.false_eq_true, if_false, if_pos h]

/-- A write without a valid PEC, while one is required, only sets MOD_ERR bit 1. -/
theorem smbCommand_pec {s : State} {x : SmbTxn} {n : Nat} (body : State → State) (ha : smbAnswers s = true) (h : x.data.length = n) (hn : n ≠ 0)
    (hp : ¬ (regBit (setField s Reg.MOD_SMB 1 2 x.speed) Reg.MOD_SMB 0 = false ∨ x.pec = some true)) :
    smbCommand x n body s = setRegBit (setField s Reg.MOD_SMB 1 2 x.speed) Reg.MOD_ERR 1 := by
  rw [not_or, Bool.not_eq_false] at hp
  simp only [smbCommand, ha, Bool.not_true, Bool.false_eq_true, if_false, if_neg (not_not.mpr h), if_pos (And.intro hn hp)]

/-- A block read of its length is performed. -/
theorem smbCommand_read {s : State} {x : SmbTxn} (body : State → State) (ha : smbAnswers s = true) (h : x.data = []) :
    smbCommand x 0 body s = body (setField s Reg.MOD_SMB 1 2 x.speed) := by
  simp [smbCommand, ha, h]

/-- A write of its length, with the PEC that is required, is performed. -/
theorem smbCommand_write {s : State} {x : SmbTxn} {n : Nat} (body : State → State) (ha : smbAnswers s = true) (h : x.data.length = n)
    (hp : regBit (setField s Reg.MOD_SMB 1 2 x.speed) Reg.MOD_SMB 0 = false ∨ x.pec = some true) :
    smbCommand x n body s = body (setField s Reg.MOD_SMB 1 2 x.speed) := by
  simp only [smbCommand, ha, Bool.not_true, Bool.false_eq_true, if_false, if_neg (not_not.mpr h)]
  rw [if_neg fun hn => hp.elim (fun h0 => by simp [h0] at hn) hn.2.2]

/-- Settles O38: each command of the bus by its length, PEC and data. -/
theorem managementBus : Obligations.ManagementBus := by
  intro s x ha
  refine ⟨fun h => ?reads, fun h hp => ⟨fun hi => ?select, fun hi => ?ignored, fun hw h0 => ?reset, fun hw => ?kept⟩,
    fun h hp => ⟨⟨fun h1 hm => ?wake, fun hn => ?asleep⟩, fun h1 => ?ack, fun h1 => ?other⟩, fun c hc => ⟨fun h => ?length, fun h hn hp => ?pec⟩⟩
  case reads =>
    simp only [exec, execSmbIdentity, execSmbStatus, execSmbSensor, execSmbPower, execSmbCoolant, execSmbLastAlarm, smbRead, smbCommand_read _ ha h, and_self]
  case select =>
    dsimp only [exec, execSmbSensorSel]
    rw [smbCommand_write _ ha h hp, if_neg (by omega)]
  case ignored =>
    dsimp only [exec, execSmbSensorSel]
    rw [smbCommand_write _ ha h hp, if_pos hi]
  case reset =>
    dsimp only [exec, execSmbReset]
    rw [smbCommand_write _ ha h hp, if_pos ⟨hw, h0⟩]
  case kept =>
    dsimp only [exec, execSmbReset]
    rw [smbCommand_write _ ha h hp, if_neg fun hn => hw.elim (absurd hn.1) fun h1 => Bool.false_ne_true (hn.2.symm.trans h1)]
  case wake =>
    dsimp only [exec, execWake]
    rw [smbCommand_write _ ha h hp, if_pos h1, requestWake, if_pos (by rwa [goingDown_iff])]
  case asleep =>
    dsimp only [exec, execWake]
    rw [smbCommand_write _ ha h hp, requestWake]
    rcases hn with h1 | hm
    · rw [if_neg h1]
    · rw [if_neg (c := _ ∨ _) (by rwa [goingDown_iff]), ite_self]
  case ack =>
    dsimp only [exec, execAlertAck]
    rw [smbCommand_write _ ha h hp, if_pos h1]
  case other =>
    dsimp only [exec, execAlertAck]
    rw [smbCommand_write _ ha h hp, if_neg h1]
  case length =>
    simp only [List.mem_cons, List.not_mem_nil, or_false] at hc
    rcases hc with rfl | rfl | rfl | rfl | rfl | rfl | rfl | rfl | rfl | rfl <;> exact congrArg Host.Outcome.next (smbCommand_length _ ha h)
  case pec =>
    simp only [List.mem_cons, List.not_mem_nil, or_false] at hc
    rcases hc with rfl | rfl | rfl | rfl | rfl | rfl | rfl | rfl | rfl | rfl <;> exact congrArg Host.Outcome.next (smbCommand_pec _ ha h hn hp)

end Sys2Proof.Machine
end

section
/-!
SUPPORT. The command queues (chapter 12): what a packet that begins does with its verdict, and the doorbells and rounds.
-/
namespace Sys2Proof.Machine

/-! ### Packets that begin -/

/-- A packet that begins runs its own rules on the state in which it has left its queue. -/
theorem Begins.judged {s t : State} {op : Nat} {p : Packet} {c : Instr} {q : SQueue} (h : Begins s t op p c q) (body : State → Nat → Verdict) :
    command op p c body s = .next (match body t q.fn with
      | .now u r => answer t u op p q.fn r
      | .later u args w => begun u { op := op, pkt := p, fn := q.fn, window := w, args := args, reply := none }) := by
  obtain ⟨hq, hready, ht, hclean, howned, hpf, hst⟩ := h
  have hown : ¬ (!ctxOwned t q.fn (pktCtx p) || (pfOnly op && q.fn != 0)) = true := by
    simp only [howned, Bool.not_true, Bool.false_or, Bool.and_eq_true, bne_iff_ne, not_and, not_not]
    exact hpf
  subst ht
  dsimp only [command]
  rw [hq]
  dsimp only
  rw [if_pos hready, judge, if_neg (by simp [hclean]), if_neg hown, if_neg (by simp [hst])] <;> rfl

/-- A packet whose rules complete it is answered. -/
theorem Begins.now {s t u : State} {op : Nat} {p : Packet} {c : Instr} {q : SQueue} {r : Reply} {body : State → Nat → Verdict}
    (h : Begins s t op p c q) (hb : body t q.fn = .now u r) : command op p c body s = .next (answer t u op p q.fn r) := by
  rw [h.judged, hb]

/-- A packet whose rules leave it in progress joins those in progress. -/
theorem Begins.later {s t u : State} {op : Nat} {p : Packet} {c : Instr} {q : SQueue} {args : List Nat} {w : Option Nat} {body : State → Nat → Verdict}
    (h : Begins s t op p c q) (hb : body t q.fn = .later u args w) :
    command op p c body s = .next (begun u { op := op, pkt := p, fn := q.fn, window := w, args := args, reply := none }) := by
  rw [h.judged, hb]

/-- Without room for its window a command is BUSY. -/
theorem withWindow_none {s : State} {p : Packet} {fn bytes : Nat} {k : State → Nat → Verdict} (h : allocWindow s fn bytes = none) :
    withWindow s p fn bytes k = no s p stBusy := by
  rw [withWindow, h]

/-- With room a command goes on in its window. -/
theorem withWindow_some {s u : State} {p : Packet} {fn bytes off : Nat} {k : State → Nat → Verdict} (h : allocWindow s fn bytes = some (off, u)) :
    withWindow s p fn bytes k = k u off := by
  rw [withWindow, h]

/-! ### Doorbells and rounds -/

/-- A tail doorbell that need not wait. -/
theorem writeTail_served {s : State} {fn : Nat} (n : Nat) (v : W64) (hm : memServed s fn = true) (hw : mustWait s fn = false) :
    writeTail s fn n v = match sqAt s n with
      | some q => if q.fn = fn ∧ v.toNat % 2 ^ 12 < q.size then setSq s n { q with tail := v.toNat % 2 ^ 12 } else cmdErr s fn 2
      | none => cmdErr s fn 2 := by
  dsimp only [writeTail]
  rw [bitsOf_eq, Nat.pow_zero, Nat.div_one, if_neg (by simp [hm]), if_neg (by simp [hw])] <;> rfl

/-- A head doorbell that need not wait. -/
theorem writeHead_served {s : State} {fn : Nat} (n : Nat) (v : W64) (hm : memServed s fn = true) (hw : mustWait s fn = false) :
    writeHead s fn n v = match cqAt s n with
      | some q =>
        if q.fn = fn ∧ v.toNat % 2 ^ 12 < q.size then drainReplies (q.waiting.length + 1) (setCq s n { q with head := v.toNat % 2 ^ 12 }) n
        else cmdErr s fn 2
      | none => cmdErr s fn 2 := by
  dsimp only [writeHead]
  rw [bitsOf_eq, Nat.pow_zero, Nat.div_one, if_neg (by simp [hm]), if_neg (by simp [hw])] <;> rfl

/-- The admin pair is created once, of the sizes that HUB_AQ_SIZE gives. -/
theorem writeEnable_served {s : State} {v : W64} (hm : memServed s 0 = true) (hw : mustWait s 0 = false) (hv : v.getLsbD 0 = true) :
    writeEnable s v =
      let z := reg s Reg.HUB_AQ_SIZE
      if z % 2 ^ 12 = 0 ∨ z / 2 ^ 16 % 2 ^ 12 = 0 then setRegBit s Reg.HUB_CMD_ERR 3
      else if s.cmd.ready then s
      else
        let s1 := setRegBit { s with cmd := { s.cmd with ready := true } } Reg.HUB_CMD_CTRL 0
        let s2 := setCq s1 0 (.fresh 0 (reg s Reg.HUB_AQ_CQ_BASE) (z / 2 ^ 16 % 2 ^ 12 + 1) 0)
        setSq s2 0 (.fresh 0 (reg s Reg.HUB_AQ_SQ_BASE) (z % 2 ^ 12 + 1) 0) := by
  dsimp only [writeEnable]
  rw [bitsOf_eq _ 0 12, bitsOf_eq _ 16 12, Nat.pow_zero, Nat.div_one, if_neg (by simp [hm, hv]), if_neg (by simp [hw])]

/-- Settles O39: each doorbell and round by its owner, its index and what waits. -/
theorem commandQueues : Obligations.CommandQueues := by
  intro s
  refine ⟨fun fn n v hm hw => ?wait, fun fn n v hm hw => ?tail, fun fn n v hm hw => ?head, fun fn k v hm hw => ?halt, fun v hm hw hv => ?enable,
    fun hv lost hr => ?fetch, ?evict, fun c v hf hc => ?timeout⟩
  case wait =>
    refine ⟨?_, ?_, ?_, fun h0 hv => ?_⟩
    · dsimp only [exec, execHubSqTail, writeTail]
      rw [if_neg (by simp [hm]), if_pos hw]
    · dsimp only [exec, execHubCqHead, writeHead]
      rw [if_neg (by simp [hm]), if_pos hw]
    · dsimp only [exec, execHubSqHalt, writeHalt]
      rw [if_neg (by simp [hm]), if_pos hw]
    · subst h0
      dsimp only [exec, execHubCmdCtrlEnable, writeEnable]
      rw [if_neg (by simp [hm, hv]), if_pos hw]
  case tail =>
    dsimp only [exec, execHubSqTail]
    rw [writeTail_served n v hm hw]
    refine ⟨fun q hq hf ht => ?_, fun hq => ?_, fun q hq hf => ?_⟩ <;> rw [hq]
    · exact congrArg Host.Outcome.next (if_pos ⟨hf, ht⟩)
    · exact congrArg Host.Outcome.next (if_neg (by omega))
  case head =>
    dsimp only [exec, execHubCqHead]
    rw [writeHead_served n v hm hw]
    refine ⟨fun q hq hf ht => ?_, fun hq => ?_, fun q hq hf => ?_⟩ <;> rw [hq]
    · exact congrArg Host.Outcome.next (if_pos ⟨hf, ht⟩)
    · exact congrArg Host.Outcome.next (if_neg (by omega))
  case halt =>
    dsimp only [exec, execHubSqHalt, writeHalt]
    rw [if_neg (by simp [hm]), if_neg (by simp [hw])]
    refine congrArg (fun f => Host.Outcome.next (((List.range 64).filter f).foldl _ s)) (funext fun b => ?_)
    cases sqAt s (64 * k + b) <;> rfl
  case enable =>
    dsimp only [exec, execHubCmdCtrlEnable]
    rw [writeEnable_served hm hw hv]
    refine ⟨fun h => ?_, fun h1 h2 hr => ?_, fun h1 h2 hr => ?_⟩
    · rw [if_pos h]
    · rw [if_neg (by omega), if_pos hr]
    · rw [if_neg (by omega), if_neg (by simp [hr])]
  case fetch =>
    dsimp only [exec, execPacketFetch]
    rw [if_neg (by simp [hr])]
    refine ⟨fun h => ?_, fun n f h => ?_⟩ <;> rw [h]
  case evict =>
    dsimp only [exec, execAutoEvict]
    refine ⟨fun h => ?_, fun c x h => ⟨fun o y ho ha => ?_, fun o y ho ha => ?_, fun ho => ?_⟩⟩ <;> rw [h]
    · dsimp only
      rw [ho]
      exact if_pos ha
    · dsimp only
      rw [ho]
      exact if_neg (by simp [ha])
    · dsimp only
      rw [ho]
  case timeout =>
    dsimp only [exec, execCaravanFormTimeout]
    simp only [hf, hc]

end Sys2Proof.Machine
end

section
/-!
SUPPORT. The device, queue and context commands (chapter 12).
-/
namespace Sys2Proof.Machine

/-! ### Device and power -/

/-- A level above 4, or no run, lets a DEVICE_RESET go on. -/
theorem resetIdle {t : State} {level : Nat} (h : anyRun t = false ∨ 4 < level) : ¬ (level ≤ 4 ∧ anyRun t = true) := by
  rintro ⟨hl, hr⟩
  exact h.elim (fun hn => Bool.false_ne_true (hn.symm.trans hr)) (by omega)

/-- Settles O40: each command by its parameters and the state in which it begins. -/
theorem deviceCommands : Obligations.DeviceCommands := by
  intro s t p hv q
  dsimp only
  refine ⟨fun off u ha h => ?identify, fun ha h => ?noWindow, fun h => h.now rfl, fun hi h => ?quiesce, fun hi h => ?waits, fun h => h.now rfl,
    fun h => h.now rfl, fun h => h.now rfl, ⟨fun hl h => ?level, fun h2 h6 hn h => ?need, fun h2 h4 hn hr h => ?running, fun i h2 h6 hn hr h4 hu h => ?hot,
    fun h2 h6 hn hr hu h => ?reset⟩, ⟨fun h0 h4 hr h => ?member, fun hr hd h => ?depth, fun d hd => ⟨fun hr hi h => ?later, fun hr hi hp => ⟨fun h3 h => ?power, fun h3 h => ?off⟩⟩⟩⟩
  case identify => exact h.now (withWindow_some ha)
  case noWindow => exact h.now (withWindow_none ha)
  case quiesce => exact h.now (if_pos (List.isEmpty_iff.mpr hi))
  case waits => exact h.later (if_neg (mt List.isEmpty_iff.mp hi))
  case level => exact h.now (if_pos hl)
  case need => exact h.now ((if_neg (by omega)).trans (if_pos hn))
  case running => exact h.now ((if_neg (by omega)).trans ((if_neg (Nat.not_lt.mpr hn)).trans (if_pos ⟨h4, hr⟩)))
  case hot =>
    refine h.now ((if_neg (by omega)).trans ((if_neg (Nat.not_lt.mpr hn)).trans ((if_neg (resetIdle hr)).trans ?_)))
    rw [hu]
    exact if_pos h4
  case reset =>
    refine h.now ((if_neg (by omega)).trans ((if_neg (Nat.not_lt.mpr hn)).trans ((if_neg (resetIdle hr)).trans ?_)))
    cases hc : uncooled t with
    | none => rfl
    | some i =>
      have h4 : prm p 0 0 4 < 4 := hu.resolve_left (by simp [hc])
      exact if_neg (by omega)
  case member => exact h.now (if_pos ⟨h0, h4, hr⟩)
  case depth =>
    refine h.now ((if_neg (by rintro ⟨h0, h4, h1⟩; exact hr.elim h0 fun hr => hr.elim (by omega) h1)).trans ?_)
    rw [hd]
    rfl
  case later =>
    refine h.later ((if_neg (by rintro ⟨h0, h4, h1⟩; exact hr.elim h0 h1)).trans ?_)
    rw [hd]
    exact if_neg (by simpa [imp_iff_not_or] using hi)
  case power =>
    refine h.now ((if_neg (by rintro ⟨h0, h4, h1⟩; exact hr.elim h0 h1)).trans ?_)
    rw [hd]
    exact (if_pos (by simp [hi, hp])).trans (if_pos h3)
  case off =>
    refine h.now ((if_neg (by rintro ⟨h0, h4, h1⟩; exact hr.elim h0 h1)).trans ?_)
    rw [hd]
    exact (if_pos (by simp [hi, hp])).trans (if_neg (by omega))

/-! ### Queues and windows -/

/-- A function reads a window's slot only where the window is its own. -/
theorem shows_fn {w : Window} {fn off : Nat} (h : w.shows fn off = true) : w.fn = fn := by
  simp only [Window.shows, Bool.and_eq_true, beq_iff_eq] at h
  exact h.1.1

/-- Outside every window of a function its slots are zero. -/
theorem bar4Word_outside {s : State} {fn off : Nat}
    (h : ∀ w ∈ s.cmd.windows, w.fn = fn → w.start ≤ off / 8192 → w.start + w.count ≤ off / 8192) : bar4Word s fn off = 0 := by
  have hnone : s.cmd.windows.find? (fun w => w.shows fn off) = none := by
    refine List.find?_eq_none.mpr fun w hw hs => ?_
    simp only [Window.shows, Bool.and_eq_true, beq_iff_eq, decide_eq_true_eq] at hs
    obtain ⟨⟨hfn, hlo⟩, hhi⟩ := hs
    exact absurd (h w hw hfn hlo) (by omega)
  rw [bar4Word, hnone]

/-- A window shows its slot. -/
theorem bar4Word_shown {s : State} {w : Window} {fn off : Nat} (h : s.cmd.windows.find? (fun w => w.shows fn off) = some w) :
    bar4Word s fn off = w.slot ((off - w.start * 8192) / 8) := by
  rw [bar4Word, h]

/-- Settles O41: each command by its fields and the queue or window that it names. -/
theorem queueCommands : Obligations.QueueCommands := by
  intro s t p hv q
  dsimp only
  refine ⟨fun hc h => ?badFields, fun hc hk h => ?sq, fun hc hk h => ?cq,
    ⟨fun ho h => ?noQueue, fun f ho hi h => ?adminPair, fun f ho hi hq hf h => ?foreign, fun f ho hi hq =>
      ⟨fun hk hx h => ?bound, fun hk hx h => ?freeCq, fun x hk hx h => ?deleted⟩⟩,
    ⟨fun hf h => ?noWindow, fun w hf => ⟨fun hn h => ?otherOwner, fun hn hd h => ?unfinished, fun hn hd h => ?released⟩⟩, fun fn off hw => ?outside, fun w fn off hf => ?shown⟩
  case badFields => exact h.now (if_pos (by simp [hc]))
  case sq => exact h.now ((if_neg (by simp [hc])).trans (if_pos hk))
  case cq => exact h.now ((if_neg (by simp [hc])).trans (if_neg hk))
  case noQueue =>
    refine congrArg (andThen · (finishDelete p)) (h.now ?_)
    dsimp only
    rw [ho]
    rfl
  case adminPair =>
    refine congrArg (andThen · (finishDelete p)) (h.now ?_)
    dsimp only
    rw [ho]
    exact if_pos hi
  case foreign =>
    refine congrArg (andThen · (finishDelete p)) (h.now ?_)
    dsimp only
    rw [ho]
    exact (if_neg hi).trans (if_pos ⟨hq, hf⟩)
  case bound =>
    refine congrArg (andThen · (finishDelete p)) (h.now ?_)
    dsimp only
    rw [ho]
    refine (if_neg hi).trans ((if_neg (fun hn => hq.elim hn.1 hn.2)).trans ?_)
    exact (if_pos hk).trans (if_pos (by simpa using hx))
  case freeCq =>
    refine congrArg (andThen · (finishDelete p)) (h.now ?_)
    dsimp only
    rw [ho]
    refine (if_neg hi).trans ((if_neg (fun hn => hq.elim hn.1 hn.2)).trans ?_)
    exact (if_pos hk).trans (if_neg (by simpa using hx))
  case deleted =>
    refine congrArg (andThen · (finishDelete p)) (h.later ?_)
    dsimp only
    rw [ho]
    refine (if_neg hi).trans ((if_neg (fun hn => hq.elim hn.1 hn.2)).trans ?_)
    refine (if_neg hk).trans ?_
    rw [hx]
  case noWindow =>
    refine h.now ?_
    dsimp only
    rw [hf]
    rfl
  case otherOwner =>
    refine h.now ?_
    dsimp only
    rw [hf]
    exact if_pos hn
  case unfinished =>
    refine h.now ?_
    dsimp only
    rw [hf]
    exact (if_neg (not_not.mpr hn)).trans (if_pos (by simp [hd]))
  case released =>
    refine h.now ?_
    dsimp only
    rw [hf]
    exact (if_neg (not_not.mpr hn)).trans (if_neg (by simp [hd]))
  case outside => exact bar4Word_outside hw
  case shown =>
    rw [bar4Word_shown hf]
    refine ⟨shows_fn (off := off) (by simpa using List.find?_some hf), fun hd => ?_, fun hl => ?_, fun x hd hx => ?_⟩
    · rw [Window.slot, hd]
    · rw [Window.slot, List.getElem?_eq_none hl]
      cases w.done <;> rfl
    · rw [Window.slot, hd, hx]
      simp only [b2n]
      split <;> omega

end Sys2Proof.Machine
end

section
/-!
SUPPORT. The context commands (chapter 12).
-/
namespace Sys2Proof.Machine

/-! ### Contexts -/

/-- A context that does not exist cannot be named. -/
theorem namedCtx_absent {s : State} {p : Packet} {c : Nat} (fn : Nat) (zero : Bool) (k : Nat → Verdict) (h0 : c ≠ 0) (h : mget s.cmd.ctxs c = none) :
    namedCtx s p fn c zero k = no s p stBadParam := by
  rw [namedCtx, if_neg h0, h]

/-- A VF cannot name a context of another function. -/
theorem namedCtx_foreign {s : State} {p : Packet} {fn c : Nat} {x : XCtx} (zero : Bool) (k : Nat → Verdict) (h0 : c ≠ 0)
    (h : mget s.cmd.ctxs c = some x) (hf : fn ≠ 0) (hx : x.fn ≠ fn) : namedCtx s p fn c zero k = no s p stNotPermitted := by
  rw [namedCtx, if_neg h0, h]
  exact if_pos ⟨hf, hx⟩

/-- A context of the function, or of any where the PF names it. -/
theorem namedCtx_own {s : State} {p : Packet} {fn c : Nat} {x : XCtx} (zero : Bool) (k : Nat → Verdict) (h0 : c ≠ 0)
    (h : mget s.cmd.ctxs c = some x) (hf : fn = 0 ∨ x.fn = fn) : namedCtx s p fn c zero k = k c := by
  rw [namedCtx, if_neg h0, h]
  exact if_neg fun hn => hf.elim hn.1 hn.2

/-- A name that is accepted: context 0, the device context, where it may be named, or a context of the function. -/
theorem namedCtx_accepted {s : State} {p : Packet} {fn c key : Nat} (k : Nat → Verdict)
    (h : (c = 0 ∧ true = true ∧ key = 256 + fn) ∨ (c ≠ 0 ∧ key = c ∧ ∃ x, mget s.cmd.ctxs c = some x ∧ (fn = 0 ∨ x.fn = fn))) :
    namedCtx s p fn c true k = k key := by
  rcases h with ⟨h0, -, rfl⟩ | ⟨h0, rfl, x, hx, hf⟩
  · rw [namedCtx, if_pos h0]
    rfl
  · exact namedCtx_own true k h0 hx hf

/-- A CONTEXT_PREEMPT that withdraws an earlier request. -/
theorem preemptBody_withdrawal {s : State} {p : Packet} {fn key : Nat}
    (h : (prm p 0 0 8 = 0 ∧ true = true ∧ key = 256 + fn) ∨
      (prm p 0 0 8 ≠ 0 ∧ key = prm p 0 0 8 ∧ ∃ x, mget s.cmd.ctxs (prm p 0 0 8) = some x ∧ (fn = 0 ∨ x.fn = fn)))
    (hw : prm p 4 0 1 = 1) :
    preemptBody p s fn =
      if decidedOf s key = 1 then no s p stBusy
      else
        let old := s.cmd.inProg.filter fun i => i.op = 0x010E ∧ i.args = [key]
        let s1 := if old.isEmpty then s else { s with itn := { s.itn with preemptReq := false } }
        .now (old.foldl (fun s i => completeProg s i (plainReply i.pkt stHost 0 0 0 0)) s1) (done p) := by
  rw [preemptBody, namedCtx_accepted _ h]
  exact if_pos hw

/-- A CONTEXT_PREEMPT that blocks a context ends its other commands, and waits for its run. -/
theorem preemptBody_block {s : State} {p : Packet} {fn key : Nat}
    (h : (prm p 0 0 8 = 0 ∧ true = true ∧ key = 256 + fn) ∨
      (prm p 0 0 8 ≠ 0 ∧ key = prm p 0 0 8 ∧ ∃ x, mget s.cmd.ctxs (prm p 0 0 8) = some x ∧ (fn = 0 ∨ x.fn = fn)))
    (hw : prm p 4 0 1 = 0) :
    preemptBody p s fn =
      let owner := if key < 256 then ((mget s.cmd.ctxs key).map (·.fn)).getD fn else fn
      let others := s.cmd.inProg.filter fun i => i.fn = owner ∧ ctxKey owner (pktCtx i.pkt) = key ∧ !(i.op == 0x0303 || i.op == 0x0401)
      let s1 := others.foldl (fun s i => abortProg s i stPreempt) s
      if (runOf s1 key).active && runOf s1 key != .stoppedPreempt then
        .later { s1 with itn := { s1.itn with preemptReq := true } } [key] none
      else .now (blockCtx s1 key) (done p) := by
  rw [preemptBody, namedCtx_accepted _ h, if_neg (by omega)]
  cases mget s.cmd.ctxs key <;> rfl

/-- A context that is in, or for which there is room, can be resumed. -/
theorem roomToResume {s : State} {out : Bool} (h : out = false ∨ residents s < 16) : ¬ (out && decide (16 ≤ residents s)) = true := by
  rcases h with h | h
  · simp [h]
  · simp; omega

/-- Settles O42: each command by the context that it names and what that context does. -/
theorem contextCommands : Obligations.ContextCommands := by
  intro s t p hv q
  dsimp only
  refine ⟨⟨fun hf h => ?noNumber, fun n hf => ⟨fun hp h => ?past, fun hp hr h => ?noRoom, fun u hp hr h => ?created⟩⟩,
    fun op i hi h0 => ⟨fun hx h => ?absent, fun x hx hf hn h => ?foreign⟩, fun h0 h => ?zero, fun x h0 hx hf => ⟨fun hb h => ?used, fun hb h => ?destroyed⟩,
    fun h => h.now rfl, fun k hk hw => ⟨fun hd h => ?decided, fun hd ho h => ?noneOld, fun hd ho h => ?withdrawn⟩,
    fun k hk hw => ⟨fun ha hs h => ?stops, fun ha h => ?blocks⟩, fun k hk => ⟨fun ho hr h => ?crowded, fun ho => ⟨fun hs h => ?releases, fun hs h => ?resumes⟩⟩,
    fun hn h => ?noPair, fun x y hx hy => ⟨fun hm h => ?unmovable, fun h1 h2 h3 h => ?swapped⟩⟩
  case noNumber =>
    refine h.now ?_
    dsimp only
    rw [hf]
    rfl
  case past =>
    refine h.now ?_
    dsimp only
    rw [hf]
    exact if_pos (by simpa [regField, bitsOf_eq] using hp)
  case noRoom =>
    refine h.now ?_
    dsimp only
    rw [hf]
    refine (if_neg (by simpa [regField, bitsOf_eq] using hp)).trans ?_
    rw [hr]
    rfl
  case created =>
    refine h.now ?_
    dsimp only
    rw [hf]
    refine (if_neg (by simpa [regField, bitsOf_eq] using hp)).trans ?_
    rw [hr]
  case absent =>
    simp only [List.mem_cons, Prod.mk.injEq, List.not_mem_nil, or_false] at hi
    rcases hi with ⟨rfl, rfl⟩ | ⟨rfl, rfl⟩ | ⟨rfl, rfl⟩ <;> exact h.now (namedCtx_absent _ _ _ h0 hx)
  case foreign =>
    simp only [List.mem_cons, Prod.mk.injEq, List.not_mem_nil, or_false] at hi
    rcases hi with ⟨rfl, rfl⟩ | ⟨rfl, rfl⟩ | ⟨rfl, rfl⟩ <;> exact h.now (namedCtx_foreign _ _ h0 hx hf hn)
  case zero =>
    refine h.now ?_
    dsimp only
    rw [namedCtx, if_pos h0]
    rfl
  case used =>
    refine h.now ?_
    dsimp only
    rw [namedCtx_own _ _ h0 hx hf, hx]
    exact if_pos hb
  case destroyed =>
    refine h.now ?_
    dsimp only
    rw [namedCtx_own _ _ h0 hx hf, hx]
    exact if_neg (by simp only [hb]; simp)
  case decided => exact h.now ((preemptBody_withdrawal hk hw).trans (if_pos hd))
  case noneOld =>
    refine h.now ((preemptBody_withdrawal hk hw).trans ((if_neg hd).trans ?_))
    dsimp only
    rw [ho]
    rfl
  case withdrawn =>
    refine h.now ((preemptBody_withdrawal hk hw).trans ((if_neg hd).trans ?_))
    dsimp only
    rw [if_neg (mt List.isEmpty_iff.mp ho)]
  case stops => exact h.later ((preemptBody_block hk hw).trans (if_pos (Bool.and_eq_true_iff.mpr ⟨ha, bne_iff_ne.mpr hs⟩)))
  case blocks => exact h.now ((preemptBody_block hk hw).trans (if_neg fun hn =>
    ha.elim (fun h0 => Bool.false_ne_true (h0.symm.trans (Bool.and_eq_true_iff.mp hn).1)) (bne_iff_ne.mp (Bool.and_eq_true_iff.mp hn).2)))
  case crowded => exact h.now ((namedCtx_accepted _ hk).trans (if_pos (Bool.and_eq_true_iff.mpr ⟨ho, decide_eq_true hr⟩)))
  case releases => exact h.now ((namedCtx_accepted _ hk).trans ((if_neg (roomToResume ho)).trans (if_pos hs)))
  case resumes => exact h.now ((namedCtx_accepted _ hk).trans ((if_neg (roomToResume ho)).trans (if_neg hs)))
  case noPair =>
    refine h.now ?_
    dsimp only
    rcases hn with hn | hn
    · rw [hn]
      rfl
    · rw [hn]
      cases mget t.cmd.ctxs (prm p 0 0 8) <;> rfl
  case unmovable =>
    refine h.now ?_
    dsimp only
    rw [hx, hy]
    exact if_pos (by rcases hm with hm | hm | hm <;> simp [hm])
  case swapped =>
    refine h.now ?_
    dsimp only
    rw [hx, hy]
    exact if_neg (by simp [h1, h2, h3])

end Sys2Proof.Machine
end

section
/-!
SUPPORT. The commands of the retired list, events, logs and telemetry (chapters 5, 12 and 15).
-/
namespace Sys2Proof.Machine

/-- A single parameter bit, read out of a wider field or by itself. -/
theorem bitAt_prm (p : Packet) {w i : Nat} (h : i < w) : bitAt (prm p 0 0 w) i = true ↔ prm p 0 i 1 = 1 := by
  simp only [bitAt, prm, bitsOf, Nat.mul_zero, Nat.zero_add, Nat.shiftRight_zero, Nat.testBit_mod_two_pow, h, decide_true, Bool.true_and]
  rw [Nat.testBit_eq_decide_div_mod_eq, Nat.shiftRight_eq_div_pow, decide_eq_true_eq, Nat.pow_one]

/-- Settles O44: each command by what it names, the room for its window and the flash window. -/
theorem recordCommands : Obligations.RecordCommands := by
  intro s t p hv q
  dsimp only
  refine ⟨fun hr h => ?noTarget, fun r hr => ⟨fun hf h => ?full, fun hf ha h => ?noWindow, fun off u hf ha => ⟨fun hd h => ?retired, fun hd h => ?waits⟩⟩,
    ⟨fun ha h => h.now (withWindow_none ha), fun off u ha h => h.now (withWindow_some ha)⟩, fun hw h => h.now (if_pos (by simp [hw])),
    fun hw h => h.now (if_neg (by simp [hw])), fun h => ⟨fun hn => ?busy, fun hn => ?event⟩,
    ⟨fun hb h => h.now (if_pos hb), fun hb ha h => h.now ((if_neg hb).trans (withWindow_none ha)),
      fun off u hb ha h => h.now ((if_neg hb).trans (withWindow_some ha))⟩,
    ⟨fun ht h => ?noReport, fun bs bad u ht => ⟨fun hb h => ?poisoned, fun hb ha h => ?noRoom, fun hb ha off w hw h => ?report⟩⟩⟩
  case noTarget =>
    refine h.now ?_
    dsimp only
    rw [hr]
    rfl
  case full =>
    refine h.now ?_
    dsimp only
    rw [hr]
    exact if_pos hf
  case noWindow =>
    refine h.now ?_
    dsimp only
    rw [hr]
    refine (if_neg hf).trans ?_
    rw [ha]
    rfl
  case retired =>
    refine h.now ?_
    dsimp only
    rw [hr]
    refine (if_neg hf).trans ?_
    rw [ha]
    refine (if_pos hd).trans ?_
    simp only [retireReply, Bool.and_eq_true, Bool.not_eq_true']
  case waits =>
    refine h.later ?_
    dsimp only
    rw [hr]
    refine (if_neg hf).trans ?_
    rw [ha]
    exact if_neg (by simp [hd])
  case busy => exact congrArg (andThen · (deliverOwn p)) (h.now (if_pos hn))
  case event => exact congrArg (andThen · (deliverOwn p)) (h.later (if_neg (by omega)))
  case noReport =>
    refine h.now ?_
    dsimp only
    rw [ht]
    rfl
  case poisoned =>
    refine h.now ?_
    dsimp only
    rw [ht]
    exact if_pos hb
  case noRoom =>
    refine h.now ?_
    dsimp only
    rw [ht]
    refine (if_neg (by simp [hb])).trans ?_
    rw [ha]
    rfl
  case report =>
    obtain ⟨⟨off', w'⟩, hroom⟩ := Option.isSome_iff_exists.mp ha
    refine h.now ?_
    dsimp only
    rw [ht]
    refine (if_neg (by simp [hb])).trans ?_
    simp only [hroom, Bool.and_eq_true, decide_eq_true_eq, bitAt_prm p (show 16 < 17 by decide)]
    exact withWindow_some hw

end Sys2Proof.Machine
end

section
/-!
SUPPORT. The commands of itineraries, caravans and the fabric (chapters 8, 9 and 12).
-/
namespace Sys2Proof.Machine

/-! ### Itineraries -/

/-- An image in host memory that cannot be read gives its status; one that can is checked. -/
theorem itinLoad_host {s t : State} {p : Packet} {hv : HostView} {img : ItinImage} {q : SQueue} (h : Begins s t 0x0301 p (.itinLoad p hv img) q)
    (hk : prm p 8 0 1 = 0) {b : List Byte} (hb : hostItin hv (prm p 0 0 64) = .inl b) {u : State} {r : Reply}
    (hl : loadItin p t q.fn img b = .now u r) : exec (.itinLoad p hv img) s = .next (answer t u 0x0301 p q.fn r) := by
  refine h.now ((if_pos hk).trans ?_)
  rw [hb]
  exact hl

/-- An image in device memory that can be read is checked. -/
theorem itinLoad_device {s t : State} {p : Packet} {hv : HostView} {img : ItinImage} {q : SQueue} (h : Begins s t 0x0301 p (.itinLoad p hv img) q)
    (hk : prm p 8 0 1 = 1) {b : List Byte} (hb : (dpaItin t q.fn (prm p 0 0 64)).1 = .inl b) {u : State} {r : Reply}
    (hl : loadItin p (dpaItin t q.fn (prm p 0 0 64)).2 q.fn img b = .now u r) :
    exec (.itinLoad p hv img) s = .next (answer t u 0x0301 p q.fn r) := by
  refine h.now ((if_neg (by omega)).trans ?_)
  dsimp only
  rw [hb]
  exact hl

/-- An image read from host or device memory is checked on the state that the read left. -/
theorem itinLoad_read {s t u v : State} {p : Packet} {hv : HostView} {img : ItinImage} {q : SQueue} {b : List Byte} {r : Reply}
    (hu : (prm p 8 0 1 = 0 ∧ hostItin hv (prm p 0 0 64) = .inl b ∧ u = t) ∨
      (prm p 8 0 1 = 1 ∧ (dpaItin t q.fn (prm p 0 0 64)).1 = .inl b ∧ u = (dpaItin t q.fn (prm p 0 0 64)).2))
    (hl : loadItin p u q.fn img b = .now v r) (h : Begins s t 0x0301 p (.itinLoad p hv img) q) :
    exec (.itinLoad p hv img) s = .next (answer t v 0x0301 p q.fn r) := by
  rcases hu with ⟨hk, hb, rfl⟩ | ⟨hk, hb, rfl⟩
  · exact itinLoad_host h hk hb hl
  · exact itinLoad_device h hk hb hl

/-- A serving image that R472 does not refuse, or another image, goes on to the checks. -/
theorem notRefused {s : State} {g : ItinImage} (h : bitAt g.flags 1 = false ∨ servingRefused s = false) :
    ¬ (bitAt g.flags 1 = true ∧ servingRefused s = true) := fun hn =>
  h.elim (fun h0 => Bool.false_ne_true (h0.symm.trans hn.1)) fun h0 => Bool.false_ne_true (h0.symm.trans hn.2)

/-- Settles O45: each command by its image or map and what the engine does. -/
theorem itineraryCommands : Obligations.ItineraryCommands := by
  refine ⟨fun s t p hv img q => ?_, fun s t p hv ans q => ?_⟩ <;> dsimp only
  · refine ⟨fun e hk he h => ?hostBad, fun e hk he h => ?deviceBad, fun b u hu => ⟨fun hg hr => ?refused, fun hg => ⟨fun hi => ?second, fun hi ho => ?unfit,
        fun hi ho hl => ?badList, fun hi ho hl hr => ?noRange, fun v r hi ho hl hr ha => ?loaded⟩⟩,
      fun hi h => ?noImage, fun hi hr h => ?runs, fun hi hr h => ?unloaded, fun hi h => ?nothing, fun g hi => ⟨fun hg h => ?serving, fun hg hr h => ?again,
        fun x hg hr hx h => ?held, fun hg hr hx => ⟨fun hm h => ?alone, fun hm h => ?caravan⟩⟩⟩
    case hostBad =>
      refine h.now ((if_pos hk).trans ?_)
      rw [he]
      rfl
    case deviceBad =>
      refine h.now ((if_neg (by omega)).trans ?_)
      dsimp only
      rw [he]
      rfl
    case refused => exact itinLoad_read hu (if_pos ⟨hg, hr⟩)
    case second => exact itinLoad_read hu ((if_neg (notRefused hg)).trans (if_pos hi))
    case unfit => exact itinLoad_read hu ((if_neg (notRefused hg)).trans ((if_neg (by simp [hi])).trans (if_pos (by simp [ho]))))
    case badList =>
      exact itinLoad_read hu ((if_neg (notRefused hg)).trans ((if_neg (by simp [hi])).trans ((if_neg (by simp [ho])).trans (if_pos (by simp [hl])))))
    case noRange =>
      refine itinLoad_read hu ((if_neg (notRefused hg)).trans ((if_neg (by simp [hi])).trans ((if_neg (by simp [ho])).trans ((if_neg (by simp [hl])).trans ?_))))
      rw [hr]
      rfl
    case loaded =>
      refine itinLoad_read hu ((if_neg (notRefused hg)).trans ((if_neg (by simp [hi])).trans ((if_neg (by simp [ho])).trans ((if_neg (by simp [hl])).trans ?_))))
      rw [hr]
      dsimp only
      rw [ha]
      simp only [Bool.and_eq_true, beq_iff_eq]
    case noImage => exact h.now (if_pos (by simp [hi]))
    case runs => exact h.now ((if_neg (by simp [Option.isSome_iff_ne_none.mp hi])).trans (if_pos hr))
    case unloaded => exact h.now ((if_neg (by simp [Option.isSome_iff_ne_none.mp hi])).trans (if_neg (by simp [hr])))
    case nothing =>
      refine h.now ?_
      dsimp only
      rw [hi]
      rfl
    case serving =>
      refine h.now ?_
      dsimp only
      rw [hi]
      exact if_pos hg
    case again =>
      refine h.now ?_
      dsimp only
      rw [hi]
      exact (if_neg (by simp [hg])).trans (if_pos hr)
    case held =>
      refine h.now ?_
      dsimp only
      rw [hi, hx]
      exact (if_neg (by simp [hg])).trans (if_neg (by simp [hr]))
    case alone =>
      refine h.later ?_
      dsimp only
      rw [hi, hx]
      exact (if_neg (by simp [hg])).trans ((if_neg (by simp [hr])).trans (if_pos hm))
    case caravan =>
      refine h.later ?_
      dsimp only
      rw [hi, hx]
      exact (if_neg (by simp [hg])).trans ((if_neg (by simp [hr])).trans (if_neg (by omega)))
  · refine ⟨fun hr h => ?already, fun hr hb h => ?unreadable, fun b hr hb hm h => ?noMap, fun b m hr hb hm => ⟨fun hi h => ?noMember,
        fun j hi hf h => ?formFails, fun j hi hf h0 hd h => ?differs, fun hi hf hd => ⟨fun h1 h => ?lone, fun h1 h => ?formed⟩⟩,
      fun hr h => h.now (if_pos (by simp [hr])), fun hr ha h => h.now ((if_neg (by simp [hr])).trans (if_pos ha)),
      fun hr ha h => h.now ((if_neg (by simp [hr])).trans (if_neg (by simp [ha])))⟩
    case already => exact h.now (if_pos (by simp [hr]))
    case unreadable =>
      refine h.now ((if_neg (by simp [hr])).trans ?_)
      rw [hb]
      rfl
    case noMap =>
      refine h.now ((if_neg (by simp [hr])).trans ?_)
      rw [hb]
      dsimp only
      rw [hm]
    case noMember =>
      refine h.now ((if_neg (by simp [hr])).trans ?_)
      rw [hb]
      dsimp only
      rw [hm]
      exact if_pos hi
    case formFails =>
      refine h.now ((if_neg (by simp [hr])).trans ?_)
      rw [hb]
      dsimp only
      rw [hm]
      refine (if_neg (by omega)).trans ?_
      rw [hf]
    case differs =>
      refine h.now ((if_neg (by simp [hr])).trans ?_)
      rw [hb]
      dsimp only
      rw [hm]
      refine (if_neg (by omega)).trans ?_
      rw [hf, if_pos h0, hd]
    case lone =>
      have hd' : (if prm p 0 0 10 = 0 then differs t m ans else none) = none := ite_eq_right_iff.mpr fun h0 => hd.resolve_left (not_not.mpr h0)
      refine h.now ((if_neg (by simp [hr])).trans ?_)
      rw [hb]
      dsimp only
      rw [hm]
      refine (if_neg (by omega)).trans ?_
      rw [hf, hd']
      exact if_pos h1
    case formed =>
      have hd' : (if prm p 0 0 10 = 0 then differs t m ans else none) = none := ite_eq_right_iff.mpr fun h0 => hd.resolve_left (not_not.mpr h0)
      refine h.later ((if_neg (by simp [hr])).trans ?_)
      rw [hb]
      dsimp only
      rw [hm]
      refine (if_neg (by omega)).trans ?_
      rw [hf, hd']
      exact if_neg h1

/-! ### Fabric commands -/

/-- A claim wins where none is held, with a later epoch, or at the same epoch with a smaller serial number. -/
theorem claimWins_iff (s : State) (epoch : Nat) :
    (!bitAt (reg s Reg.FAB_MANAGER) 11 || decide (bitsOf (reg s Reg.FAB_MANAGER) 32 32 < epoch)
      || (epoch == bitsOf (reg s Reg.FAB_MANAGER) 32 32 && decide (serialNumber s < s.fab.claimSerial))) = true ↔
    (reg s Reg.FAB_MANAGER / 2 ^ 11 % 2 = 0 ∨ reg s Reg.FAB_MANAGER / 2 ^ 32 % 2 ^ 32 < epoch ∨
      (epoch = reg s Reg.FAB_MANAGER / 2 ^ 32 % 2 ^ 32 ∧ serialNumber s < s.fab.claimSerial)) := by
  have hbit : bitAt (reg s Reg.FAB_MANAGER) 11 = false ↔ reg s Reg.FAB_MANAGER / 2 ^ 11 % 2 = 0 := by
    rw [bitAt, Nat.testBit_eq_decide_div_mod_eq, decide_eq_false_iff_not]
    omega
  rw [bitsOf_eq]
  simp only [Bool.or_eq_true, Bool.not_eq_true', Bool.and_eq_true, beq_iff_eq, decide_eq_true_eq, or_assoc, hbit]

/-- The kinds of MGMT packet that are answered. -/
theorem mgmtAnswered_iff (kind : Nat) : [0x11, 0x12, 0x15].contains kind = true ↔ kind = 0x11 ∨ kind = 0x12 ∨ kind = 0x15 := by
  simp

/-- Settles O46: each command by the claim, the field or the kind that it names. -/
theorem fabricCommands : Obligations.FabricCommands := by
  intro s t p hv own sent q
  dsimp only
  refine ⟨⟨fun hw h => ?loses, fun hw h => ?claims⟩, fun ho h => h.now (if_pos (by simp [ho])), fun ho h => h.now (if_neg (by simp [ho])),
    fun hm h => h.now (if_pos hm), fun hm h => h.now (if_neg (by simp [hm])),
    ⟨fun hb h => ?bad, fun hb hp h => ?unreadable, fun b hb hp => ⟨fun ha hw h => ?noWindow, fun off u ha hw h => ?waits, fun ha h => ?sent⟩⟩⟩
  case loses => exact h.now (if_pos (by rw [Bool.not_eq_true', ← Bool.not_eq_true]; exact mt (claimWins_iff t _).mp hw))
  case claims => exact h.now (if_neg (by rw [Bool.not_eq_true', Bool.not_eq_false]; exact (claimWins_iff t _).mpr hw))
  case bad => exact h.now (if_pos (by simpa only [beq_iff_eq] using hb))
  case unreadable =>
    have hp' : (if (prm p 0 0 6 == 0x11) = true then some [] else hostImage hv (prm p 16 0 64) (prm p 24 0 13) 1) = none := by
      simpa only [beq_iff_eq] using hp
    refine h.now ((if_neg (by simpa only [beq_iff_eq] using hb)).trans ?_)
    rw [hp']
    rfl
  all_goals
    have hp' : (if (prm p 0 0 6 == 0x11) = true then some [] else hostImage hv (prm p 16 0 64) (prm p 24 0 13) 1) = some b := by
      simpa only [beq_iff_eq] using hp
  case noWindow =>
    refine h.now ((if_neg (by simpa only [beq_iff_eq] using hb)).trans ?_)
    rw [hp']
    exact (if_pos ((mgmtAnswered_iff _).mpr ha)).trans (withWindow_none hw)
  case waits =>
    refine h.later ((if_neg (by simpa only [beq_iff_eq] using hb)).trans ?_)
    rw [hp']
    refine (if_pos ((mgmtAnswered_iff _).mpr ha)).trans ((withWindow_some hw).trans ?_)
    simp only [beq_iff_eq]
  case sent =>
    refine h.now ((if_neg (by simpa only [beq_iff_eq] using hb)).trans ?_)
    rw [hp']
    exact if_neg (mt (mgmtAnswered_iff _).mp ha)

end Sys2Proof.Machine
end

section
/-!
SUPPORT. The commands PREFIX_HASH and PREFIX_LOOKUP and those of the pages (chapter 10).
-/
namespace Sys2Proof.Machine

/-! ### Windows and deferral -/

/-- A windowed command that succeeded fills its window. -/
theorem windowed_done {s : State} {off : Nat} {r : Reply} (bs : List PByte) (h : r.status < 0x0100) :
    windowed s off r bs = .now (fillWindow s off bs) (r.withWindow off) := if_pos h

/-- A windowed command that failed closes its window. -/
theorem windowed_failed {s : State} {off : Nat} {r : Reply} (bs : List PByte) (h : 0x0100 ≤ r.status) :
    windowed s off r bs = .now (closeWindow s off) r := if_neg (by omega)

/-- The ledger's changes wait at a caravan's lead. -/
theorem defersPages_iff (s : State) : defersPages s = true ↔ s.cmd.role = .lead := by
  simp [defersPages]

/-! ### PREFIX_HASH and PREFIX_LOOKUP -/

/-- PREFIX_HASH with its own parameters in range. -/
theorem prefixHash_inRange {s : State} {p : Packet} {hv : HostView} {m : Model} (fn : Nat) (hm : s.srv.model = some m)
    (hb : ¬ (prm p 4 0 32 = 0 ∧ prm p 16 0 64 ≠ 0 ∨ 65536 < prm p 0 0 17)) :
    prefixHash p hv s fn =
      match hostTokens hv (prm p 8 0 64) (prm p 0 0 17),
        (if prm p 4 0 32 = 0 then some (List.replicate 32 0) else hostImage hv (prm p 16 0 64) 32 4) with
      | some ts, some parent =>
        if !tokensOk m ts then no (setRegBit s Reg.PFX_ERR 0) p stBadParam
        else withWindow s p fn (32 * prm p 0 0 17) fun s off => windowed s off (doneC0 p (prm p 0 0 17)) (clean (digests m parent ts).flatten)
      | _, _ => no s p (hostError hv ((prm p 8 0 64, 64 * prm p 0 0 17, 4) :: if prm p 4 0 32 = 0 then [] else [(prm p 16 0 64, 32, 4)])) := by
  rw [prefixHash, hm]
  exact if_neg hb

/-- PREFIX_LOOKUP that may take references and whose tokens can be read. -/
theorem prefixLookup_read {s : State} {p : Packet} {hv : HostView} {m : Model} {ts : List (List Nat)} (fn : Nat) (hm : s.srv.model = some m)
    (ht : ¬ (prm p 4 0 1 = 1 ∧ s.cmd.work = .caravanLocked)) (hn : prm p 0 0 17 ≤ 65536) (hts : hostTokens hv (prm p 8 0 64) (prm p 0 0 17) = some ts) :
    prefixLookup p hv s fn =
      if !tokensOk m ts then no (setRegBit s Reg.PFX_ERR 0) p stBadParam
      else withWindow s p fn (4 * prm p 0 0 17) fun s off =>
        if prm p 4 0 1 = 1 ∧ defersPages s then .later s (ts.flatten) (some off)
        else let r := applyLookup s p m (decide (prm p 4 0 1 = 1)) ts; windowed r.1 off r.2.1 (idxBytes r.2.2) := by
  rw [prefixLookup, hm]
  refine (if_neg ht).trans ((if_neg (by omega)).trans ?_)
  rw [hts]

/-! ### The ledger's commands -/

/-- PAGE_REF or PAGE_FREE of a list that can be read and is short enough. -/
theorem pageRefBody_read {s : State} {p : Packet} {hv : HostView} {bs : List Nat} (take : Bool) (hb : blockList p hv = some bs) (hl : bs.length ≤ 4096) :
    pageRefBody p hv take s = if defersPages s then .later s bs none else .now (pageRefs s p take bs).1 (pageRefs s p take bs).2 := by
  rw [pageRefBody, hb]
  exact if_neg (by omega)

/-- PAGE_ALLOC is of 1 to 4,096 blocks, of a sequence of at most 65,536. -/
theorem pageAllocOk_iff (p : Packet) : pageAllocOk p = true ↔ 1 ≤ prm p 0 0 13 ∧ prm p 0 0 13 ≤ 4096 ∧ prm p 8 0 64 + prm p 0 0 13 ≤ 65536 := by
  simp [pageAllocOk, and_assoc]

/-- A PAGE_READ is refused for a block that is gone, and past the layers of the model. -/
theorem pageRead_refused (e : LEntry) (layers first n : Nat) :
    (!e.inUse || e.state == .retired || !e.placed || decide (layers < first + n + 1)) = true ↔
      (e.inUse = false ∨ e.state = .retired ∨ e.placed = false) ∨ layers < first + (n + 1) := by
  simp [or_assoc, Nat.add_assoc]

/-- Other formats that do not fit are refused. -/
theorem pageWrite_formats {e : LEntry} {m : Model} {n kf vf first : Nat}
    (hs : ¬ (kf = e.kfmt ∧ vf = e.vfmt))
    (hf : ¬ (first = 0 ∧ n = m.lkv ∧ 16 ≤ e.fill ∧ fitsArea m.d (headBytes m.d m.kfmt) kf = true ∧ fitsArea m.d (headBytes m.d m.vfmt) vf = true)) :
    ¬ (kf = e.kfmt ∧ vf = e.vfmt) ∧ (¬ (first = 0 ∧ n = m.lkv) ∨ e.fill < 16 ∨ fitsArea m.d (headBytes m.d m.kfmt) kf = false
      ∨ fitsArea m.d (headBytes m.d m.vfmt) vf = false) := by
  refine ⟨hs, ?_⟩
  by_contra hc
  simp only [not_or, not_not, not_lt, Bool.not_eq_false] at hc
  exact hf ⟨hc.1.1, hc.1.2, hc.2⟩

/-- Formats that an entry has, or that fit its areas, can be written. -/
theorem pageWrite_fits {e : LEntry} {m : Model} {n kf vf first : Nat}
    (h : (kf = e.kfmt ∧ vf = e.vfmt) ∨
      (first = 0 ∧ n = m.lkv ∧ 16 ≤ e.fill ∧ fitsArea m.d (headBytes m.d m.kfmt) kf = true ∧ fitsArea m.d (headBytes m.d m.vfmt) vf = true)) :
    ¬ (¬ (kf = e.kfmt ∧ vf = e.vfmt) ∧ (¬ (first = 0 ∧ n = m.lkv) ∨ e.fill < 16 ∨ fitsArea m.d (headBytes m.d m.kfmt) kf = false
      ∨ fitsArea m.d (headBytes m.d m.vfmt) vf = false)) := by
  rintro ⟨hs, hc⟩
  obtain ⟨h0, hn, hf, hk, hv⟩ := h.resolve_left hs
  simp only [h0, hn, hk, hv, and_self, not_true_eq_false, Bool.true_eq_false, or_false, false_or] at hc
  omega

/-- Settles O47: each command by its model, its lists, its blocks and the room for its window. -/
theorem prefixCommands : Obligations.PrefixCommands := by
  refine ⟨fun s t p hv q => ?_, fun s t p hv q => ?_⟩ <;> dsimp only
  · refine ⟨fun hm => ⟨fun h => ?hashModel, fun h => ?lookupModel, fun h => ?allocModel⟩, fun m hm =>
      ⟨⟨fun hb h => ?hashRange, fun hb hn h => ?hashRead, fun ts d hts hd => ⟨fun hb ho h => ?hashTokens, fun hb ho =>
          ⟨fun ha h => ?hashWindow, fun off u ha h => ?hashDone⟩⟩⟩,
        ⟨fun ht hw h => ?lookupLocked, fun ht hn h => ?lookupRange, fun ht hn hts h => ?lookupRead, fun ts hts => ⟨fun ht hn ho h => ?lookupTokens, fun ht hn ho =>
          ⟨fun ha h => ?lookupWindow, fun off u ha => ⟨fun hk hr h => ?lookupWaits, fun hk hr h => ?lookupDone, fun hk hr h => ?lookupFailed⟩⟩⟩⟩,
        ⟨fun ho h => ?allocRange, fun ho ha h => ?allocWindow, fun off u ho ha => ⟨fun hr h => ?allocWaits, fun hr hs h => ?allocDone, fun hr hs h => ?allocFailed⟩⟩⟩,
      fun op c take hc => ⟨fun hb h => ?refRead, fun bs hb => ⟨fun hl h => ?refLong, fun hl hr h => ?refWaits, fun hl hr h => ?refDone⟩⟩⟩
    case hashModel =>
      refine h.now ?_
      rw [prefixHash, hm]
      rfl
    case lookupModel =>
      refine h.now ?_
      rw [prefixLookup, hm]
      rfl
    case allocModel =>
      refine h.now ?_
      dsimp only
      rw [hm]
      rfl
    case hashRange =>
      refine h.now ?_
      rw [prefixHash, hm]
      exact if_pos hb
    case hashRead =>
      refine h.now ((prefixHash_inRange _ hm hb).trans ?_)
      rcases hn with hn | hn
      · rw [hn]
        rfl
      · rw [hn]
        cases hostTokens hv (prm p 8 0 64) (prm p 0 0 17) <;> rfl
    case hashTokens =>
      refine h.now ((prefixHash_inRange _ hm hb).trans ?_)
      rw [hts, hd]
      exact if_pos (by simp [ho])
    case hashWindow =>
      refine h.now ((prefixHash_inRange _ hm hb).trans ?_)
      rw [hts, hd]
      exact (if_neg (by simp [ho])).trans (withWindow_none ha)
    case hashDone =>
      refine h.now ((prefixHash_inRange _ hm hb).trans ?_)
      rw [hts, hd]
      exact (if_neg (by simp [ho])).trans (withWindow_some ha)
    case lookupLocked =>
      refine h.now ?_
      rw [prefixLookup, hm]
      exact if_pos ⟨ht, hw⟩
    case lookupRange =>
      refine h.now ?_
      rw [prefixLookup, hm]
      exact (if_neg ht).trans (if_pos hn)
    case lookupRead =>
      refine h.now ?_
      rw [prefixLookup, hm]
      refine (if_neg ht).trans ((if_neg (by omega)).trans ?_)
      rw [hts]
      rfl
    case lookupTokens =>
      exact h.now ((prefixLookup_read _ hm ht hn hts).trans (if_pos (by simp [ho])))
    case lookupWindow =>
      exact h.now ((prefixLookup_read _ hm ht hn hts).trans ((if_neg (by simp [ho])).trans (withWindow_none ha)))
    case lookupWaits =>
      exact h.later ((prefixLookup_read _ hm ht hn hts).trans ((if_neg (by simp [ho])).trans ((withWindow_some ha).trans (if_pos ⟨hk, (defersPages_iff u).mpr hr⟩))))
    case lookupDone =>
      exact h.now ((prefixLookup_read _ hm ht hn hts).trans ((if_neg (by simp [ho])).trans ((withWindow_some ha).trans ((if_neg fun hn => hk.elim (absurd hn.1) (absurd ((defersPages_iff u).mp hn.2))).trans (windowed_done _ hr)))))
    case lookupFailed =>
      exact h.now ((prefixLookup_read _ hm ht hn hts).trans ((if_neg (by simp [ho])).trans ((withWindow_some ha).trans ((if_neg fun hn => hk.elim (absurd hn.1) (absurd ((defersPages_iff u).mp hn.2))).trans (windowed_failed _ hr)))))
    case allocRange =>
      refine h.now ?_
      dsimp only
      rw [hm]
      exact if_pos (by rw [Bool.not_eq_true', ← Bool.not_eq_true]; exact mt (pageAllocOk_iff p).mp ho)
    case allocWindow =>
      refine h.now ?_
      dsimp only
      rw [hm]
      exact (if_neg (by simp [(pageAllocOk_iff p).mpr ho])).trans (withWindow_none ha)
    case allocWaits =>
      refine h.later ?_
      dsimp only
      rw [hm]
      exact (if_neg (by simp [(pageAllocOk_iff p).mpr ho])).trans ((withWindow_some ha).trans (if_pos ((defersPages_iff u).mpr hr)))
    case allocDone =>
      refine h.now ?_
      dsimp only
      rw [hm]
      exact (if_neg (by simp [(pageAllocOk_iff p).mpr ho])).trans ((withWindow_some ha).trans ((if_neg (mt (defersPages_iff u).mp hr)).trans (windowed_done _ hs)))
    case allocFailed =>
      refine h.now ?_
      dsimp only
      rw [hm]
      exact (if_neg (by simp [(pageAllocOk_iff p).mpr ho])).trans ((withWindow_some ha).trans ((if_neg (mt (defersPages_iff u).mp hr)).trans (windowed_failed _ hs)))
    case refRead =>
      have hbody : pageRefBody p hv take t = no t p (hostError hv [(prm p 8 0 64, 4 * prm p 0 0 13, 4)]) := by rw [pageRefBody, hb]
      simp only [List.mem_cons, Prod.mk.injEq, List.not_mem_nil, or_false] at hc
      rcases hc with ⟨rfl, rfl, rfl⟩ | ⟨rfl, rfl, rfl⟩ <;> exact h.now hbody
    case refLong =>
      have hbody : pageRefBody p hv take t = no t p stBadParam := by
        rw [pageRefBody, hb]
        exact if_pos hl
      simp only [List.mem_cons, Prod.mk.injEq, List.not_mem_nil, or_false] at hc
      rcases hc with ⟨rfl, rfl, rfl⟩ | ⟨rfl, rfl, rfl⟩ <;> exact h.now hbody
    case refWaits =>
      have hbody := (pageRefBody_read take hb hl).trans (if_pos ((defersPages_iff t).mpr hr))
      simp only [List.mem_cons, Prod.mk.injEq, List.not_mem_nil, or_false] at hc
      rcases hc with ⟨rfl, rfl, rfl⟩ | ⟨rfl, rfl, rfl⟩ <;> exact h.later hbody
    case refDone =>
      have hbody := (pageRefBody_read take hb hl).trans (if_neg (mt (defersPages_iff t).mp hr))
      simp only [List.mem_cons, Prod.mk.injEq, List.not_mem_nil, or_false] at hc
      rcases hc with ⟨rfl, rfl, rfl⟩ | ⟨rfl, rfl, rfl⟩ <;> exact h.now hbody
  · refine ⟨fun hm => ⟨fun h => ?readModel, fun h => ?writeModel⟩, fun m hm => ⟨fun hg h => ?readGone, fun hg h => ?writeGone, fun hg hp =>
        ⟨fun hk h => ?readPins, fun u hk h => ?readDone⟩, fun hg => ⟨fun ho h => ?writeOwner, fun ho hp h => ?writePast, fun ho hp hs hf h => ?writeFormat,
          fun ho hp hs hk h => ?writePins, fun u ho hp hs hk h => ?writeDone⟩⟩,
      fun hk h => ?tableRange, fun h1 h2 ha h => ?tableWindow, fun off u h1 h2 ha h => ?tableDone⟩
    case readModel =>
      refine h.now ?_
      dsimp only
      rw [hm]
      rfl
    case writeModel =>
      refine h.now ?_
      dsimp only
      rw [hm]
      rfl
    case readGone =>
      refine h.now ?_
      dsimp only
      rw [hm]
      exact if_pos ((pageRead_refused _ _ _ _).mpr hg)
    case readPins =>
      refine h.now ?_
      dsimp only
      rw [hm]
      refine (if_neg (mt (pageRead_refused _ _ _ _).mp (not_or.mpr ⟨hg, hp⟩))).trans ?_
      rw [hk]
      rfl
    case readDone =>
      refine h.now ?_
      dsimp only
      rw [hm]
      refine (if_neg (mt (pageRead_refused _ _ _ _).mp (not_or.mpr ⟨hg, hp⟩))).trans ?_
      rw [hk]
    case writeGone =>
      refine h.now ?_
      dsimp only
      rw [hm]
      exact if_pos (by simpa only [Bool.or_eq_true, Bool.not_eq_true', beq_iff_eq, or_assoc] using hg)
    case writeOwner =>
      refine h.now ?_
      dsimp only
      rw [hm]
      exact (if_neg (by simpa only [Bool.or_eq_true, Bool.not_eq_true', beq_iff_eq, or_assoc] using hg)).trans (if_pos (by rwa [← not_and_or]))
    case writePast =>
      refine h.now ?_
      dsimp only
      rw [hm]
      exact (if_neg (by simpa only [Bool.or_eq_true, Bool.not_eq_true', beq_iff_eq, or_assoc] using hg)).trans ((if_neg (not_or.mpr ⟨not_not.mpr ho.1, not_not.mpr ho.2⟩)).trans (if_pos hp))
    case writeFormat =>
      refine h.now ?_
      dsimp only
      rw [hm]
      exact (if_neg (by simpa only [Bool.or_eq_true, Bool.not_eq_true', beq_iff_eq, or_assoc] using hg)).trans ((if_neg (not_or.mpr ⟨not_not.mpr ho.1, not_not.mpr ho.2⟩)).trans ((if_neg hp).trans (if_pos (pageWrite_formats hs hf))))
    case writePins =>
      refine h.now ?_
      dsimp only
      rw [hm]
      refine (if_neg (by simpa only [Bool.or_eq_true, Bool.not_eq_true', beq_iff_eq, or_assoc] using hg)).trans ((if_neg (not_or.mpr ⟨not_not.mpr ho.1, not_not.mpr ho.2⟩)).trans ((if_neg hp).trans ((if_neg (pageWrite_fits hs)).trans ?_)))
      rw [hk]
      rfl
    case writeDone =>
      refine h.now ?_
      dsimp only
      rw [hm]
      refine (if_neg (by simpa only [Bool.or_eq_true, Bool.not_eq_true', beq_iff_eq, or_assoc] using hg)).trans ((if_neg (not_or.mpr ⟨not_not.mpr ho.1, not_not.mpr ho.2⟩)).trans ((if_neg hp).trans ((if_neg (pageWrite_fits hs)).trans ?_)))
      rw [hk]
    case tableRange =>
      exact h.now (if_pos hk)
    case tableWindow =>
      exact h.now ((if_neg (by omega)).trans (withWindow_none ha))
    case tableDone =>
      exact h.now ((if_neg (by omega)).trans (withWindow_some ha))

end Sys2Proof.Machine
end

section
/-!
SUPPORT. The serving commands (chapter 11): models, tenants, adapters and grammars, and the STEP.
-/
namespace Sys2Proof.Machine

/-! ### Tenants and adapters -/

/-- A tenant that a slot holds changes neither its class nor loses its enable. -/
theorem tenantHeld_iff (s : State) (x : Nat) (cls : Bool) (en : Prop) [Decidable en] :
    ((s.srv.core.slots.any fun y => y.2.state != 0 && y.2.tenant == x) = true ∧ ((tenantAt s x).1 ≠ cls ∨ ¬ en)) ↔
      ((∃ y ∈ s.srv.core.slots, y.2.state ≠ 0 ∧ y.2.tenant = x) ∧ ((tenantAt s x).1 ≠ cls ∨ decide en = false)) := by
  simp

/-- A generation is refused where the slot has it already. -/
theorem sameGeneration_iff (y : Option (Nat × Nat)) (g : Nat) :
    (match y with | some c => c.1 == g | none => false) = true ↔ y.map (·.1) = some g := by
  cases y <;> simp

/-- What an ADAPTER_LOAD refuses by its generation, rank and length. -/
theorem adapterRefused_iff (x : AdSlot) (m : Model) (g rank len : Nat) :
    (g = 0 ∨ (match x.cur with | some c => c.1 == g | none => false) = true ∨ (match x.ret with | some c => c.1 == g | none => false) = true
      ∨ m.maxRank < rank ∨ len = 0 ∨ m.store < len) ↔
      (g = 0 ∨ x.cur.map (·.1) = some g ∨ x.ret.map (·.1) = some g ∨ m.maxRank < rank ∨ len = 0 ∨ m.store < len) := by
  simp only [sameGeneration_iff]

/-- Settles O48: each command by its image and by what a step names. -/
theorem servingCommands : Obligations.ServingCommands := by
  intro s t p hv q
  dsimp only
  refine ⟨⟨fun hr h => ?modelUnread, fun m hr => ⟨fun hu h => ?modelRoom, fun u hu h => ?modelLoaded⟩⟩, fun h => h.now rfl,
    ⟨fun hh hc h => ?tenantHeld, fun hn h => ?tenantSet⟩, fun hm => ⟨fun h => ?adapterModel, fun h => ?grammarModel⟩,
    fun m hm => ⟨fun hb h => ?adapterBad, fun hb hi h => ?adapterUnread, fun img hb hi => ⟨fun hl h => ?adapterLoading, fun hl =>
      ⟨fun i hf h => ?adapterStore, fun c hf hc hu h => ?adapterOwn, fun hf hc h => ?adapterRoom⟩⟩⟩,
    ⟨fun hc h => ?freeNone, fun c hc => ⟨fun hu h => ?freeIdle, fun hu h => ?freeUsed⟩⟩,
    fun m hm => ⟨fun hi h => ?grammarUnread, fun b hi hg h => ?grammarBad, fun b g hi hg => ⟨fun hf h => ?grammarFull, fun hf h => ?grammarLoaded⟩⟩,
    ⟨fun hn h => h.now (if_pos hn), fun hn h => h.now (if_neg (by simp [hn]))⟩⟩
  case modelUnread =>
    refine h.now ?_
    rw [hr]
    rfl
  case modelRoom =>
    refine h.now ?_
    rw [hr]
    dsimp only
    rw [hu]
    rfl
  case modelLoaded =>
    refine h.now ?_
    rw [hr]
    dsimp only
    rw [hu]
  case tenantHeld => exact h.now (if_pos ((tenantHeld_iff t _ _ _).mpr ⟨hh, hc⟩))
  case tenantSet => exact h.now (if_neg (mt (tenantHeld_iff t _ _ _).mp hn))
  case adapterModel | grammarModel =>
    refine h.now ?_
    dsimp only
    rw [hm]
    rfl
  case adapterBad =>
    refine h.now ?_
    dsimp only
    rw [hm]
    exact if_pos ((adapterRefused_iff _ _ _ _ _).mpr hb)
  case adapterUnread =>
    refine h.now ?_
    dsimp only
    rw [hm]
    refine (if_neg (mt (adapterRefused_iff _ _ _ _ _).mp hb)).trans ?_
    rw [hi]
    rfl
  case adapterLoading =>
    obtain ⟨l, hl⟩ := Option.isSome_iff_exists.mp hl
    refine h.now ?_
    dsimp only
    rw [hm]
    refine (if_neg (mt (adapterRefused_iff _ _ _ _ _).mp hb)).trans ?_
    rw [hi, hl]
    rfl
  case adapterStore =>
    refine h.later ?_
    dsimp only
    rw [hm]
    refine (if_neg (mt (adapterRefused_iff _ _ _ _ _).mp hb)).trans ?_
    rw [hi, hl]
    dsimp only
    rw [hf]
  case adapterOwn =>
    refine h.later ?_
    dsimp only
    rw [hm]
    refine (if_neg (mt (adapterRefused_iff _ _ _ _ _).mp hb)).trans ?_
    rw [hi, hl]
    dsimp only
    rw [hf, hc]
    exact if_pos hu
  case adapterRoom =>
    refine h.now ?_
    dsimp only
    rw [hm]
    refine (if_neg (mt (adapterRefused_iff _ _ _ _ _).mp hb)).trans ?_
    rw [hi, hl]
    dsimp only
    rw [hf]
    cases hx : (adapterAt t (prm p 0 0 8)).cur with
    | none => rfl
    | some c => exact if_neg (hc.resolve_left (by simp [hx]))
  case freeNone =>
    refine h.now ?_
    dsimp only
    rw [hc]
  case freeIdle =>
    refine h.now ?_
    dsimp only
    rw [hc]
    dsimp only
    rw [if_pos hu]
  case freeUsed =>
    refine h.now ?_
    dsimp only
    rw [hc]
    dsimp only
    rw [if_neg hu]
  case grammarUnread =>
    refine h.now ?_
    dsimp only
    rw [hm]
    dsimp only
    rw [hi]
    rfl
  case grammarBad =>
    refine h.now ?_
    dsimp only
    rw [hm]
    dsimp only
    rw [hi, Option.bind_some, hg]
    rfl
  case grammarFull =>
    refine h.now ?_
    dsimp only
    rw [hm]
    dsimp only
    rw [hi, Option.bind_some, hg]
    exact if_pos hf
  case grammarLoaded =>
    refine h.now ?_
    dsimp only
    rw [hm]
    dsimp only
    rw [hi, Option.bind_some, hg]
    exact if_neg hf

end Sys2Proof.Machine
end

section
/-!
SUPPORT. The STEP at the lead module (R420 to R423).
-/
namespace Sys2Proof.Machine

/-- Whether a manifest entry is at fault. -/
def entryFaulty (u : State) (m : Model) (g : ItinImage) (e : MEntry) : Bool := paramPoison u e || (entryFails u m g.seed e).isSome

/-- An entry is at fault where its parameter block is poisoned or a check fails. -/
theorem entryFaulty_eq_false (u : State) (m : Model) (g : ItinImage) (e : MEntry) :
    entryFaulty u m g e = false ↔ entryFails u m g.seed e = none ∧ paramPoison u e = false := by
  simp [entryFaulty, and_comm]

/-- A STEP whose manifest can be read is checked entry by entry. -/
theorem stepBody_read {t : State} {p : Packet} {hv : HostView} {fn n : Nat} {m : Model} {g : ItinImage} {img : List Byte} {es : List MEntry}
    (hm : (takeEngine t (ctxKey fn (pktCtx p))).srv.model = some m) (hi : (takeEngine t (ctxKey fn (pktCtx p))).itn.image = some g)
    (hd : p.deadline = 0) (hg : g.flags / 2 % 2 = 1) (hq : quarantined t = none)
    (hf : fetchManifest hv (prm p 0 0 64) (slotF g.slot 34 0 32) = some (img, n, es)) :
    stepBody p hv t fn = stepChecked p (vfParams fn t es).2 fn m g img n (vfParams fn t es).1 := by
  rw [stepBody, hm, hi]
  refine (if_neg (not_not.mpr hd)).trans ((if_neg (by omega)).trans ((if_neg (by simp [hq])).trans ?_))
  rw [hf]

/-- The first entry at fault decides. -/
theorem stepChecked_fault {t1 : State} {p : Packet} {fn n i : Nat} {m : Model} {g : ItinImage} {img : List Byte} {es : List MEntry} (hl : i < es.length)
    (hi : entryFaulty (takeEngine t1 (ctxKey fn (pktCtx p))) m g (nth es i ⟨[], [], [], []⟩) = true)
    (hj : ∀ j < i, entryFaulty (takeEngine t1 (ctxKey fn (pktCtx p))) m g (nth es j ⟨[], [], [], []⟩) = false) :
    stepChecked p t1 fn m g img n es =
      let u := takeEngine t1 (ctxKey fn (pktCtx p))
      if paramPoison u (nth es i ⟨[], [], [], []⟩) then no t1 p stMemUe
      else .now (if entryFails u m g.seed (nth es i ⟨[], [], [], []⟩) = some true then setRegBit t1 Reg.SMP_ERR 4 else t1)
        (rejectAt p stBadParam i 0xFFFFFFFF) := by
  have hfind : (List.range es.length).find? (fun i => entryFaulty (takeEngine t1 (ctxKey fn (pktCtx p))) m g (nth es i ⟨[], [], [], []⟩)) = some i :=
    List.find?_range_eq_some.mpr ⟨hi, List.mem_range.mpr hl, fun j hlt => by simp [hj j hlt]⟩
  rw [stepChecked]
  dsimp only
  unfold entryFaulty at hfind
  rw [hfind]

/-- With no entry at fault the step goes on. -/
theorem stepChecked_good {t1 : State} {p : Packet} {fn n : Nat} {m : Model} {g : ItinImage} {img : List Byte} {es : List MEntry}
    (h : ∀ i < es.length, entryFaulty (takeEngine t1 (ctxKey fn (pktCtx p))) m g (nth es i ⟨[], [], [], []⟩) = false) :
    stepChecked p t1 fn m g img n es =
      let u := takeEngine t1 (ctxKey fn (pktCtx p))
      if es.length < n then .now t1 (rejectAt p stBadParam es.length 0xFFFFFFFF)
      else match unreadable u m es with
      | some x => .now t1 (rejectAt p stBadParam x.1 x.2)
      | none =>
        let tri := es.map (triage u u.bell)
        let kept := tri.map (·.1)
        match allocWindow u fn (resultBytes kept), pickVariant g (shapeOf u kept) with
        | none, _ => no t1 p stBusy
        | _, .inr b => .now t1 (rejectAt p stBadParam b 0xFFFFFFFF)
        | some (off, w), .inl v =>
          match admitStep (passOne u) m (StepRun.fresh 0 kept (kept.map fun e => SRes.fresh 0 e.runs)) with
          | none => no (ldgError t1 2 0) p stBusy
          | some _ => acceptStep w g img tri v off := by
  have hfind : (List.range es.length).find? (fun i => entryFaulty (takeEngine t1 (ctxKey fn (pktCtx p))) m g (nth es i ⟨[], [], [], []⟩)) = none :=
    List.find?_eq_none.mpr fun i hi => by simp [h i (List.mem_range.mp hi)]
  rw [stepChecked]
  dsimp only
  unfold entryFaulty at hfind
  rw [hfind] <;> rfl

/-- Settles O49: the STEP's refusals in order, and the step that is accepted. -/
theorem stepCommand : Obligations.StepCommand := by
  intro s t p hv q
  dsimp only
  refine ⟨fun hn h => ?noImage, fun m g hm hi => ⟨fun hd h => ?deadline, fun hd hg h => ?notServing, fun x hd hg hx h => ?held, fun hd hg hq =>
    ⟨fun hf h => ?unread, fun img n es0 hf => ⟨fun i hl hj => ⟨fun hp h => ?poisoned, fun hp hb h => ?clash, fun hp hb h => ?entryBad⟩, fun hgood =>
      ⟨fun hn h => ?short, fun x hn hu h => ?block, fun hn hu => ⟨fun ha h => ?noWindow, fun off w ha => ⟨fun b hv h => ?shape, fun v hv =>
        ⟨fun hadm h => ?pages, fun hadm h => ?accepted⟩⟩⟩⟩⟩⟩⟩⟩
  case noImage =>
    refine h.now ?_
    rw [stepBody]
    dsimp only
    rcases hn with hn | hn
    · rw [hn]
      rfl
    · rw [hn]
      cases (takeEngine t (ctxKey q.fn (pktCtx p))).srv.model <;> rfl
  case deadline =>
    refine h.now ?_
    rw [stepBody, hm, hi]
    exact if_pos hd
  case notServing =>
    refine h.now ?_
    rw [stepBody, hm, hi]
    exact (if_neg (not_not.mpr hd)).trans (if_pos hg)
  case held =>
    refine h.now ?_
    rw [stepBody, hm, hi]
    refine (if_neg (not_not.mpr hd)).trans ((if_neg (by omega)).trans ((if_pos (by simp [hx])).trans ?_))
    rw [hx]
    rfl
  case unread =>
    refine h.now ?_
    rw [stepBody, hm, hi]
    refine (if_neg (not_not.mpr hd)).trans ((if_neg (by omega)).trans ((if_neg (by simp [hq])).trans ?_))
    rw [hf]
    rfl
  case poisoned =>
    refine h.now ((stepBody_read hm hi hd hg hq hf).trans ((stepChecked_fault hl ?_ ?_).trans (if_pos hp)))
    · simp [entryFaulty, hp]
    · exact fun j hlt => (entryFaulty_eq_false _ _ _ _).mpr (hj j hlt)
  case clash =>
    refine h.now ((stepBody_read hm hi hd hg hq hf).trans ((stepChecked_fault hl ?_ ?_).trans ((if_neg (by simp [hp])).trans ?_)))
    · simp [entryFaulty, hb]
    · exact fun j hlt => (entryFaulty_eq_false _ _ _ _).mpr (hj j hlt)
    · rw [if_pos hb]
  case entryBad =>
    refine h.now ((stepBody_read hm hi hd hg hq hf).trans ((stepChecked_fault hl ?_ ?_).trans ((if_neg (by simp [hp])).trans ?_)))
    · simp [entryFaulty, hb]
    · exact fun j hlt => (entryFaulty_eq_false _ _ _ _).mpr (hj j hlt)
    · rw [if_neg (by simp [hb])]
  all_goals
    have hread := (stepBody_read hm hi hd hg hq hf).trans (stepChecked_good fun i hl => (entryFaulty_eq_false _ _ _ _).mpr (hgood i hl))
  case short => exact h.now (hread.trans (if_pos hn))
  case block =>
    refine h.now (hread.trans ((if_neg (by omega)).trans ?_))
    rw [hu]
  case noWindow =>
    refine h.now (hread.trans ((if_neg (by omega)).trans ?_))
    rw [hu]
    dsimp only
    rw [ha]
    rfl
  case shape =>
    refine h.now (hread.trans ((if_neg (by omega)).trans ?_))
    rw [hu]
    dsimp only
    rw [ha, hv]
  case pages =>
    refine h.now (hread.trans ((if_neg (by omega)).trans ?_))
    rw [hu]
    dsimp only
    rw [ha, hv]
    dsimp only
    rw [hadm]
    rfl
  case accepted =>
    obtain ⟨u, hadm⟩ := Option.isSome_iff_exists.mp hadm
    refine h.later (hread.trans ((if_neg (by omega)).trans ?_))
    rw [hu]
    dsimp only
    rw [ha, hv]
    dsimp only
    rw [hadm]
    rfl

end Sys2Proof.Machine
end

section
/-!
SUPPORT. Attestation and firmware commands (chapter 17).
-/
namespace Sys2Proof.Machine

/-- The kinds of image that are staged. -/
theorem stageKind_iff (p : Packet) : ¬ (prm p 16 0 2 = 0 ∨ prm p 16 0 2 = 3) ↔ prm p 16 0 2 = 1 ∨ prm p 16 0 2 = 2 := by
  have hlt : prm p 16 0 2 < 2 ^ 2 := Nat.mod_lt _ (Nat.two_pow_pos 2)
  omega

/-- Settles O50: each command by its image, its window, the engine and the flash window. -/
theorem securityCommands : Obligations.SecurityCommands := by
  intro s t p hv bad q
  dsimp only
  refine ⟨⟨fun hb h => ?noNonce, fun nonce hb => ⟨fun ha h => ?noWindow, fun off u ha => ⟨fun hr h => ?behind, fun hr ho h => ?waits, fun st hr ho h => ?refused,
      fun sig w v hr ho hw h => ?signed⟩⟩⟩,
    ⟨fun hk h => ?badKind, fun hk hb h => ?unread, fun b hk hb => ⟨fun hc h => ?staged, fun hc h => ?unfit⟩⟩,
    ⟨fun hk h => h.now (if_pos (by simp [hk])), fun hk hf h => ?inhibited, fun hk hf h => ?activates⟩, fun h => h.now rfl⟩
  case noNonce =>
    refine h.now ?_
    dsimp only
    rw [hb]
    rfl
  case noWindow =>
    refine h.now ?_
    dsimp only
    rw [hb]
    dsimp only
    rw [ha]
    rfl
  case behind =>
    refine h.later ?_
    dsimp only
    rw [hb]
    dsimp only
    rw [ha, if_neg (mt List.isEmpty_iff.mp hr)]
  case waits =>
    refine h.later ?_
    dsimp only
    rw [hb]
    dsimp only
    rw [ha, if_pos (List.isEmpty_iff.mpr hr), ho]
  case refused =>
    refine h.now ?_
    dsimp only
    rw [hb]
    dsimp only
    rw [ha, if_pos (List.isEmpty_iff.mpr hr), ho]
    rfl
  case signed =>
    refine h.now ?_
    dsimp only
    rw [hb]
    dsimp only
    rw [ha, if_pos (List.isEmpty_iff.mpr hr), ho]
    exact withWindow_some hw
  case badKind => exact h.now (if_pos (not_not.mp fun hn => ((stageKind_iff p).mp hn).elim hk.1 hk.2))
  case unread =>
    refine h.now ((if_neg ((stageKind_iff p).mpr hk)).trans ?_)
    rw [hb]
    rfl
  case staged =>
    refine h.now ((if_neg ((stageKind_iff p).mpr hk)).trans ?_)
    rw [hb]
    simp only [Bool.not_eq_true']
    exact if_pos hc
  case unfit =>
    refine h.now ((if_neg ((stageKind_iff p).mpr hk)).trans ?_)
    rw [hb]
    simp only [Bool.not_eq_true']
    exact if_neg hc
  case inhibited => exact h.now ((if_neg (by simp [Option.isSome_iff_ne_none.mp hk])).trans (if_pos (by simp [hf])))
  case activates => exact h.later ((if_neg (by simp [Option.isSome_iff_ne_none.mp hk])).trans (if_neg (by simp [hf])))

end Sys2Proof.Machine
end
